-- ==== Sys2Proof/Word.lean ====
section
/-! DEFINITION. The word types of the register space and byte layouts (spec 00_scope R6, R7; 15 R625). -/

namespace Sys2Proof

/-- A 32-bit register of BAR0 or BAR2 (15 R625). -/
abbrev Word := BitVec 32

/-- One byte of a byte layout (00_scope R7). -/
abbrev Byte := BitVec 8

/-- The data of one logical block, 4,096 bytes (03 R123), byte 0 in bits 7:0. -/
abbrev Block := BitVec 32768

end Sys2Proof
end

