-- ==== Sys2Proof/Config.lean ====
section
/-! DEFINITION. What the spec fixes for every part (limits, the reference die profile), and the free values: constants with
no body for what the spec leaves open. -/

namespace Sys2Proof.Config

/-! ## Free values -/

/-- The 512-bit key that the controller's random generator gives on its n-th draw (09 R426). FREE VALUE: notes/assumptions/3. -/
opaque plotKey : Nat → BitVec 512

/-- The n-th draw of a DRAM port's 32-bit LFSR (07 R349 gives neither polynomial nor seed). FREE VALUE: notes/assumptions/4. -/
opaque lfsrDraw : Nat → Nat → BitVec 32

/-- θ × P_die of 11 R515 for a die, in 1/16 °C: the image's coefficient times the activity estimate. FREE VALUE:
notes/assumptions/5. -/
opaque dieRise : Nat → Nat → Nat

/-- NGUID given to the n-th namespace created: the spec names the field (09 R446) and no value. FREE VALUE:
notes/assumptions/6. -/
opaque nguid : Nat → Nat

/-- Byte `n` of identify or standard log data that the spec leaves to the NVMe standards (00_scope R11), by page.
FREE VALUE: notes/assumptions/7. -/
opaque standardByte : Nat → Nat → Byte

/-- Bin shift of an event code, which the Gnotas image sets (14 R598). FREE VALUE: notes/assumptions/8. -/
opaque binShift : Nat → Nat

/-- A 64-byte line that salvage, a dump or another unit stores and whose bytes the spec does not lay out.
FREE VALUE: notes/assumptions/9. -/
opaque lineData : Nat → BitVec 512

/-- The four Evundem public keys in the boot ROM, points of P-384 (13 R564): the spec gives no value. FREE VALUE: notes/assumptions/10. -/
opaque imageKey : Nat → Nat × Nat

/-- Shift that an entry of a profile's drift table gives a read level, by table, index and level (05 R272; the image carries the tables). FREE
VALUE: notes/assumptions/126. -/
opaque levelShift : Nat → Nat → Nat → Int

/-- Temperature coefficient of a profile for a read level, by table and level (05 R273). FREE VALUE: notes/assumptions/126. -/
opaque tempCoeff : Nat → Nat → Int

/-- Line of a record within its region of a port, by a plain counter: the spec does not place records (07 R338). FREE VALUE: notes/assumptions/134. -/
opaque recordLine : Nat → Nat

/-- A dword of configuration space other than Command, by port, function and offset: PCI Express lays it out (15 R619). FREE VALUE: notes/assumptions/145. -/
opaque configDword : Nat → Nat → Nat → BitVec 32

/-- Payload of a headland record, by record and generation: the spec lays out its copies, not what they carry (12 R550, R551). FREE VALUE:
notes/assumptions/143. -/
opaque recordPayload : Nat → Nat → List Byte

/-- Line of the hub region where the Yield Book's counting records begin: not stated (14 R595). FREE VALUE: notes/assumptions/134. -/
opaque bookLine : Nat

/-- Base matrix of the sheaf code in the image's codec definition (06 R290), by row and column: the shift of a circulant of size 256, or none
for a zero block. FREE VALUE: notes/assumptions/125. -/
opaque ldpcBase : Nat → Nat → Option Nat

/-- Information bytes of a sheaf of a data unit, its 16 grains as the drill's cipher gives them (06 R289), by NSID, zone, stripe row, unit of the row and
sheaf of the unit. FREE VALUE: notes/assumptions/127. -/
opaque unitSheaf : Nat → Nat → Nat → Nat → Nat → List Byte

/-! ## The reference die profile (05 R235, R236; 02 R103) -/

def planes : Nat := 4
def bitsPerCell : Nat := 4
def pagesPerBlock : Nat := 2048
def slotsPerDie : Nat := 4096
def minGoodBlocks : Nat := 4208
def headlandBlocks : Nat := 8
def ratedPe : Nat := 3000
def publishesTight : Bool := true

/-- logical blocks of a die-program unit, native mode (06 "From LBA to grain") -/
def unitBlocks : Nat := planes * bitsPerCell * 4
/-- units of a block (05 R238) -/
def unitsPerBlock : Nat := 512
/-- Bd in logical blocks: planes × pages per block × 16 KiB (03 R122) -/
def blockBlocks : Nat := planes * pagesPerBlock * 4

def ratedPeSlc : Nat := 30000

/-- toggle-mode rate ladder, highest first, in units of 10 MT/s (05 R236) -/
def rateLadder : List Nat := [480, 360, 240, 160, 80, 40]

/-- energies in nJ: page sense, unit program, block erase, per KiB moved (02 R103) -/
def eSense : Nat := 2400
def eProgram : Nat := 250000
def eErase : Nat := 800000
def eKiB : Nat := 50

/-- retention points of the reference profile (03 R158): P/E count and hours -/
def retention : List (Nat × Nat) := [(0, 43800), (1500, 8760), (3000, 2190)]

/-! ## Clocks (01 R68): datapath edges of 0.3125 ns -/

def edgesPerUs : Nat := 3200
def edgesPerMs : Nat := 3200000
def edgesPerSec : Nat := 3200000000
/-- datapath edges of one 25 MHz edge -/
def edgesPerAon : Nat := 128

/-- grid time units in one nanosecond: 16 × 10^9 -/
def gridNs : Nat := 16000000000

end Sys2Proof.Config

namespace Sys2Proof

/-! ## Die profiles -/

/-- Times of an operation in a die profile, in half microseconds, and its time-out in microseconds (05 R235, R236). -/
structure Figure where
  min2    : Nat
  typ2    : Nat
  max2    : Nat
  timeout : Nat
deriving DecidableEq, Repr

/-- A die profile of a Gnotas image (05 R235). -/
structure Profile where
  /-- ID bytes and parameter-page fields to match -/
  ident      : List Byte
  /-- geometry: planes, bits per cell in native mode, pages per block and plane, nominal blocks S, minimum good blocks -/
  planes     : Nat
  bits       : Nat
  pages      : Nat
  slots      : Nat
  minGood    : Nat
  /-- rate ladder, highest first: mode code of SWT_CH_STS and rate in units of 10 MT/s -/
  ladder     : List (Nat × Nat)
  /-- times and time-outs: page sense, program and erase in native and pSLC mode; suspend, die reset, Set or Get Features -/
  sense      : Figure
  senseSlc   : Figure
  program    : Figure
  programSlc : Figure
  erase      : Figure
  eraseSlc   : Figure
  suspend    : Figure
  reset      : Figure
  features   : Figure
  /-- energies in nJ: page sense, unit program, block erase, KiB moved on the channel -/
  eSense     : Nat
  eProgram   : Nat
  eErase     : Nat
  eKiB       : Nat
  /-- number of read levels, and the number of its drift table and temperature coefficients in the image -/
  levels     : Nat
  table      : Nat
  /-- rated P/E count in native and pSLC mode; retention points: P/E count and hours (03 R158) -/
  ratedPe    : Nat
  ratedPeSlc : Nat
  retention  : List (Nat × Nat)
  /-- it publishes the Tight bound of 02 R107 -/
  tight      : Bool
deriving DecidableEq, Repr

/-- The reference profile of the manual: the 4 Tib, 4-plane QLC die (05 R236; 02 R103; 03 R158). It is the one that a die matches unless its
identification is given; the spec gives neither its ID bytes nor its number of read levels, which a QLC cell's 16 states make 15 (DESIGN CHOICE:
notes/assumptions/126). -/
def Profile.ref : Profile :=
  { ident := [], planes := Config.planes, bits := Config.bitsPerCell, pages := Config.pagesPerBlock, slots := Config.slotsPerDie,
    minGood := Config.minGoodBlocks, ladder := Config.rateLadder.map fun r => (4, r),
    sense := ⟨80, 120, 180, 400⟩, senseSlc := ⟨30, 50, 80, 200⟩, program := ⟨3000, 4100, 5000, 3000⟩,
    programSlc := ⟨300, 400, 800, 800⟩, erase := ⟨10000, 14000, 24000, 15000⟩, eraseSlc := ⟨4000, 7000, 12000, 8000⟩,
    suspend := ⟨10, 40, 100, 100⟩, reset := ⟨10, 20, 2000, 3000⟩, features := ⟨1, 2, 10, 100⟩,
    eSense := Config.eSense, eProgram := Config.eProgram, eErase := Config.eErase, eKiB := Config.eKiB, levels := 15, table := 0,
    ratedPe := Config.ratedPe, ratedPeSlc := Config.ratedPeSlc, retention := Config.retention, tight := Config.publishesTight }

/-- The logical block with which the data of a forwarded Append are encrypted, by fetch stamp: no frame of 10 R459 names the one that the member assigns. -/
opaque Config.appendLba : Nat → Nat

/-- What a read of a doorbell returns, by plot and offset: vendor specific in NVMe Base, stated nowhere here. -/
opaque Config.doorbellRead : Nat → Nat → BitVec 32

end Sys2Proof
end

