-- ==== Sys2Proof/Syntax.lean ====
section
/-! DEFINITION. The commands of the controller: one constructor of `Instr` per row of spec/opcode_table.json,
with the operands that the row's rules name. Times are datapath edges (00_scope; 01 R68) unless a name says otherwise. -/

namespace Sys2Proof

/-- How the data buffer of a submission entry is described, as the front-end task finds it (04 R211; 09 R431). -/
inductive BufKind where
  | prp             -- a PRP list, well formed
  | sgl             -- an SGL of supported descriptors
  | sglUnsupported  -- an SGL with a Bit Bucket, keyed or other unsupported descriptor
  | malformed       -- malformed in any other way, or faulting on DMA
deriving DecidableEq, Repr

/-- A submission queue entry as the hub reads it from host memory, with what its data pointers describe (04 R171, R211). -/
structure Sqe where
  opc    : BitVec 8
  cid    : BitVec 16
  nsid   : BitVec 32
  cdw10  : Word
  cdw11  : Word
  cdw12  : Word
  cdw13  : Word
  cdw14  : Word
  cdw15  : Word
  /-- bytes of host buffer that the data pointers describe -/
  bufLen : Nat
  buf    : BufKind
  /-- bytes of the host buffer of a command that moves a structure to the controller -/
  data   : List Byte
  /-- host data of a Write or Zone Append, one element per logical block -/
  blocks : List Block
  /-- the ranges of Copy or Dataset Management: starting LBA and number of blocks -/
  ranges : List (Nat × Nat)
  /-- PRP Entry 1 of a command that names no buffer: the base of a queue that it creates -/
  prp1   : Nat
deriving DecidableEq, Repr

/-- A queue entry of zeros: what a position of zeroed host memory reads as. -/
def Sqe.zero : Sqe :=
  { opc := 0, cid := 0, nsid := 0, cdw10 := 0, cdw11 := 0, cdw12 := 0, cdw13 := 0, cdw14 := 0, cdw15 := 0,
    bufLen := 0, buf := .prp, data := [], blocks := [], ranges := [], prp1 := 0 }

/-- A status reply of a die (05 R232 item 1, R245). -/
structure StatusReply where
  reserved : Bool
  ready    : Bool
  busy     : Bool
  /-- a program or erase reports failure -/
  failed   : Bool
deriving DecidableEq, Repr

/-- What the codec reports for one rung of a ladder (06 R287, R302). -/
structure DecodeResult where
  /-- the raw page is erased (06 R292) -/
  erased     : Bool
  /-- bits corrected in each needed grain that the inner code decodes, 0 for a clean grain -/
  corr       : List Nat
  /-- low and high errors among them (05 R274) -/
  low        : Nat
  high       : Nat
  /-- needed grains that fail the inner code, or that a rebuild leaves failed -/
  failed     : Nat
  /-- kinds 1 to 4 of the needed grains whose metadata check fails (06 R306, R332) -/
  metas      : List Nat
  /-- the sheaf hard or soft decode of the rung delivers every grain -/
  sheaf      : Bool
  /-- bits that the sheaf decode corrected -/
  sheafBits  : Nat
  /-- unsatisfied checks left by the sheaf hard decode (06 R304) -/
  unsat      : Nat
  /-- an immediate re-read of the sheaf at the same levels decodes every grain (05 R232 item 3) -/
  rereadOk   : Bool
deriving DecidableEq, Repr

/-- A drill space (08 R394). -/
inductive Space where
  | host | pool | dram | hubSram | reserved
deriving DecidableEq, Repr

/-- An entry of a drill descriptor (08 R392, R393). -/
structure DrillEntry where
  addr   : Nat
  len    : Nat
  dest   : Bool
  port   : Nat
  acre   : Nat
  space  : Space
  pool   : Nat
  /-- the reserved bits of the control dword are zero -/
  resOk  : Bool
deriving DecidableEq, Repr

/-- A drill descriptor as a task places it (08 R391). `crcEntry` is the grain CRC list. -/
structure DrillDesc where
  len       : Nat
  entries   : List DrillEntry
  enc       : Bool
  dec       : Bool
  phaseEnd  : Bool
  grainGen  : Bool
  grainChk  : Bool
  lane0     : Bool
  hostRo    : Bool
  internal  : Bool
  requester : Nat
  tweak     : Nat
  nsid      : Nat
  stamp     : Nat
  crcEntry  : DrillEntry
  /-- no reserved bit or byte of the header is set -/
  resOk     : Bool
deriving DecidableEq, Repr

/-- Service class of a DRAM request, in the order of 07 R343. -/
inductive DramClass where
  | readReturn | metadata | staging | background
deriving DecidableEq, Repr

/-- What a DRAM line is read for (07 R365). -/
inductive LineUse where
  | control | hub | seedRead | seedProgram | parity | codec | headlandMap | merge | drillSeal | salvage | other
deriving DecidableEq, Repr

/-- A Gnotas header as it is staged or lies in a slot (13 R563); `crcOk` and `sigOk` are what its CRC-32C and its signature (R564) show. -/
structure ImageHdr where
  magic      : Nat
  format     : Nat
  family     : Nat
  parts      : Nat
  hdrLen     : Nat
  crcOk      : Bool
  version    : Nat
  epoch      : Nat
  keyIndex   : Nat
  live       : Bool
  bodyLen    : Nat
  digest     : Nat
  stateFmt   : Nat
  oldestFmt  : Nat
  sigOk      : Bool
deriving DecidableEq, Repr

/-- The window that a register access names: BAR2 of plot 0, or BAR0, BAR4 or configuration space of the function of this number on a port (15 R619). -/
inductive BarWindow where
  | device
  | bar0 (port fn : Nat)
  | bar4 (port fn : Nat)
  | config (port fn : Nat)
deriving DecidableEq, Repr

/-- Why a training attempt ended (07 R352, 12 R545, 10 R455). -/
inductive TrainEnd where
  | passed | failed
deriving DecidableEq, Repr

/-- A member's entry in a DISCOVER or ANNOUNCE frame (10 R459). -/
structure MemberEntry where
  identity   : Nat
  version    : Nat
  namespaces : Nat
deriving DecidableEq, Repr

/-- A tally entry (04 R219). -/
structure TallyEntry where
  minute     : Nat
  unlocked   : Bool
  epochBreak : Bool
  frozen     : Bool
  incomplete : Bool
  bytesRead  : Nat
  bytesWritten : Nat
  mediaOps   : Nat
  zoneSeconds : Nat
  energy     : Nat
deriving DecidableEq, Repr

/-- The power declaration block of the board record (11 R493). -/
structure PowerDecl where
  bMax     : Nat
  pDump    : Nat
  eHold    : Nat
  overhead : Nat
  fullScale : List Nat
  ra : Nat
  tauA : Nat
  rb : Nat
  tauB : Nat
  tRef : Nat
deriving DecidableEq, Repr

/-- The straps (12 R538). -/
structure Straps where
  role     : Nat
  portMode : Bool
  bootSrc  : Bool
  svcEn    : Bool
deriving DecidableEq, Repr

/-- What phases 1 to 8 of start-up find outside the controller's logic (12 R540 to R556). -/
structure PhaseInfo where
  /-- self-test: failing tines (01 R45), acres that fail self-test or DRAM population (01 R53, 07 R336) -/
  badTines   : List Nat
  badAcres   : List Nat
  /-- measured rail above 1.5 V, per channel group (05 R227) -/
  vccq18     : List Bool
  /-- dies that do not report ready to their reset (12 R544 step 2) -/
  deadDies   : List Nat
  /-- dies that are not fitted, or have no correct copy of their parameter page (12 R544 step 3) -/
  unmatched  : List Nat
  /-- die profiles of the running image beside the reference profile (05 R235) -/
  profiles   : List Profile
  /-- what identifies a die, for each die that the reference profile does not match: ID bytes and parameter-page fields (05 R236) -/
  idents     : List (Nat × List Byte)
  /-- channels on which a Get Features reply differs from the value just set (05 R232 item 2) -/
  featErrs   : List Nat
  /-- channels that fail safe-rate training or the pattern check (12 R544) -/
  badChans   : List Nat
  /-- DRAM population per acre: width code, density code, ranks, capacity in GiB (07 R334, R337) -/
  dramPop    : List (Nat × Nat × Nat × Nat)
  /-- read modes that the boot flash advertises: 1 for 1S-4S-4S, 2 for 8D-8D-8D (12 R542) -/
  flashModes : List Nat
  /-- the board record as it is read from sector 0 of the boot flash (13 R573) -/
  board      : List Byte
  /-- copies of headland records that read otherwise than they were written: record (kind * 8 + acre, 7 for a hub record), copy,
      and the bytes read (12 R550, R553) -/
  badCopies  : List (Nat × Nat × List Byte)
  /-- units of a dump without valid mark whose check is valid in either copy: NSID, zone, stripe row, column (12 R556) -/
  dumpValid  : List (Nat × Nat × Nat × Nat)
  /-- Yield Book codes whose newest image in the journal fails its CRC-32C in both copies (14 R611) -/
  badImages  : List Nat
deriving DecidableEq, Repr

/-- One constructor per row of spec/opcode_table.json, in the table's order. -/
inductive Instr where
  -- command path: fetch, tasks, tiers (01, 04)
  | ioFetch (entries : List Sqe)
  | adminFetch (entry : Sqe)
  -- `sramUe`: the acre's SRAM shows an uncorrectable error in the deque that is read (01 R53 cause 0x2)
  | takeTask (tine : Nat) (sramUe : Bool) (at_ : Nat)
  | taskEnd (tine : Nat)
  | agePromotion (at_ : Nat)
  | steal (tine at_ : Nat)
  | taskWatchdog (tine at_ : Nat)
  | tineFault (tine : Nat) (code : Nat)
  -- `lost`: die-program units that could not be salvaged: NSID, zone, stripe row, unit of the row
  | salvageDone (acre : Nat) (lost : List (Nat × Nat × Nat × Nat)) (ran : Bool)
  | mcoreWatchdog (core at_ : Nat)
  | lateArrival (latenessNs : Nat)
  | commandFinished (stamp : Nat)
  -- `sramUe`: the hub's SRAM shows an uncorrectable error in the queue or sequencer state that is read (01 R62)
  | completionPost (plot qid : Nat) (sramUe : Bool) (at_ : Nat)
  -- grid and die operations (02, 05, 06)
  -- `sramUe`: acres whose SRAM shows an uncorrectable error in the token table or the to-till list (01 R53 cause 0x2)
  | furrowBoundary (sramUe : List Nat)
  | opIssue (die at_ : Nat)
  | dieStatusPoll (die : Nat) (reply : StatusReply) (at_ : Nat)
  -- `mismatch`: the reply of a Get Features differs from the value just set (05 R232 item 2)
  | dieReady (die : Nat) (failed mismatch : Bool) (at_ : Nat)
  | dieOpTimeout (die at_ : Nat)
  | zoneFinishByController (nsid zone : Nat)
  | channelRetrainDone (ch : Nat) (result : TrainEnd) (us : Nat)
  | patternCheck (ch : Nat) (matched : Bool)
  | decodeDone (ladder : Nat) (result : DecodeResult)
  -- `maxBits`: the largest number of bits that the level reads corrected in one grain (03 R159)
  | levelSweep (die block group : Nat) (bitsAtIdx : List Nat) (maxBits : Nat)
  | gleanerRelocate (nsid : Nat)
  | passBoundary (diodes : List Int)
  | ptmResponse (t1 t2 t3 t4 : Int) (malformed : Bool) (at_ : Nat)
  | ptmTimeout (at_ : Nat)
  | ptmEnableChange (port : Nat) (enable linkUp : Bool)
  | kUpdate
  | tallyMinuteBoundary
  | furCfgWrite (value : Word) (be : BitVec 4)
  | furCtrlWrite (acre bed : Nat) (value : Word) (be : BitVec 4)
  -- register space (15)
  | loRegisterRead (offset : Nat)
  | rcRegisterRead (window : BarWindow) (offset : Nat)
  | registerWrite (window : BarWindow) (offset : Nat) (value : Word) (be : BitVec 4)
  | hubCtrlWrite (value : Word) (be : BitVec 4)
  | hubIntStsClear (value : Word) (be : BitVec 4)
  | hubIntSetWrite (value : Word) (be : BitVec 4)
  | hubLedCtrlWrite (value : Word) (be : BitVec 4)
  | dirtyCfgWrite (value : Word) (be : BitVec 4)
  | mgdNandWpWrite (swath index : Nat) (value : Word) (be : BitVec 4)
  | mgdBootWpWrite (index : Nat) (value : Word) (be : BitVec 4)
  | mgdWindowOpen (sector : Nat) (boot : Bool) (ops : Nat) (at_ : Nat)
  | mgdWindowClose (at_ : Nat)
  -- DRAM ports, buffers, drills (07, 08)
  | dramRateRequest (acre : Nat) (value : Word) (be : BitVec 4)
  | dramTrainingDone (acre : Nat) (readEyes writeEyes readDlys writeDlys : List Nat) (pattern : Bool)
  | dramTrainingTimeout (acre at_ : Nat)
  | dramCommandSlot (acre sub : Nat) (busy : List Nat) (errors : List (Nat × BitVec 16)) (at_ : Nat)
  | requestPromotion (acre at_ : Nat)
  | refreshDue (acre rank at_ : Nat)
  | mr4Poll (acre : Nat) (hot : Bool) (at_ : Nat)
  | dqsTracking (acre : Nat) (targets : List Nat) (at_ : Nat)
  | mergeEntryTimeout (acre at_ : Nat)
  | selfRefreshEntry (acre at_ : Nat)
  | selfRefreshExit (acre at_ : Nat)
  | port0IdleTimeout (at_ : Nat)
  -- `sramUe`: the acre's SRAM shows an uncorrectable error in the pool tables (01 R53 cause 0x2)
  | bufferRequest (acre : Nat) (internal : Bool) (requester size : Nat) (sramUe : Bool) (at_ : Nat)
  | bufferFree (acre pool index : Nat) (internal : Bool) (requester : Nat) (at_ : Nat)
  | stripeRowReservation (stamp at_ : Nat)
  | dirtyCapAdmit (at_ : Nat)
  | rangeLockGrant (at_ : Nat)
  | commitPoint (stamp : Nat)
  -- `desc`: the descriptor as it lies in its buffer (08 R391)
  | descriptorPlace (desc : List Byte) (at_ : Nat)
  -- `keyUe`: the hub key store fails its integrity check as the key is read (01 R62)
  | drillTakeChunk (group engine : Nat) (keyUe : Bool) (at_ : Nat)
  | chunkDone (group engine : Nat) (bytes : List Byte) (list : List Nat)
  | sealReturn (group descId : Nat) (uncorrectable : Option Nat) (hostError : Bool) (at_ : Nat)
  | hostCompletionTimeout (group descId : Nat)
  -- BAR0 (15, 04, 09)
  | sqTailDoorbell (port plot qid value : Nat) (be : BitVec 4)
  | cqHeadDoorbell (port plot qid value : Nat) (be : BitVec 4)
  -- the values of CC, AQA, ASQ and ACQ that the host has written when EN becomes 1
  | controllerEnable (port plot : Nat) (cc aqa : Word) (asq acq : Nat)
  | controllerReset (at_ : Nat)
  | shutdownNormal (port plot at_ : Nat)
  | shutdownAbrupt (port plot at_ : Nat)
  | nvmSubsystemReset (plot : Nat) (value : Word)
  -- admin commands, by the fetch stamp of the command (04)
  | createIoSq (stamp : Nat)
  | createIoCq (stamp : Nat)
  | deleteIoSq (stamp : Nat)
  | deleteIoCq (stamp : Nat)
  | identify (stamp : Nat)
  | getLogPage (stamp : Nat)
  | getLogYieldBook (stamp : Nat)
  | getLogTally (stamp : Nat)
  | getLogGridStats (stamp : Nat)
  | getLogBedHealth (stamp : Nat)
  | getLogHitchStatus (stamp : Nat)
  | getFeatures (stamp : Nat)
  | setFeatures (stamp : Nat)
  | setFeaturesFurrowGrid (stamp : Nat)
  | setFeaturesPlacement (stamp : Nat)
  | setFeaturesPlotQuotas (stamp : Nat)
  | setFeaturesThrottle (stamp : Nat)
  | setFeaturesYbkRate (stamp : Nat)
  | setFeaturesUnwrittenRead (stamp : Nat)
  | setFeaturesPowerMgmt (stamp : Nat)
  | setFeaturesApst (stamp : Nat)
  | setFeaturesVwc (stamp : Nat)
  | asyncEventRequest (stamp : Nat)
  | vendorEventPost
  | abort (stamp at_ : Nat)
  | namespaceCreate (stamp : Nat)
  | namespaceDelete (stamp : Nat)
  | namespaceAttach (stamp : Nat)
  | namespaceDetach (stamp : Nat)
  | formatNvm (stamp : Nat)
  | deviceSelfTest (stamp : Nat)
  -- I/O commands, by the fetch stamp of the command (03, 04)
  | write (stamp at_ : Nat)
  | zoneAppend (stamp at_ : Nat)
  | writeZeroes (stamp at_ : Nat)
  | copy (stamp at_ : Nat)
  | read (stamp at_ : Nat)
  | verify (stamp at_ : Nat)
  | flush (stamp at_ : Nat)
  | flushDone (stamp : Nat)
  | datasetManagement (stamp at_ : Nat)
  | zoneOpen (stamp at_ : Nat)
  | zoneClose (stamp at_ : Nat)
  | zoneFinish (stamp at_ : Nat)
  | zoneReset (stamp at_ : Nat)
  | zoneOffline (stamp at_ : Nat)
  | zoneSetZde (stamp at_ : Nat)
  | reportZones (stamp at_ : Nat)
  | extendedReportZones (stamp at_ : Nat)
  -- images (13)
  -- the piece is the command's data
  | firmwareImageDownload (stamp at_ : Nat)
  | fwCommitReplace (stamp : Nat)
  | fwCommitReplaceUse (stamp : Nat)
  | fwCommitUseSlot (stamp : Nat)
  | fwCommitActivate (stamp : Nat)
  | slotWriteDone (readBackOk : Bool)
  | swathSwitch (selfCheckOk : Bool)
  | coreSwitch
  | stagingIdleTimeout (at_ : Nat)
  -- plots (09)
  | plotFreeze (stamp at_ : Nat)
  | freezeBoundExpiry (plot at_ : Nat)
  | freezeDone (plot at_ : Nat)
  | plotSave (stamp : Nat)
  | plotRestore (stamp : Nat)
  | installMigrationKey (stamp : Nat)
  | plotThaw (stamp : Nat)
  | plotReset (port plot at_ : Nat)
  | flrPlot0 (at_ : Nat)
  | plotResetHostTimeout (plot at_ : Nat)
  | plotResetDone (plot at_ : Nat)
  | vfEnableSet (port numVfs : Nat)
  | vfEnableClear (port numVfs at_ : Nat)
  | pltCfgWrite (plot : Nat) (value : Word) (be : BitVec 4)
  | isoApply (plot : Nat) (value : Word) (be : BitVec 4)
  | isoApplyDone (plot : Nat)
  -- hitch rings (10)
  | hitchRediscover (stamp at_ : Nat)
  | hitchIsolate (stamp at_ : Nat)
  | hitchReadmit (stamp at_ : Nat)
  | hitchPassAlong (stamp : Nat)
  | isolateWaitExpiry (position at_ : Nat)
  | keepaliveSend (port at_ : Nat)
  | keepalive (port at_ : Nat)
  | keepaliveMiss (port at_ : Nat)
  | discover (port : Nat) (manager : Nat) (entries : List MemberEntry)
  | discoverTimeout (at_ : Nat)
  | announce (port : Nat) (position : Nat) (entry : MemberEntry)
  | linkDown (source port sideband : Nat) (at_ : Nat)
  | linkUp (source port : Nat) (at_ : Nat)
  | time (gridNs pass latencyNs : Nat) (managerLocked : Bool) (at_ : Nat)
  | timeLossTimeout (at_ : Nat)
  | resync (tags : List (Nat × Nat))
  | resyncReply (source generation : Nat) (tags : List (Nat × Nat × Nat))
  | orphan (reason : Nat)
  | readmitTimer (position at_ : Nat)
  -- `admin` tells an admin command from an I/O command, which the frame does not say
  | cmd (generation tag plot : Nat) (admin resense : Bool) (entry : Sqe) (at_ : Nat)
  | dataReq (source generation tag offset length : Nat)
  | dataW (generation tag offset : Nat) (blocks : List Block) (crcs : List Word)
  | dataR (source generation tag offset : Nat) (blocks : List Block) (crcs : List Word)
  | cpl (source generation tag : Nat) (dw0 dw1 : Word) (sct sc : Nat) (dnr : Bool)
  | ack (tags : List Nat)
  | cancel (generation tag reason : Nat)
  | cancelReply (source generation tag : Nat) (caught : Bool)
  | imgHdr (port : Nat) (named : Bool) (header : List Byte)
  | imgBlk (port : Nat) (named : Bool) (block : List Byte)
  | imgSts (source result : Nat)
  | imgCommit (action : Nat)
  | regRd (offset : Nat)
  | regWr (offset : Nat) (value : Word)
  | regData (source offset : Nat) (value : Word)
  | tally (source minute : Nat) (entries : List (Nat × TallyEntry))
  | hitchTrainingDone (port width : Nat)
  | hitchTrainingRetry (port at_ : Nat)
  | sidebandChange (port pattern : Nat)
  -- power and heat (11)
  | apstIdleTimeout (at_ : Nat)
  | nonopEntry (at_ : Nat)
  | domainDrainDone (at_ : Nat)
  | drainBoundExpiry (at_ : Nat)
  | nonopExit (at_ : Nat)
  | throttleEval
  | isnsSample (samples : List Nat)
  | diodeSelfCheck (diode : Nat) (mv10 mv100 : Nat) (reading : Int)
  | tripSample (readings : List Int) (at_ : Nat)
  | tripDumpDone (at_ : Nat)
  | tripBackstop (at_ : Nat)
  | tripRestart (at_ : Nat)
  | powerFail (at_ : Nat)
  | dumpDone (at_ : Nat)
  | powerfailDeassert (at_ : Nat)
  | supplyOutOfLimits (us : Nat) (at_ : Nat)
  -- bring-up (12)
  | coldResetRelease (at_ : Nat)
  | warmStart (straps : Straps) (suppliesGood perstHigh : Bool) (at_ : Nat)
  | perstAssert (at_ : Nat)
  | perst1Assert (at_ : Nat)
  | startupPhaseDone (info : PhaseInfo) (at_ : Nat)
  | nandTrainingDone (ch : Nat) (result : TrainEnd)
  | nandTrainingTimeout (ch at_ : Nat)
  | hostLinkTrained (port : Nat)
  | equalizationDone (port : Nat) (requestedGTs : Option Nat)
  -- Yield Book (14)
  | timeBaseWrite (at_ : Nat)
  | occurrenceApply (at_ : Nat)
  | persistIntervalEnd (code at_ : Nat)
  | journalUnitProgram (at_ : Nat)
  -- Polez (13, 14, 09): `payload` is that of the request frame (13 R580)
  | polezIdentify (seqNo : Nat)
  | polezReadSensors (seqNo : Nat)
  | polezReadYieldBook (seqNo : Nat) (payload : List Byte)
  | polezReadTally (seqNo : Nat) (payload : List Byte)
  | polezPlotState (seqNo : Nat) (payload : List Byte)
  | polezImageHeader (seqNo : Nat) (payload : List Byte) (at_ : Nat)
  | polezImageBlock (seqNo : Nat) (payload : List Byte) (at_ : Nat)
  | polezCommitWrite (seqNo : Nat) (payload : List Byte)
  | polezCommitWriteUse (seqNo : Nat) (payload : List Byte)
  | polezCommitUseSlot (seqNo : Nat) (payload : List Byte)
  | polezCommitActivate (seqNo : Nat) (payload : List Byte)
  | polezCommitEmpty (seqNo : Nat) (payload : List Byte)
  | polezFramingError (length : Nat)
  -- faults of the board and the rest of the table
  | lossOfPower
  | acreLinkFailure (acre : Nat) (salvageable : Bool)
  | acreSupplyOrClockFault (acre : Nat)
  | crossbarFailure
  | hostReadErrorCompletion (plot : Nat) (descId : Option (Nat × Nat)) (at_ : Nat)
  | hitchFrameCrcError (port : Nat) (keepAlive : Bool)
  | hitchFrameRelay (port : Nat) (frame : List Byte)
  | unknownFrameType (port type : Nat)
  | polezOpcodeNotSupported (seqNo opcode : Nat)
  | invalidCommandOpcode (stamp : Nat)
  | deviceSelfTestEnd
deriving DecidableEq, Repr

end Sys2Proof
end

