-- ==== Sys2Proof/Machine/State.lean ====
section
/-! DEFINITION. The state of the controller as plain data (INVENTORY.md lists every piece with its rule and reset value).
Sparse families (tines, dies, beds, zones, queues, plots, ...) are tables: strictly rising keys, no entry equal to the
value that an unlisted key has. -/

namespace Sys2Proof.Machine

/-- A sparse family of values indexed by a number; an unlisted index holds the family's default. -/
abbrev Tbl (α : Type) := List (Nat × α)

/-- No rule of the spec stops the controller: every command answers a next state. The type has no constructor,
    so no meaning can raise one (safe: nothing is cut short by it). -/
inductive Fault where
deriving DecidableEq, Repr

/-- Why a command is refused. -/
inductive Refusal where
  /-- raised by an arm of `exec` whose meaning is not written yet; safe: the run stops there -/
  | notModelled (mnemonic : String)
deriving DecidableEq, Repr

/-! ## Software-configured registers -/

/-- The RW registers that software configures (02 R89, R111; 04 R183; 05 R264; 07 R345, R357, R383; 08 R410;
    15 R634, R639, R641, R642). Held apart from the rest: only register writes, feature 0xC0 and resets change them. -/
structure Cfg where
  ptmInt    : Nat          -- FUR_CFG.PTM_INT
  rdRes     : Nat          -- FUR_CFG.RD_RES
  ptmPort   : Bool         -- FUR_CFG.PTM_PORT
  ptmUse    : Bool         -- FUR_CFG.PTM_USE
  bedP      : Tbl Nat      -- FUR_CTRL.P by global bed, default 1
  hubLock   : Bool         -- HUB_CTRL.LOCK
  wrGuard   : Bool         -- HUB_CTRL.WR_GUARD
  admMax    : Nat          -- HUB_FETCH_CFG.ADM_MAX
  burst     : Nat          -- HUB_FETCH_CFG.BURST
  intEn     : Word         -- HUB_INT_EN
  led       : BitVec 2     -- HUB_LED_CTRL.MODE
  scratch   : Tbl Word     -- HUB_SCRATCH0..3 (cold reset domain), default 0
  minSlice  : Tbl Nat      -- SWT_ERS_CFG.MIN_SLICE by global swath, default 0x258
  arpLog2   : Tbl Nat      -- DRM_ARB_CFG.ARP_LOG2 by acre, default 0x0A
  age       : Tbl Nat      -- DRM_ARB_CFG.AGE by acre, default 4
  rateTarget : Tbl Nat     -- DRM_RATE_REQ.TARGET by acre, default 0x370
  intWt     : Tbl Nat      -- DRL_GRP_CFG.INT_WT by group (0..3 acres, 4 hub), default 0x10
  dirtyLock : Bool         -- BPM_DIRTY_CFG.LOCK
  dirtyCap  : Nat          -- BPM_DIRTY_CFG.CAP
deriving DecidableEq, Repr

/-! ## Time, reset and power-up -/

/-- The clocks: `now` counts datapath edges since the model began; the always-on counts of 14 R601. -/
structure Clock where
  now         : Nat
  tineQ       : Nat        -- quarters of tine clock edges since the model began (01 R41, R68)
  powered     : Bool       -- VDD_AON within limits
  coldHeld    : Bool       -- the cold reset is held (12 R533)
  releasedAt  : Nat        -- edge of the release of the cold reset
  basesLoaded : Bool
  secBase     : Nat
  cycBase     : Nat
  entrySec    : Nat        -- newest valid time-base entry in the boot flash: lifetime powered seconds
  entryCyc    : Nat        -- ... and power cycles
  entryValid  : Bool
  lastEntryAt : Nat
deriving DecidableEq, Repr

/-! ## Tasks and tines (01) -/

inductive TaskKind where
  | frontEnd | zone | media | codec
deriving DecidableEq, Repr

/-- A task in a lane or on a tine (01 R15 to R21, R28). `scope` is the acre or swath that its kind names. -/
structure Task where
  kind    : TaskKind
  lane    : Nat           -- lane it sits in
  cls     : Nat           -- lane of its class (01 R20 keeps it)
  scope   : Nat           -- global swath for media, acre otherwise
  since   : Nat           -- edge from which its age in a lane counts
  waited  : Nat           -- age that it has while it is in no lane (01 R20, R28, R44)
  stamp   : Nat           -- fetch stamp of its command; 0 for internal work
  die     : Nat           -- die of a media task
  retried : Option (Nat × Nat) -- it is the retry of a faulted task: tine that faulted and its fault count then (01 R43)
  toHead  : Bool          -- a retry that found every sibling full: it goes to the head of a sibling's lane (01 R42)
  req     : Nat           -- die operation it builds, decode ladder it serves, or block + 1 that a zone task journals erased; 0 none
  unit_   : Option (Nat × Nat × Nat × Nat) -- data unit that a codec task folds into its row's parity: NSID, zone, row, unit (06 R296)
deriving DecidableEq, Repr

structure Tine where
  l0 : List Task
  l1 : List Task
  l2 : List Task
  l3 : List Task
  running  : Option Task
  startAt  : Nat
  startQ   : Nat          -- tine clock count at its start, in quarter edges (01 R41)
  stolenAt : Nat          -- edge after the one on which its tail last served a steal, 0 none (01 R27)
  quar     : Bool          -- SWT_TINE_STS.QUAR, SWT_TINE_FLT.QUAR
  faultsAt : List Nat      -- powered seconds of the latest faults (01 R44)
  fltCount : Nat           -- faults; SWT_TINE_FLT.COUNT is this, saturated
  lastCode : Nat           -- SWT_TINE_FLT.LAST_CODE
  lastKind : Nat           -- SWT_TINE_FLT.LAST_KIND
  retryOk  : Bool          -- SWT_TINE_FLT.LAST_RETRY_OK
deriving DecidableEq, Repr

/-! ## Command path (04) -/

/-- How far a fetched command has come. -/
inductive Stage where
  | fetched      -- its front-end task has not ended
  | locked       -- range-lock entries taken or awaited (04 R189)
  | zoned        -- its zone task is placed (01 R16)
  | rowWait      -- waits for its stripe-row reservation (07 R377)
  | capWait      -- waits for the dirty cap (07 R382)
  | data         -- data phase, until the commit point
  | media        -- waits for die operations, a transfer, a flush, a slot write, a reset or another action
  | held         -- outstanding with no work (Asynchronous Event Request, 04 R172)
  | done         -- last task has handed its result over; waits for COMMAND_FINISHED
  | finished     -- finished (01 R36)
deriving DecidableEq, Repr

/-- A completion status: type, code and Do Not Retry. -/
structure Status where
  sct : Nat
  sc  : Nat
  dnr : Bool
deriving DecidableEq, Repr

/-- A fetched command whose completion is not posted (01 R30 to R36, 04 R182). -/
structure Cmd where
  stamp     : Nat
  plot      : Nat
  sq        : Nat          -- queue identifier, 0 the admin queue
  cq        : Nat
  seq       : Nat
  sqe       : Sqe
  fetchedAt : Nat
  stage     : Stage
  committed : Bool
  lba       : Nat          -- starting LBA, or that assigned to an Append
  nlb       : Nat          -- logical blocks
  zone      : Option Nat   -- zone index of the command's destination
  status    : Status
  dw0       : Word
  dw1       : Word
  outData   : List Byte    -- data returned to the host buffer
  outBlocks : List Block   -- logical blocks moved to host memory
  since     : Nat          -- edge on which its present wait began
  caught    : Bool         -- caught by Abort or squashed
  cover     : List (Nat × Nat) -- units that its Flush covers (04 R197): zone key, row * 32 + column
  resensed  : Bool         -- its read has been run once more after a CRC-32C mismatch (06 R310)
  lostLbas  : List Nat     -- logical blocks that its ladders found uncorrectable (06 R309)
  sealed    : Nat          -- bytes that ended descriptors have moved for it (01 R36)
  phaseDone : Bool         -- a descriptor with PHASE_END has sealed its data phase (01 R36, 08 R404)
  flushKib  : Nat          -- KiB that its Flush covers (04 R225)
  reloads   : Nat          -- map entries that it waits for (07 R365)
  crcs      : List Nat     -- on a worker, the carried grain CRCs of its data, four a block (10 R475)
deriving DecidableEq, Repr

structure Sq where
  base    : Nat
  size    : Nat            -- entries
  head    : Nat
  tail    : Nat
  cq      : Nat
  nextSeq : Nat            -- next sequence number (01 R31)
  posted  : Nat            -- sequence numbers below it have their completion posted
  nextPost : Nat           -- the first edge on which its next completion may be posted (01 R33)
  deleting : Bool          -- Delete I/O Submission Queue in progress (04 R204)
  flushStamp : Nat         -- stamp of an unfinished Flush that holds the queue (04 R198), 0 none
deriving DecidableEq, Repr

structure Cq where
  base  : Nat
  size  : Nat
  head  : Nat
  tail  : Nat
  phase : Bool
  iv    : Nat
  ien   : Bool
  fullAt : Option Nat      -- edge on which it was found full (04 R225, 0x0405)
deriving DecidableEq, Repr

/-- A completion written to host memory, with the data the command moved to the host. -/
structure Cpl where
  stamp  : Nat
  plot   : Nat
  sq     : Nat
  cq     : Nat
  cid    : BitVec 16
  status : Status
  dw0    : Word
  dw1    : Word
  sqhd   : Nat
  phase  : Bool
  data   : List Byte
  blocks : List Block
deriving DecidableEq, Repr

inductive LockMode where
  | shared | append | exclusive
deriving DecidableEq, Repr

/-- A range-lock entry of an acre (04 R187 to R193): blocks `lo` to `hi - 1` of a namespace. -/
structure Lock where
  acre    : Nat
  nsid    : Nat
  lo      : Nat
  hi      : Nat
  mode    : LockMode
  stamp   : Nat
  granted : Bool
  since   : Nat
deriving DecidableEq, Repr

/-- BAR0 of a plot (15 R620, R621). -/
structure Bar0 where
  cc    : Word
  rdy   : Bool
  cfs   : Bool
  shst  : Nat
  nssro : Bool
  aqa   : Word
  asq   : Nat
  acq   : Nat
deriving DecidableEq, Repr

/-- An asynchronous event posted or waiting: type, information, log page. -/
structure Aen where
  plot : Nat
  type : Nat
  info : Nat
  lid  : Nat
deriving DecidableEq, Repr

structure Front where
  inflight  : List Cmd       -- in fetch order
  nextStamp : Nat
  sqs       : Tbl Sq         -- by plot * 1024 + queue identifier
  cqs       : Tbl Cq
  credit    : Tbl Nat        -- by plot (04 R179)
  lastSq    : Tbl Nat        -- by plot: I/O queue last served
  lastIo    : Nat            -- plot last visited by the I/O arbiter
  lastAdm   : Nat            -- plot last visited by the admin arbiter
  out       : List Cpl       -- completions posted, oldest first
  locks     : List Lock
  lockHigh  : Tbl Nat        -- ACR_RLK_STS.HIGH by acre
  bar0      : Tbl Bar0       -- by plot
  events    : List Aen       -- events waiting for an Asynchronous Event Request
  masked    : List (Nat × Nat × Nat) -- event types masked until their log is read: plot, type, log page (15 R640)
  changed   : Tbl (List (Nat × Nat)) -- Changed Zone List by plot: NSID and ZSLBA (03 R134)
  changedOvf : List Nat      -- plots whose list overflowed
  changedNs : Tbl (List Nat) -- Changed Namespace List by plot (03 R129)
  msix      : Tbl Nat        -- BAR4 vectors by plot * 1024 + vector (15 R623)
  pba       : List Nat       -- pending bits of masked vectors, by plot * 1024 + vector (15 R623)
  msgs      : List (Nat × Nat) -- MSI-X messages sent: plot and vector
deriving DecidableEq, Repr

/-! ## Namespaces, zones, beds and dies (03, 05) -/

/-- The host part of a zone descriptor extension, or placement defaults (03 R145, R149). -/
structure Ext where
  version : Nat
  life    : Nat              -- lifetime class 0 to 7
  tight   : Bool
  spread  : Nat              -- 0 pack, 1 spread, 2 first in mask
  mask    : BitVec 128
  tag     : Nat
deriving DecidableEq, Repr

structure Ns where
  exists_  : Bool
  headland : Bool
  width    : Nat
  bedSet   : Nat             -- 0xFFFF shared, otherwise the owning plot
  mask     : BitVec 128      -- all zero selects every bed of the bed set
  prof     : Profile         -- die profile of its beds (03 R122)
  zones    : Nat             -- number of zones, 0 for headland
  zsze     : Nat             -- logical blocks
  nsze     : Nat             -- logical blocks
  attached : List Nat        -- plots, rising
  nguid    : Nat
  dflt     : Ext             -- feature 0xC1
  dfltSaved : Ext
  unwritten : Nat            -- feature 0xC5
  unwrittenSaved : Nat
  safe     : Bool            -- safe state of 12 R554
  slots    : List Nat        -- beds of the slots of a headland namespace
  map      : Tbl Nat         -- headland: position + 1 of a mapped 4 KiB unit (03 R164)
  mapBufs  : List (Nat × Option Nat) -- acre and pool D buffer of each MiB of its map (03 R164; 07 R368)
  deleting : Nat             -- stamp of a Delete or Format in progress, 0 none
deriving DecidableEq, Repr

inductive ZState where
  | empty | implOpen | explOpen | closed | readOnly | full | offline
deriving DecidableEq, Repr

/-- One column of a bound zone. `blocks` are its blocks with the first unit each holds (05 R249), newest first. -/
structure Col where
  ch      : Nat              -- acre-local channel
  blocks  : List (Nat × Nat)
  carried : Bool             -- carried by stripe parity (03 R151)
  erased  : Bool             -- its block has been erased and journalled (05 R257)
  next    : Nat              -- next stripe row whose unit is to be issued on it (05 R239)
deriving DecidableEq, Repr

structure Zone where
  st        : ZState
  wp        : Nat            -- blocks from ZSLBA
  adm       : Nat            -- admitted pointer
  dend      : Nat            -- end of the committed data, which Finish leaves (03 R142)
  zcap      : Nat
  lastZcap  : Nat            -- ZCAP last reported + 1, 0 before any report
  zdev      : Bool
  ext       : Ext
  bound     : Bool
  bed       : Nat
  half      : Nat
  cols      : List Col       -- active columns
  dropped   : Nat
  zfc       : Bool
  actPlot   : Nat            -- plot whose active quota it counts against
  openPlot  : Nat
  lastAdm   : Nat            -- stamp of the last write or Append admitted
  retent    : Nat            -- equivalent retention time, in 1/60 h units of 2^-20
  maxCorr   : Nat            -- byte 34 of the extension
  offTime   : Bool           -- byte 35 bit 0
  offBefore : Bool           -- value of bit 0 before the last replay (03 R157)
  around    : Bool           -- byte 35 bit 1
  carriedF  : Bool           -- byte 35 bit 2
  aging     : Nat
  meanPe    : Nat
  firstAt   : Nat            -- grid time of the first commit (ns)
  resets    : Nat            -- Reset count (06 R284 write generation)
  rows      : Nat            -- stripe rows whose parity unit has been programmed
deriving DecidableEq, Repr

/-- One logical block of user data: staged, on media, or lost. -/
structure Blk where
  data  : Block
  plot  : Nat                -- plot that wrote it (06 R284)
  key   : Nat                -- identity of the key it is encrypted under; 0 none (03 R123, 09 R429)
  lost  : Bool
  crcs  : List Nat           -- on a worker, the grain CRCs that came with its ciphertext (10 R475)
deriving DecidableEq, Repr

/-- A die-program unit of a zone that has committed bytes or is the parity of its row (05 R238 to R242). -/
structure PUnit where
  nsid   : Nat
  zone   : Nat
  row    : Nat
  col    : Nat               -- data column 0 to A-2; A-1 stands for the parity unit
  bytes  : Nat               -- dirty bytes it holds
  full   : Bool              -- complete
  issued : Bool
  done   : Bool              -- programmed, or folded when its column is carried by parity
  folded : Bool              -- in its row's parity accumulator (06 R296)
  lost   : Bool
  plots  : List (Nat × Nat)  -- plot and bytes
deriving DecidableEq, Repr

structure Bed where
  bound0 : Nat               -- half slots bound in half 0 and half 1
  bound1 : Nat
  ret0   : Nat               -- half slots retired
  ret1   : Nat
  hslots : Nat               -- headland-namespace slots
  worn   : Bool
  lowSpare : Bool            -- state Low spare has been recorded
  noted  : Nat               -- state of 03 R169 when it was last looked at
  prof   : Profile           -- die profile of its dies (05 R236)
  owner  : Nat               -- 0 shared, p + 1 for the isolation group of plot p
  pForce : Nat               -- program concurrency in force (01 R40)
  held   : List Nat          -- dies that hold a program token
  lastWon : Nat              -- swath that last won a contested token (01 R39), 8 none
  wd     : BitVec 8          -- FUR_CTRL.WD
  bound  : Bool              -- FUR_CTRL.BOUND
  tightReads : Nat
  tightOver  : Nat
  arounds    : Nat
  programs   : Nat
  slices     : Nat
  longest    : Nat
  withdrawals : Nat
  histo  : List Nat
deriving DecidableEq, Repr

inductive DieState where
  | idle | reading | programming | erasing | suspending | suspended | suspReading | suspProgramming | resetting | failed
deriving DecidableEq, Repr

inductive DieOp where
  | read | levelRead | program | erase | suspend | resume | setFeatures | getFeatures | reset
  | readId | readParam      -- identification, at start-up only (12 R544)
deriving DecidableEq, Repr

/-- Why a die operation runs. -/
inductive Purpose where
  | host (stamp ladder : Nat)
  | rebuild (stamp ladder target : Nat)
  | unit (nsid zone row col : Nat)
  | till (block : Nat)
  | sweep (group after : Nat)     -- drift group; the command whose read triggered it (05 R275)
  | orphan (bytes plot : Nat)     -- a program issued before its zone was unbound: dirty bytes, and the plot its block is handed over for (03 R141)
  | recovery (was : DieOp)
  | headland (sector : Nat) (unit : Bool) -- a program or erase of a headland block; a journal unit of the Yield Book (14 R608)
  | mapReload (stamp lba : Nat)   -- a map entry is read back from the headland journal (07 R365)
  | other
deriving DecidableEq, Repr

/-- A slot request posted to a swath (02 R93 to R96). -/
structure SlotReq where
  id      : Nat
  die     : Nat
  op      : DieOp
  purp    : Purpose
  block   : Nat
  lane    : Nat
  slc     : Bool
  posted  : Nat               -- edge
  furrow  : Nat               -- furrow in which it was posted
  kib     : Nat               -- bytes moved on the channel, in units of 1/1024 KiB
  pair    : Nat               -- senses charged: 1, or the re-read pairs of 06 R303 and R304
  left    : Nat               -- operations of the grant that follow this one on the die (06 R303, R304)
  plots   : List (Nat × Nat)  -- attribution: plot and weight (09 R437); empty for overhead
  stamp   : Nat
  ewait   : Nat               -- boundaries at which it waited for energy
deriving DecidableEq, Repr

structure Die where
  st        : DieState
  op        : Option SlotReq  -- operation granted or running
  queued    : List SlotReq    -- rebuild reads granted behind a read that is running (05 R265)
  granted   : Bool            -- granted at the last boundary and not yet issued
  issuedAt  : Nat
  polledAt  : Option Nat
  slc       : Bool            -- operation in pSLC mode
  susp      : Option SlotReq  -- the erase held suspended, or being suspended
  suspGranted : Bool          -- a suspend granted at the last boundary and not yet issued
  grantF    : Nat             -- boundary of the latest grant, counted as Grid.ticks; 0 none
  issueAt   : Nat             -- issue edge of the operation granted (02 R97)
  resWait   : Nat             -- boundaries at which the resume of its erase has waited for energy (02 R96)
  suspends  : Nat
  ranFor    : Nat             -- running time of the erase before the present slice (edges)
  suspAt    : Nat             -- furrow number since which it is suspended
  timeouts  : Nat             -- consecutive time-outs (05 R248)
  timedOut  : Option SlotReq  -- operation whose time-out its recovery reset follows
  timedAt   : Nat
  failed    : Bool
  populated : Bool
  spares    : Nat
  initSpares : Nat
  used      : List Nat        -- blocks not free: bound, retired or headland
  retired   : Nat
  bad       : List Nat        -- retired blocks
  pe        : Tbl Nat         -- P/E counts of blocks, default 0
  headPe    : Tbl Nat
  sweeps    : Nat             -- SWT_DRIFT.SWEEPS
  holdFor   : Nat             -- ladder for which it is held for its page register (06 R305), 0 none
  good      : Nat             -- good blocks at first start-up (03 R121)
  lvl2      : Nat             -- twice the drift index that its last read used (05 R273; 06 R304 reads midway between two)
  levels    : List Int        -- read-level shifts that its last read used (05 R273)
deriving DecidableEq, Repr

/-- An entry of an acre's to-till list (05 R254). -/
structure Till where
  die        : Nat
  block      : Nat
  inProgress : Bool
  plot       : Nat            -- plot the erase is attributed to; 1024 overhead (09 R437)
  lane       : Nat            -- 3, or 2 once binding has taken the block (05 R257)
  slc        : Bool           -- its block holds pSLC data: the erase is made in pSLC mode
deriving DecidableEq, Repr

/-- A decode ladder (06 R302 to R307). -/
structure Ladder where
  id     : Nat
  stamp  : Nat
  nsid   : Nat
  lbas   : List Nat           -- the logical blocks of one sheaf that its command needs (06 R302)
  die    : Nat
  block  : Nat
  group  : Nat
  lane   : Nat
  rung   : Nat
  tried  : List Nat           -- indices tried at rung 3
  best   : Nat                -- index of the best re-read
  bestUnsat : Nat
  around : Bool               -- read-around of a busy die (05 R268)
  turned : Bool               -- a read-around of it has been abandoned: its read waits for its own die (05 R270)
  waiting : Nat               -- input reads outstanding
  input  : Option Nat         -- ladder it is a rebuild input of
  sweep  : Bool
  res    : Option DecodeResult -- decode result that its codec task hands over at its end (01 R15)
deriving DecidableEq, Repr

structure Chan where
  mode     : Nat
  vccq12   : Bool             -- SWT_CH_STS.VCCQ: measured 1.2 V
  failed   : Bool
  retrains : Nat
  errPasses : List Nat        -- passes of the interface errors since the last retrain, counted as Grid.passes (05 R233)
  ladder   : List (Nat × Nat) -- rungs that the profiles of all its dies share, highest first: mode and rate (05 R228)
  attempt  : Option (Nat × Nat) -- mode and rate of the training attempt of phase 6 (12 R545)
  rate     : Nat              -- units of 10 MT/s, 0 before training
  ce       : Nat              -- chip enable and LUN of the last operation issued on it (05 R229)
  lun      : Nat
  training : Bool             -- being retrained or trained
  heldRate : Option (Nat × Nat) -- rate change held during training: mode and rate (12 R546)
  trainAt  : Nat              -- edge on which the training attempt in progress began (12 R545)
  inService : Bool            -- NFcc_WP_N driven high (05 R231)
  checkAt  : Nat              -- pass of the last pattern check, counted as Grid.passes (05 R232 item 4)
  unchecked : Bool            -- left PS4 and not checked yet (11 R503)
  eccSheaf : Nat
  eccRebuild : Nat
  eccMax   : Nat
  eccUnc   : Nat
  eccBits  : Nat
deriving DecidableEq, Repr

/-- A Media Guard window (05 R279). -/
structure Window where
  boot   : Bool
  sector : Nat                -- boot sector, or die * 8 + headland block
  ops    : Nat
  closes : Nat
deriving DecidableEq, Repr

structure Media where
  ns      : Tbl Ns            -- by NSID
  zones   : Tbl Zone          -- by NSID * 2^20 + zone index
  store   : Tbl Blk           -- by NSID * 2^44 + LBA
  staged  : List (Nat × Nat)  -- admitted and not yet committed: stamp and bytes
  units   : List PUnit
  beds    : Tbl Bed
  dies    : Tbl Die
  chans   : Tbl Chan
  till    : List Till
  reqs    : List SlotReq      -- oldest first
  wants   : List SlotReq      -- operations whose media task has not posted its request yet
  ladders : List Ladder
  sweepDue : List Nat         -- groups whose level sweep has been triggered (05 R275), as drift keys
  sweepRead : List Nat        -- groups among them whose level reads have ended
  drift   : Tbl Nat           -- drift index by (die * 8192 + block) * 8 + group, default 8
  driftUnsaved : List Nat     -- blocks whose indices changed since they were saved, as die * 8192 + block (05 R276)
  lastSweep : Tbl Nat         -- powered second of a group's last sweep + 1, default 0
  fGroups : List Nat          -- endurance groups with critical-warning bit 3 set
  errLog  : List (Nat × Nat)  -- Error Information entries: NSID, lowest uncorrectable LBA (06 R309)
  mediaErrs : Nat             -- Media and Data Integrity Errors
  wp      : Tbl (BitVec 8)    -- MGD_NAND_WP fields by die, default 0xFF
  bootWp  : Tbl Word          -- MGD_BOOT_WP by register, default all ones
  windows : List Window
  refused : Nat               -- MGD_STS
  refBoot : Bool
  refLast : Nat
  nextId  : Nat               -- identifiers of requests, ladders and descriptors
  glean   : List (Nat × Nat × Nat) -- blocks that host reads found weak (03 R165): NSID, slot, data column
  copies  : List (Nat × Nat × Nat × Nat) -- the gleaner's copies not yet programmed: NSID, LBA, old and new position
deriving DecidableEq, Repr

/-! ## Grid (02) -/

inductive GridState where
  | free | adopt | slew | locked
deriving DecidableEq, Repr

structure Grid where
  st        : GridState
  time      : Nat             -- grid time in units of 10^-9/16 ns
  furrow    : Nat             -- furrow number
  ticks  : Nat               -- furrow boundaries acted on
  boundaryAt : Nat            -- hub edge of the latest furrow boundary
  actionAt  : Nat             -- edge on which the swaths acted on it (02 R75)
  pass      : Nat             -- FUR_PASS
  minute    : Nat
  trim      : Int             -- trim in force (ppb)
  nextTrim  : Int             -- trim of the latest measurement, in force from the next pass (02 R83)
  slew      : Int             -- slew of the pass (ns)
  offset    : Int             -- e of the latest successful dialogue (ns)
  lastE     : Option (Int × Int) -- e and host time of the previous successful dialogue
  slewSince : Int             -- slew applied since it and before this pass, less what this pass had applied when it was made (ns)
  freshSlew : Bool            -- next measurement replaces the trim whole
  epoch     : Bool
  losses    : Nat
  miss      : Nat
  inRow     : Nat             -- successful dialogues in a row with |e| at most 200 ns
  bigRow    : Nat             -- successful dialogues in a row with |e| above 2 us
  awaiting  : Option Nat      -- edge on which the dialogue in progress was sent
  sinceDlg  : Nat             -- passes since the last dialogue
  adoptReady : Bool           -- a dialogue made on the port in use since the grid entered ADOPT
  adoptBreak : Bool           -- entry to ADOPT ends a valid epoch
  breakFlag : Bool            -- first minute of a new epoch
  breaks    : Nat
  okDlg     : Nat
  badDlg    : Nat
  notLocked : Nat             -- passes not in LOCKED
  unlockedMin : Nat           -- minutes flagged unlocked
  leftLocked : Bool           -- grid left LOCKED during the minute
  passes    : Nat             -- pass boundaries passed
  firstDlgPass : Nat          -- ... at the first successful dialogue
  slewPasses : Nat
  ptmEn     : Tbl Bool        -- PTM Enable by port
  linkUp    : Tbl Bool        -- host link by port
  budget    : Nat             -- FUR_BUDGET (uJ)
  passLen   : Nat             -- length of the pass in host time (ns)
  reserve   : Nat             -- read reserve left (nJ)
  base      : Tbl Nat         -- base share left by swath (nJ)
  pool      : Nat             -- hub pool left (nJ)
  firstServed : Nat           -- swath the hub served first at the previous boundary
  k         : Nat             -- correction factor in 1/4096
  charges   : Nat             -- charges of the 1,000 passes in progress (nJ) (02 R103)
  measured  : Nat             -- measured energy of them (nJ)
  kPasses   : Nat             -- passes of them that are complete
  kDue      : Option (Nat × Nat) -- charges and measured energy of 1,000 passes that K has not been compared with
  passCharge : Nat
  lastCharge : Nat            -- charges of the last complete pass (nJ)
  lastMeasured : Nat
  grpCharge : Tbl Nat         -- charges granted by channel group in the pass (nJ)
  allow     : Tbl Nat         -- use of capped plots in the pass (nJ) (09 R422)
  allowHit  : List Nat        -- plots whose allowance has held an operation in the pass (09 R451, 0x0906)
  waitEnergy : Nat
  waitStarts : Nat
  waitTokens : Nat
  fromReserve : Nat
  started   : Bool            -- start-up complete: WD changes are recorded (02 R110)
deriving DecidableEq, Repr

/-! ## DRAM ports, pools, seed bins, drills (07, 08) -/

structure DramReq where
  id    : Nat
  line  : Nat                 -- port address / 64 of the next line; its bit 0 is the subchannel
  count : Nat                 -- lines left of this subchannel, every second line from `line` on
  cls   : DramClass
  write : Bool
  known : Bool                -- a write carries `data`; false for bytes that the model does not follow
  data  : BitVec 512
  more  : List (BitVec 512)   -- the bytes of the lines after the next one; where it is empty they are those of `data`
  use   : LineUse
  stamp : Nat
  since : Nat
  promoted : Bool
deriving DecidableEq, Repr

structure MergeEntry where
  line  : Nat
  data  : BitVec 512
  mask  : BitVec 64
  cls   : DramClass
  since : Nat
deriving DecidableEq, Repr

structure Port where
  st       : Nat              -- DRM_PORT_STS.STATE
  hot      : Bool
  coolRuns : Nat              -- consecutive MR4 reads at the 1x rate or lower
  width    : Nat
  ranks2   : Bool
  dens     : Bool
  cap      : Nat
  rate     : Nat              -- units of 10 MT/s
  attempt  : Nat              -- rate of the training attempt in progress
  attemptAt : Nat
  held     : Option Nat       -- rate request held (07 R356)
  changing : Bool             -- rate change being carried out
  startup  : Bool             -- training of start-up
  lanes    : Tbl Word         -- DRM_TRN_LANE, default 0
  reqs     : List DramReq
  lines    : Tbl (BitVec 640) -- lines as stored: 80 bytes; default the zero codeword (07 R359)
  merge    : List MergeEntry
  rmw      : Nat              -- DRM_MRG_STS.RMW
  ce       : Nat
  ue       : Nat
  lastGrp  : Nat
  lastSub  : Nat
  poison   : Bool
  lcLine   : Nat
  ueWindow : List Nat         -- passes of uncorrectable lines that count (07 R366)
  owed     : Tbl Nat          -- refreshes owed by rank
  lfsr     : Nat              -- draws made
  nref     : List (Nat × Nat × Nat) -- neighbour refreshes queued: subchannel, bank, row
  srWanted : Bool             -- self-refresh entry requested
  srForRate : Bool            -- ... as part of a rate change
  srReq    : Nat              -- edge on which the entry was requested
  srAt     : Nat              -- edge of the entry or exit command
  srExit   : Bool             -- exit command issued
  srWaitAt : Option Nat       -- first request that waits for the exit
  lastUse  : Nat
  refDue   : Tbl Nat          -- edge of the next refresh by rank (07 R346)
  mr4At    : Nat              -- edge of the last MR4 read (07 R347)
  dqsAt    : Nat              -- edge of the last tracking (07 R354)
  recentre : Bool             -- its devices left the self-refresh of PS4 and the lanes are not centred again yet (11 R503)
deriving DecidableEq, Repr

/-- A buffer that is held, or the record of a free one (07 R371, R372). `owner`: plot, or 2048 + internal class. -/
structure Buf where
  held   : Bool
  owner  : Nat
  record : Nat                -- plot whose data it last held, 4096 for the controller
  freedAt : Nat               -- order in which it was freed
deriving DecidableEq, Repr

structure BufWait where
  id     : Nat
  acre   : Nat
  pool   : Nat                -- pool it waits on
  first  : Nat                -- first choice
  owner  : Nat
  quota  : Bool               -- waits at its quota
  since  : Nat
deriving DecidableEq, Repr

structure Pool where
  bufs  : Tbl Buf             -- by index
  count : Nat                 -- buffers set up
  low   : Nat
deriving DecidableEq, Repr

/-- A seed-bin segment (07 R376). -/
structure Seg where
  acre  : Nat
  buf   : Nat
  plot  : Nat
  usize : Nat
  taken : List Nat            -- unit slots reserved
deriving DecidableEq, Repr

/-- A stripe-row reservation (07 R377): the segments its unit slots lie in. -/
structure RowRes where
  nsid  : Nat
  zone  : Nat
  row   : Nat
  plot  : Nat
  slots : List (Nat × Nat)    -- by data column: buffer index of the segment and unit slot in it
  acre  : Nat
  acc    : Option Nat          -- pool D buffer of its parity accumulator (06 R296)
deriving DecidableEq, Repr

structure Staging where
  pools  : Tbl Pool           -- by acre * 8 + pool
  waits  : List BufWait
  segs   : List Seg
  rows   : List RowRes
  dirty  : Nat                -- bytes
  high   : Nat                -- bytes
  dfCount : Tbl Nat           -- BPM_DF_STS by acre
  dfPool  : Tbl Nat
  dfReq   : Tbl Nat           -- owner code of the last refused free
  frees  : Nat
deriving DecidableEq, Repr

structure Desc where
  id      : Nat
  d       : DrillDesc
  moved   : Nat               -- bytes done by whole chunks
  started : Bool
  engine  : Option Nat        -- drill running a chunk of it
  last    : Option Nat        -- drill that ran its last chunk, or made its checks
  ended   : Option Nat        -- code to end with once its seals return or its transfers drain
  seals   : Nat               -- seals outstanding
  sealAt  : Nat
  stream  : List Byte         -- bytes moved so far in stream order, plaintext where the drill encrypts or decrypts (08 R401)
  placedAt : Nat
  squash  : Bool
deriving DecidableEq, Repr

structure Engine where
  st     : Nat                -- DRL_ENG_STS.STATE
  lastSt : Nat
  req    : Nat
  int    : Bool
  keyOf  : Option Nat         -- plot whose key is loaded (08 R403)
deriving DecidableEq, Repr

structure Group where
  queue   : List Desc
  engines : Tbl Engine
  credit  : Tbl Nat           -- deficit round robin, by requester code (plot, or 2048 internal), bytes
  lastReq : Nat
  errCount : Nat
  errSt   : Nat
  errReq  : Nat
  errInt  : Bool
  status  : List Byte         -- bytes 48 to 63 of the header of the last descriptor that ended (08 R391)
  list    : List Nat          -- values written to its grain CRC list (08 R402)
deriving DecidableEq, Repr

/-! ## Plots (09) -/

inductive PlotState where
  | absent | ready | error | resetting | freezing | frozen
deriving DecidableEq, Repr

structure Quota where
  qpairs  : Nat
  active  : Nat
  open_   : Nat
  fetchW  : Nat
  drillW  : Nat
  energy  : Nat
  fallback : Bool
  pools   : List Nat          -- A to E, 0xFFFFFFFF no quota
deriving DecidableEq, Repr

/-- Counts of a tally minute in progress (09 R438). -/
structure Acc where
  rd : Nat
  wr : Nat
  ops : Nat
  zonePasses : Nat            -- passes times zones, with the carried remainder
  charge : Nat                -- nJ
  frozen : Bool
deriving DecidableEq, Repr

structure Plot where
  st     : PlotState
  after  : PlotState          -- state after a reset
  cause  : Nat
  key    : Nat                -- identity of its key, 0 none
  port   : Bool               -- PLT_CFG.PORT
  quota  : Quota
  isoMask : BitVec 128        -- PLT_ISO_MASK
  isoBusy : Bool
  isoResult : Nat
  isoBed : Nat
  feats  : Tbl Nat            -- current values of features the plot has set
  saved  : Tbl Nat            -- saved values
  acc    : Acc
  ring   : List TallyEntry    -- at most 1,440, oldest first
  resetAt : Nat
  resetCmds : List Nat        -- Plot Reset commands waiting for the end of the reset
  freezeCmd : Nat             -- stamp of the Plot Freeze, 0 none
  freezeAt : Nat
  frzDone : Nat               -- commands finished during the freeze
  frzSquash : Nat
  saveSeq : Nat
  quotaSaved : Quota          -- quotas of the plot table record (12 R551)
  portSaved : Bool            -- PORT as the headland holds it (09 R420)
deriving DecidableEq, Repr

structure Plots where
  tbl     : Tbl Plot
  migKeys : Tbl Nat           -- migration key slots: 256-bit keys, 0 empty
  keyVals : List (Nat × List Byte) -- keys that records of other controllers have brought, by number: 64 bytes (09 R448)
  vfEn    : Tbl Nat           -- NumVFs while VF Enable is set, by port; 0 clear
  bmeOff  : List Nat          -- plots whose Bus Master Enable is clear
  mseOff  : List Nat          -- plots whose Memory Space Enable is clear (15 R619)
  totals  : List TallyEntry
  minuteE : Nat               -- measured media energy of the minute (nJ)
  overhead : Nat
  minuteOps : Nat             -- die operations granted in the minute
  missing : List (Nat × Nat)  -- members whose tally of a closed minute has not arrived: position and minute (10 R472)
  keyCount : Nat              -- keys generated
deriving DecidableEq, Repr

/-! ## Hitch (10) -/

structure HPort where
  st      : Nat
  width   : Nat
  miss    : Nat
  sb      : Nat
  losses  : Nat
  lastKa  : Nat               -- edge of the last KEEPALIVE, or of the last miss
  upSince : Option Nat        -- edge since which KEEPALIVE arrives again without a miss
  sentAt  : Nat
  retryAt : Nat
  replays : Nat
deriving DecidableEq, Repr

structure Member where
  st      : Nat               -- 0 absent, 1 up, 2 lost, 3 held in reset, 4 isolated
  path    : Bool              -- counter-clockwise
  entry   : MemberEntry
  gen     : Nat
  lostAt  : Nat
  fwd     : Nat               -- commands outstanding at it
  total   : Nat               -- commands forwarded to it (04 R221)
  errs    : Nat
  hold    : Bool              -- resync in progress: no new CMD or DATA_W
  isoCmd  : Nat               -- Hitch Control that isolates it, 0 none
  isoAt   : Nat
  running : Nat               -- version last reported running
  staged  : Option Nat        -- version staged by pass-along
deriving DecidableEq, Repr

/-- Manager side of a forwarded command. -/
structure Fwd where
  stamp  : Nat
  pos    : Nat
  rdBytes : Nat
deriving DecidableEq, Repr

/-- Worker side of a forwarded command. -/
structure Recv where
  tag    : Nat
  st     : Nat                -- 1 running, 2 finished with CPL kept, 3 caught or squashed
  gen    : Nat
  plot   : Nat
  wrBytes : Nat               -- write bytes received
  rdFrom : Nat                -- read data are sent from this offset on
  status : Status
  dw0    : Word
  dw1    : Word
  out    : List Block         -- read data of a finished command, kept with its CPL
  crcs   : List Nat           -- the stored grain CRCs of those data, four a block (10 R475)
deriving DecidableEq, Repr

/-- A frame as it is sent (10 R458): the hitch port, and the header, the payload and their CRC-32C. -/
structure Frame where
  port  : Nat
  bytes : List Byte
deriving DecidableEq, Repr

structure Hitch where
  role    : Nat
  pos     : Nat
  ports   : Tbl HPort
  ring    : Nat
  breaks  : Nat
  members : Tbl Member        -- by position 1 to 7
  segDown : List Nat          -- segments down: segment n lies between positions n and n + 1
  fwd     : List Fwd
  recv    : List Recv
  sent    : List Frame        -- frames sent, oldest first
  forwarded : Nat
  pathErrs : Nat
  unknown : Nat
  admitted : Bool             -- worker admitted by a manager
  manager : Nat               -- identity of the manager that admitted it
  orphaned : Bool
  lastTime : Nat
  mgrLocked : Bool
  discAt  : Option Nat        -- edge on which DISCOVER was sent out of port 0
  discCmd : Nat
  passCmd : Nat               -- Hitch Control that passes an image along, 0 none
  passWait : List Nat
  passBad : Bool
  regPend : List Nat          -- member-window reads outstanding, by BAR2 offset
  pending : List Nat          -- members whose activation waits its turn
  memberNs : List (Nat × Nat) -- namespaces of members that are attached: NSID as the manager presents it, and plot
deriving DecidableEq, Repr

/-! ## Power and heat (11) -/

structure Sense where
  failed : Bool
  sat    : Nat                -- consecutive samples of 4,095
  zero   : Nat                -- consecutive samples of 0 while operations are granted
  goodRun : Nat
  sum    : Nat                -- sum of samples of the pass
  a      : Int                -- thermal model terms in 2^-32 degrees
  b      : Int
  pwr    : Nat                -- group power of the last pass (10 mW)
  temp   : Int                -- model temperature, 1/16 degrees
  maxTemp : Int               -- highest of the tally minute
deriving DecidableEq, Repr

structure Diode where
  temp   : Int                -- reading in use, 1/16 degrees
  fail   : Nat
  est    : Bool
  good   : Nat                -- passing self-checks in a row while failed
  hot    : Nat                -- consecutive trip samples at or above the limit
  estAt  : Nat                -- edge on which the estimate was last written
deriving DecidableEq, Repr

structure Heat where
  sense   : Tbl Sense
  diodes  : Tbl Diode
  step    : Nat
  held    : Bool
  src     : Nat
  lastFall : Nat              -- pass of the last fall
  evalAt  : Nat
  budgetW : Nat               -- feature 0xC3
  onset   : Nat
  width   : Nat
  modelOnset : Nat
  hyst    : Nat
  savedC3 : List Nat          -- saved feature 0xC3, empty when none
  trips   : Nat               -- THM_TRIP_STS (cold reset domain)
  active  : Bool
  backstop : Bool
  tripEst : Bool             -- a trip is armed on an estimate
  lastEst : Bool             -- the last trip came from an estimate (THM_TRIP_STS, cold reset domain)
  tripDie : Nat
  tripAt  : Nat
  coolAt  : Option Nat        -- edge since which every diode has been below 100 degrees
  gated   : Bool
  thermtrip : Bool            -- THERMTRIP_N asserted
deriving DecidableEq, Repr

structure Power where
  decl     : PowerDecl
  ps       : Nat
  want     : Option Nat       -- operational state requested, in force from the next pass
  lastOp   : Nat
  entering : Option Nat       -- non-operational state being entered
  closing  : Bool             -- acres closing
  closeAt  : Option Nat       -- edge on which the closing of the acres began, once no die carries out an operation (11 R499)
  entryCmd : Nat
  refused  : Nat
  lastRef  : Nat
  apst     : Bool
  apstIdle : List (Nat × Nat) -- target state and idle time (ms)
  idleAt   : Nat
  pfail    : Bool             -- PWRFAIL_N counts as asserted
  pfailOffAt : Option Nat     -- edge since which it is deasserted
  dumping  : Bool
  dumpCause : Nat             -- 1 power failure, 2 trip, 3 pre-reset
  dumpAt   : Nat
  dumpDoneF : Bool            -- dump with valid mark of this service
  vwc      : Bool             -- VWC bit 0
deriving DecidableEq, Repr

/-! ## Bring-up (12) -/

/-- What the headland holds for the next replay (12 R551 to R556). -/
structure Boot where
  phase    : Nat              -- HUB_BOOT_STS.PHASE
  slot     : Nat
  warmAt   : Nat
  elapsed  : Nat
  straps   : Straps
  link     : Tbl Bool         -- port at Data Link Active
  eq       : Tbl Bool         -- port in Recovery.Equalization
  heldSpeed : Tbl Nat         -- speed change held, by port
  repaired : Nat
  unresolved : Nat
  lostRec  : Bool
  safe     : Bool
  unclean  : Bool
  dumps    : Nat              -- HUB_PF_STS, loaded at the end of replay
  dumpMs   : Nat
  dumpRes  : Nat
  dumpsMade : Nat             -- dumps recorded in the headland
  lastDumpMs : Nat            -- duration of the last of them
  fencedLast : List Nat       -- acres that were fenced in the service that ended (01 R58)
  tallyShort : List Nat       -- plots whose minute was closed incomplete at the restart (09 R440)
  lastEnd  : Nat              -- newest mark: 0 never served, 1 clean shutdown, 2 dump with valid mark, 3 dump started, 4 service started
  dumpUnits : List PUnit      -- dirty units the dump holds
  hostTime : Option Nat       -- saved host time of the previous service (03 R157), ns
  hostNew  : Option Nat       -- the newest host time that this service has saved
  replayed : Bool             -- headland replay has ended since the warm start
  spiReset : Nat              -- edge up to which SPI_RESET_N is asserted (16 R661)
  recovery : Bool
  restart  : Bool             -- this start follows a trip or a power failure
  isoOwner : Tbl Nat          -- saved isolation assignment by bed
  savedC0  : Option (List Nat)
  records  : Tbl (List (List Byte)) -- copies of a headland record by kind * 8 + acre (12 R550)
  flashMode : Nat             -- mode in which the boot flash is read: 0 1S-1S-1S, 1 1S-4S-4S, 2 8D-8D-8D (12 R542)
  session  : Nat              -- lifetime warm starts
deriving DecidableEq, Repr

/-! ## Images and Polez (13) -/

structure Slot where
  hdr    : Option ImageHdr
  bodyOk : Bool
deriving DecidableEq, Repr

/-- An activation in progress (13 R587). -/
structure Activ where
  slot    : Nat
  cmd     : Nat               -- stamp, 0 for a Polez or hitch route
  swaths  : List Nat          -- swaths still to switch
  done    : List Nat
  back    : Option (List Nat) -- swaths still to switch back, once the activation reverses (13 R589)
  cores   : Nat
  waiting : Bool              -- step 1
  at_     : Nat
  from_   : Nat               -- the first fetch stamp that comes after its start
deriving DecidableEq, Repr

structure Img where
  stage   : Nat
  route   : Nat
  hdr     : Option ImageHdr
  hdrBytes : Nat              -- header bytes staged
  body    : Nat               -- body bytes staged
  staged  : List Byte         -- header and body staged (13 R574)
  lastAt  : Nat
  slots   : Tbl Slot          -- slots 0 and 1
  running : Nat               -- running slot
  runHdr  : Option ImageHdr
  version : Nat               -- HUB_IMG_VER
  nextSlot : Option Nat
  writing : Option (Nat × Nat × Nat) -- slot, command stamp, use after
  act     : Option Activ
  lastRef : Nat
  lastRes : Nat
  floor   : Nat
  mirror  : Nat
  mirrorSec : Nat             -- boot-flash sector of the newest mirror copy, 1 or 2
  valid   : List Nat          -- HUB_IMG_STS.VALID: slots found passing checks 1 to 8
  epochFuse : Nat
  revoked : List Nat
  hold    : List Task
deriving DecidableEq, Repr

structure Polez where
  last    : Option Nat        -- sequence number of the last request answered
  resp    : List Byte         -- last response payload
  respSt  : Nat
  respOp  : Nat
  frame   : List Byte         -- last response frame, with header and CRC-32C (13 R580)
  framing : Nat
  alert2  : Bool
  alert3  : Bool
  answered : Nat
deriving DecidableEq, Repr

/-! ## Yield Book (14) -/

/-- A time stamp: lifetime powered seconds and power cycles (14 R600). -/
structure Stamp where
  sec : Nat
  cyc : Nat
deriving DecidableEq, Repr

structure Rec where
  valid   : Bool
  total   : Nat
  bins    : List Nat
  first   : Stamp
  latest  : Stamp
  min     : Nat
  minAt   : Stamp
  max     : Nat
  maxAt   : Stamp
  lastMag : Nat
  lastGrid : Nat
  suppressed : Nat
  persists : Nat
  pending : Bool
  lastPersist : Option Nat    -- persist clock, ms
  interval : Nat              -- in force, s
  nextInterval : Nat
  gen     : Nat
  incomplete : Bool
  session : Nat
deriving DecidableEq, Repr

structure Occ where
  code : Nat
  mag  : Nat
  src  : Nat                  -- 0 the hub, a + 1 for acre a
  edge : Nat                  -- edge on which it was posted
deriving DecidableEq, Repr

/-- An image in the boot-flash Yield Book area (14 R609). -/
structure BootImage where
  sec     : Nat               -- lifetime powered seconds and power-cycle count at the write
  cyc     : Nat
  seq     : Nat
  code    : Nat
  image   : Rec
  session : Nat
  startup : Bool              -- flag bit 1
  merged  : Bool
deriving DecidableEq, Repr

structure Ybk where
  mode    : Nat               -- 0 service, 1 start-up, 2 self-test, 3 recovery
  recs    : Tbl Rec           -- counting records by code
  start   : Tbl Rec           -- start-up book
  slots   : List Nat          -- codes with a slot, in slot order
  queue   : List Occ          -- occurrences posted and not applied
  images  : List (Nat × Rec)  -- images gathered for the next journal unit
  imagesAt : Nat              -- persist clock at the first of them
  unit     : List (Nat × Rec) -- images of the journal unit that is being programmed
  copies   : List Nat         -- dies that are still to program it
  unitSafe : Bool             -- one copy of it is programmed
  appliedAt : Nat             -- edge on which the hub applied its last occurrence (14 R604)
  journal : Tbl Rec           -- newest image of each code in the journal
  journalOld : Tbl Rec        -- the image before it
  unitsDone : Nat             -- journal units programmed to a copy
  journalFree : Nat           -- free journal blocks of a copy
  bootEntries : Nat           -- entry sequence number of the boot-flash area
  bootImages : List BootImage
  deflt   : Nat               -- default persist interval (s)
  ivals   : Tbl Nat           -- intervals set by feature 0xC4
  savedDeflt : Nat            -- saved default of feature 0xC4, 0 none
  savedIvals : Tbl Nat        -- saved intervals of feature 0xC4
  dropped : Nat
  dropAcre : Nat
  dropOwed : Tbl Nat          -- drops of each acre to record under 0x0E01
deriving DecidableEq, Repr

/-! ## Hub -/

structure Hub where
  part     : Bool             -- fuses: true JH-3210
  stepping : Nat
  serial   : Nat
  intSts   : Word
  drops    : Nat              -- HUB_WR_DROP.COUNT
  dropCause : Nat
  dropAddr : Nat
  readData : Word             -- data of the last BAR2 read completion
  latchPass : Option Word
  latchVer : Option Word
  latchLife : Option Word
  cause    : Tbl Nat          -- HUB_FENCE_STS by acre
  salv     : Tbl Nat
  fenced   : Tbl Bool
  fencing  : Tbl Bool         -- steps 1 to 3 of 01 R54 run
  lostAfter : List (Nat × Nat) -- (NSID, zone) that lost committed data in a salvage or a dump (01 R59)
  xbar    : List (Nat × DramReq) -- requests of the hub for a DRAM port that wait at the crossbar, in order of arrival (01 R37)
  salvLost : List (Nat × Nat × Nat × Nat) -- units in whose lines a salvage found uncorrectable errors (01 R56): NSID, zone, row, unit
  fatal    : Bool
  fatalBits : BitVec 6
  fatalCount : Nat
  mcoreAt  : List Nat         -- edges of watchdog expiries
  restarts : Nat
  selfTest : Nat              -- stamp of the Device Self-test, 0 none
  freeCtr  : Nat              -- model's own counter: index of the next free value
deriving DecidableEq, Repr

/-- Everything but the software configuration and the queue of commands. -/
structure Mach where
  clk   : Clock
  hub   : Hub
  tines : Tbl Tine
  disp  : List Task           -- hub dispatcher (01 R22)
  retry : List Task           -- tasks to be offered again (01 R21)
  front : Front
  med   : Media
  grid  : Grid
  ports : Tbl Port
  stg   : Staging
  drill : Tbl Group
  plots : Plots
  hitch : Hitch
  power : Power
  heat  : Heat
  boot  : Boot
  img   : Img
  polez : Polez
  ybk   : Ybk
deriving DecidableEq, Repr

/-- The state of the block. -/
structure State where
  cfg     : Cfg
  m       : Mach
  /-- commands that are waiting, first in, first out -/
  pending : List Instr
deriving DecidableEq, Repr

end Sys2Proof.Machine

namespace Sys2Proof.Machine

/-! ## Defaults of the tables and the state after reset -/

def Tine.init : Tine :=
  { l0 := [], l1 := [], l2 := [], l3 := [], running := none, startAt := 0, quar := false, faultsAt := [],
    fltCount := 0, lastCode := 0, lastKind := 0, retryOk := false, startQ := 0, stolenAt := 0 }

def Status.ok : Status := { sct := 0, sc := 0, dnr := false }

def Sq.init : Sq :=
  { base := 0, size := 0, head := 0, tail := 0, cq := 0, nextSeq := 0, posted := 0, nextPost := 0, deleting := false, flushStamp := 0 }

def Cq.init : Cq :=
  { base := 0, size := 0, head := 0, tail := 0, phase := true, iv := 0, ien := false, fullAt := none }

def Bar0.init : Bar0 :=
  { cc := 0, rdy := false, cfs := false, shst := 0, nssro := false, aqa := 0, asq := 0, acq := 0 }

/-- Placement defaults: class 0, Broad, spread, no mask (03 R149). -/
def Ext.init : Ext := { version := 1, life := 0, tight := false, spread := 1, mask := 0, tag := 0 }

def Ns.init : Ns :=
  { exists_ := false, headland := false, width := 0, bedSet := 0xFFFF, mask := 0, prof := Profile.ref, zones := 0, zsze := 0, nsze := 0,
    attached := [], nguid := 0, dflt := Ext.init, dfltSaved := Ext.init, unwritten := 0, unwrittenSaved := 0,
    safe := false, slots := [], map := [], mapBufs := [], deleting := 0 }

def Zone.init : Zone :=
  { st := .empty, wp := 0, adm := 0, dend := 0, zcap := 0, lastZcap := 0, zdev := false, ext := Ext.init, bound := false, bed := 0,
    half := 0, cols := [], dropped := 0, zfc := false, actPlot := 0, openPlot := 0, lastAdm := 0, retent := 0,
    maxCorr := 0, offTime := false, offBefore := false, around := false, carriedF := false, aging := 0, meanPe := 0,
    firstAt := 0, resets := 0, rows := 0 }

def Blk.init : Blk := { data := 0, plot := 0, key := 0, lost := false, crcs := [] }

def Bed.init : Bed :=
  { prof := Profile.ref, bound0 := 0, bound1 := 0, ret0 := 0, ret1 := 0, hslots := 0, worn := false, lowSpare := false, noted := 0, owner := 0,
    pForce := 1, held := [], lastWon := 8, wd := 0, bound := false, tightReads := 0, tightOver := 0, arounds := 0,
    programs := 0, slices := 0, longest := 0, withdrawals := 0, histo := [] }

/-- A die of the reference profile with the spares of the example of 03 R123. -/
def Die.init : Die :=
  { st := .idle, op := none, queued := [], granted := false, issuedAt := 0, polledAt := none, slc := false, susp := none, suspGranted := false, grantF := 0, issueAt := 0, resWait := 0,
    suspends := 0, ranFor := 0, suspAt := 0, timeouts := 0, timedOut := none, timedAt := 0,
    failed := false, populated := true,
    spares := Config.minGoodBlocks - Config.slotsPerDie - Config.headlandBlocks,
    initSpares := Config.minGoodBlocks - Config.slotsPerDie - Config.headlandBlocks,
    used := [], retired := 0, bad := [], pe := [], headPe := [], sweeps := 0, holdFor := 0, good := Config.minGoodBlocks, lvl2 := 0,
    levels := [] }

def Chan.init : Chan :=
  { mode := 0, vccq12 := false, failed := false, retrains := 0, errPasses := [], ladder := Profile.ref.ladder, attempt := none, rate := 0,
    ce := 0, lun := 0, training := false,
    heldRate := none, trainAt := 0, inService := false, checkAt := 0, unchecked := false, eccSheaf := 0, eccRebuild := 0, eccMax := 0, eccUnc := 0, eccBits := 0 }

def Port.init : Port :=
  { st := 0, hot := false, coolRuns := 0, width := 0, ranks2 := false, dens := false, cap := 0, rate := 0, attempt := 0,
    attemptAt := 0, held := none, changing := false, startup := false, lanes := [], reqs := [], lines := [], merge := [],
    rmw := 0, ce := 0, ue := 0, lastGrp := 0, lastSub := 0, poison := false, lcLine := 0, ueWindow := [], owed := [],
    lfsr := 0, nref := [], srWanted := false, srForRate := false, srReq := 0, srAt := 0, srExit := false, srWaitAt := none,
    lastUse := 0, refDue := [], mr4At := 0, dqsAt := 0, recentre := false }

def Buf.init : Buf := { held := false, owner := 0, record := 4096, freedAt := 0 }

def Pool.init : Pool := { bufs := [], count := 0, low := 0 }

def Engine.init : Engine := { st := 0, lastSt := 0, req := 0, int := false, keyOf := none }

def Group.init : Group :=
  { queue := [], engines := [], credit := [], lastReq := 0, errCount := 0, errSt := 0, errReq := 0, errInt := false,
    status := List.replicate 16 0, list := [] }

/-- Defaults of feature 0xC2 for plots 1 to 1,023 (04 R222). -/
def Quota.init : Quota :=
  { qpairs := 0, active := 0, open_ := 0, fetchW := 1, drillW := 1, energy := 0, fallback := false,
    pools := List.replicate 5 0xFFFFFFFF }

/-- Defaults of feature 0xC2 for plot 0 (04 R222). -/
def Quota.init0 : Quota := { Quota.init with qpairs := 512, active := 1024, open_ := 1024, fetchW := 16 }

def Acc.init : Acc := { rd := 0, wr := 0, ops := 0, zonePasses := 0, charge := 0, frozen := false }

def Plot.init : Plot :=
  { st := .absent, after := .absent, cause := 0, key := 0, port := false, quota := Quota.init, isoMask := 0,
    isoBusy := false, isoResult := 0, isoBed := 0, feats := [], saved := [], acc := Acc.init, ring := [], resetAt := 0,
    resetCmds := [], freezeCmd := 0, freezeAt := 0, frzDone := 0, frzSquash := 0, saveSeq := 0,
    quotaSaved := Quota.init, portSaved := false }

/-- Plot 0 is never Absent (09 R417). -/
def Plot.init0 : Plot := { Plot.init with st := .ready, after := .ready, quota := Quota.init0, quotaSaved := Quota.init0 }

def HPort.init : HPort :=
  { st := 0, width := 0, miss := 0, sb := 0, losses := 0, lastKa := 0, upSince := none, sentAt := 0, retryAt := 0,
    replays := 0 }

def Member.init : Member :=
  { st := 0, path := false, entry := { identity := 0, version := 0, namespaces := 0 }, gen := 0, lostAt := 0, fwd := 0, total := 0,
    errs := 0, hold := false, isoCmd := 0, isoAt := 0, running := 0, staged := none }

def Sense.init : Sense :=
  { failed := false, sat := 0, zero := 0, goodRun := 0, sum := 0, a := 0, b := 0, pwr := 0, temp := 0, maxTemp := 0 }

def Diode.init : Diode := { temp := 0, fail := 0, est := false, good := 0, hot := 0, estAt := 0 }

/-- Defaults of the power declaration (11 R494); resistances in 0.01 °C/W, times as in R493. -/
def PowerDecl.dflt : PowerDecl :=
  { bMax := 25, pDump := 100, eHold := 0, overhead := 0, fullScale := List.replicate 16 20000, ra := 150, tauA := 200,
    rb := 400, tauB := 600, tRef := 45 }

def Slot.init : Slot := { hdr := none, bodyOk := false }

def Stamp.zero : Stamp := { sec := 0, cyc := 0 }

def Rec.init : Rec :=
  { valid := false, total := 0, bins := List.replicate 16 0, first := Stamp.zero, latest := Stamp.zero, min := 0,
    minAt := Stamp.zero, max := 0, maxAt := Stamp.zero, lastMag := 0, lastGrid := 0, suppressed := 0, persists := 0,
    pending := false, lastPersist := none, interval := 10, nextInterval := 10, gen := 0, incomplete := false,
    session := 0 }

/-- Reset values of the configured registers (02 R89, R111; 04 R183; 05 R264; 07 R345, R357, R383; 08 R410; 15 R634 to
R642). HUB_SCRATCH keeps the values given (cold reset domain). -/
def Cfg.reset (scratch : Tbl Word) : Cfg :=
  { ptmInt := 8, rdRes := 10, ptmPort := false, ptmUse := true, bedP := [], hubLock := false, wrGuard := false,
    admMax := 0x40, burst := 4, intEn := 0, led := 0, scratch := scratch, minSlice := [], arpLog2 := [], age := [],
    rateTarget := [], intWt := [], dirtyLock := false, dirtyCap := 0x10 }

def Clock.reset : Clock :=
  { now := 0, tineQ := 0, powered := true, coldHeld := true, releasedAt := 0, basesLoaded := false, secBase := 0, cycBase := 0,
    entrySec := 0, entryCyc := 0, entryValid := false, lastEntryAt := 0 }

def Hub.reset : Hub :=
  { part := false, stepping := 0x10, serial := 1, intSts := 0, drops := 0, dropCause := 0, dropAddr := 0, readData := 0,
    latchPass := none, latchVer := none, latchLife := none, cause := [], salv := [], fenced := [], fencing := [],
    lostAfter := [], xbar := [], salvLost := [], fatal := false, fatalBits := 0, fatalCount := 0, mcoreAt := [], restarts := 0, selfTest := 0,
    freeCtr := 0 }

def Front.reset : Front :=
  { inflight := [], nextStamp := 1, sqs := [], cqs := [], credit := [], lastSq := [], lastIo := 1023, lastAdm := 1023,
    out := [], locks := [], lockHigh := [], bar0 := [], events := [], masked := [], changed := [],
    changedOvf := [], changedNs := [], msix := [], pba := [], msgs := [] }

def Media.reset : Media :=
  { ns := [], zones := [], store := [], staged := [], units := [], beds := [], dies := [], chans := [], till := [],
    reqs := [], wants := [], ladders := [], sweepDue := [], sweepRead := [], drift := [], driftUnsaved := [], lastSweep := [], fGroups := [], errLog := [], mediaErrs := 0, wp := [],
    bootWp := [], windows := [], refused := 0, refBoot := false, refLast := 0, nextId := 1,
    glean := [], copies := [] }

def Grid.reset : Grid :=
  { st := .free, time := 0, furrow := 0, ticks := 0, boundaryAt := 0, actionAt := 0, pass := 0, minute := 0, trim := 0, nextTrim := 0, slew := 0, offset := 0,
    lastE := none, slewSince := 0, freshSlew := true, epoch := false, losses := 0, miss := 0, inRow := 0, bigRow := 0,
    awaiting := none, sinceDlg := 0, adoptReady := false, adoptBreak := false, breakFlag := false, breaks := 0,
    okDlg := 0, badDlg := 0, notLocked := 0, unlockedMin := 0, leftLocked := true, passes := 0, firstDlgPass := 0, slewPasses := 0,
    ptmEn := [], linkUp := [], budget := 0, passLen := 1000000, reserve := 0, base := [], pool := 0, firstServed := 0,
    k := 4096, charges := 0, measured := 0, kPasses := 0, kDue := none, passCharge := 0, lastCharge := 0, lastMeasured := 0, grpCharge := [],
    allow := [], allowHit := [], waitEnergy := 0, waitStarts := 0, waitTokens := 0, fromReserve := 0, started := false }

def Staging.reset : Staging :=
  { pools := [], waits := [], segs := [], rows := [], dirty := 0, high := 0, dfCount := [], dfPool := [], dfReq := [],
    frees := 0 }

def Plots.reset : Plots :=
  { tbl := [(0, Plot.init0)], migKeys := [], keyVals := [], vfEn := [], bmeOff := [], mseOff := [], totals := [], minuteE := 0, overhead := 0, minuteOps := 0,
    missing := [], keyCount := 0 }

def Hitch.reset : Hitch :=
  { role := 0, pos := 0, ports := [], ring := 0, breaks := 0, members := [], segDown := [], fwd := [], recv := [],
    sent := [], forwarded := 0, pathErrs := 0, unknown := 0, admitted := false, manager := 0, orphaned := false,
    lastTime := 0, mgrLocked := false, discAt := none, discCmd := 0, passCmd := 0, passWait := [], passBad := false,
    regPend := [], pending := [], memberNs := [] }

def Heat.reset : Heat :=
  { sense := [], diodes := [], step := 0, held := false, src := 0xFF, lastFall := 0, evalAt := 0, budgetW := 25,
    onset := 105, width := 2, modelOnset := 70, hyst := 3, savedC3 := [], trips := 0, active := false,
    backstop := false, tripEst := false, lastEst := false, tripDie := 0, tripAt := 0, coolAt := none, gated := false, thermtrip := false }

def Power.reset : Power :=
  { decl := PowerDecl.dflt, ps := 0, want := none, lastOp := 0, entering := none, closing := false, closeAt := none,
    entryCmd := 0, refused := 0, lastRef := 0, apst := false, apstIdle := [], idleAt := 0,
    pfail := false, pfailOffAt := none, dumping := false, dumpCause := 0, dumpAt := 0, dumpDoneF := false, vwc := true }

def Straps.reset : Straps := { role := 0, portMode := false, bootSrc := false, svcEn := false }

def Boot.reset : Boot :=
  { phase := 0, slot := 0, warmAt := 0, elapsed := 0, straps := Straps.reset, link := [], eq := [], heldSpeed := [],
    repaired := 0, unresolved := 0, lostRec := false, safe := false, unclean := false, dumps := 0, dumpMs := 0,
    dumpRes := 0, dumpsMade := 0, lastDumpMs := 0, fencedLast := [], tallyShort := [], lastEnd := 0, dumpUnits := [], hostTime := none, hostNew := none,
    replayed := false, spiReset := 0, recovery := false, restart := false, isoOwner := [],
    savedC0 := none, records := [], flashMode := 0, session := 0 }

def Img.reset : Img :=
  { stage := 0, route := 0, hdr := none, hdrBytes := 0, body := 0, staged := [], lastAt := 0, slots := [], running := 0,
    runHdr := none, version := 0, nextSlot := none, writing := none, act := none, lastRef := 0, lastRes := 0,
    floor := 0, mirror := 0, mirrorSec := 1, valid := [], epochFuse := 0, revoked := [], hold := [] }

def Polez.reset : Polez :=
  { last := none, resp := [], frame := [], respSt := 0, respOp := 0, framing := 0, alert2 := false, alert3 := false, answered := 0 }

def Ybk.reset : Ybk :=
  { mode := 1, recs := [], start := [], slots := [], queue := [], images := [], imagesAt := 0, journal := [], journalOld := [], unitsDone := 0,
    journalFree := 4, bootEntries := 0, bootImages := [], deflt := 10, ivals := [], savedDeflt := 0, savedIvals := [], dropped := 0, dropAcre := 0, dropOwed := [], unit := [], copies := [], unitSafe := false, appliedAt := 0 }

def Mach.reset : Mach :=
  { clk := Clock.reset, hub := Hub.reset, tines := [], disp := [], retry := [], front := Front.reset, med := Media.reset,
    grid := Grid.reset, ports := [], stg := Staging.reset, drill := [], plots := Plots.reset, hitch := Hitch.reset,
    power := Power.reset, heat := Heat.reset, boot := Boot.reset, img := Img.reset, polez := Polez.reset,
    ybk := Ybk.reset }

/-- The machine right after reset: VDD_AON has risen and the always-on domain holds the cold reset (12 R533). Every
register has the reset value of its table; what no rule gives is named in notes/assumptions/1. -/
def State.reset : State := { cfg := Cfg.reset [], m := Mach.reset, pending := [] }

end Sys2Proof.Machine
end

