-- ==== Sys2Proof/Machine/Operands.lean ====
section
/-! DEFINITION. Operand forms: the numbering of dies, beds, swaths and tines (15 R630), fields of a submission entry, the
little-endian layouts (00_scope R7), and the timing figures of die operations (05 R236). -/

namespace Sys2Proof.Machine

/-! ## Tables -/

/-- What a table holds at index `k`; `d` is the family's default. -/
def Tbl.get {α : Type} (d : α) (k : Nat) : Tbl α → α
  | [] => d
  | (k', v) :: t => if k = k' then v else if k < k' then d else Tbl.get d k t

/-- The table with `v` at index `k`, in canonical form: rising indices, no entry equal to the default. -/
def Tbl.put {α : Type} [DecidableEq α] (d : α) (k : Nat) (v : α) : Tbl α → Tbl α
  | [] => if v = d then [] else [(k, v)]
  | (k', w) :: t =>
    if k < k' then (if v = d then (k', w) :: t else (k, v) :: (k', w) :: t)
    else if k = k' then (if v = d then t else (k, v) :: t)
    else (k', w) :: Tbl.put d k v t

/-- Indices strictly rising from `lo`, and no entry equal to the default. -/
def Tbl.wfFrom {α : Type} [DecidableEq α] (d : α) : Nat → Tbl α → Bool
  | _, [] => true
  | lo, (k, v) :: t => decide (lo ≤ k) && decide (v ≠ d) && Tbl.wfFrom d (k + 1) t

/-- The canonical form of a table. -/
def Tbl.wf {α : Type} [DecidableEq α] (d : α) (t : Tbl α) : Bool := Tbl.wfFrom d 0 t

/-- Apply `f` to the value at index `k`. -/
def Tbl.upd {α : Type} [DecidableEq α] (d : α) (k : Nat) (f : α → α) (t : Tbl α) : Tbl α :=
  Tbl.put d k (f (Tbl.get d k t)) t

/-- Sum of `f` over a list. -/
def sumBy {α : Type} (f : α → Nat) (l : List α) : Nat := l.foldl (fun n x => n + f x) 0

/-- Saturate a count of `w` bits (the registers' saturating counts). -/
def sat (w n : Nat) : Nat := if n < 2 ^ w then n else 2 ^ w - 1

/-- Ceiling division. -/
def ceilDiv (a b : Nat) : Nat := (a + b - 1) / b

/-! ## Parts and numbering (00_scope R2, R3; 15 R630; 03 R118) -/

/-- Enabled acres. -/
def Mach.nAcres (m : Mach) : Nat := if m.hub.part then 2 else 4
def Mach.nSwaths (m : Mach) : Nat := 8 * m.nAcres
def Mach.nTines (m : Mach) : Nat := 128 * m.nAcres
def Mach.nChans (m : Mach) : Nat := 16 * m.nAcres
def Mach.nDies (m : Mach) : Nat := 512 * m.nAcres
def Mach.nBeds (m : Mach) : Nat := 32 * m.nAcres

def tineSwath (t : Nat) : Nat := t / 16
def tineAcre (t : Nat) : Nat := t / 128
def swathAcre (s : Nat) : Nat := s / 8
/-- A die is numbered 32 × global channel + die position. -/
def dieChan (d : Nat) : Nat := d / 32
def diePos (d : Nat) : Nat := d % 32
def dieAcre (d : Nat) : Nat := d / 512
def dieSwath (d : Nat) : Nat := d / 64
def dieBed (d : Nat) : Nat := 32 * (d / 512) + d % 32
def chanAcre (c : Nat) : Nat := c / 16
def chanGroup (c : Nat) : Nat := c / 4
def bedAcre (b : Nat) : Nat := b / 32
/-- The die of bed `b` on acre-local channel `c`. -/
def bedDie (b c : Nat) : Nat := 32 * (16 * (b / 32) + c) + b % 32
/-- The dies of a bed, by local channel. -/
def bedDies (b : Nat) : List Nat := (List.range 16).map (bedDie b)
/-- The half of its bed that a die lies in (03 R118). -/
def dieHalf (d : Nat) : Nat := (dieChan d % 16) / 8
/-- Beds named by a mask. -/
def maskBeds (w : BitVec 128) : List Nat := (List.range 128).filter (fun i => w.getLsbD i)

/-- Key of a zone in the zone table. -/
def zkey (nsid z : Nat) : Nat := nsid * 2 ^ 20 + z
/-- Key of a logical block in the store. -/
def bkey (nsid lba : Nat) : Nat := nsid * 2 ^ 44 + lba
/-- Key of a queue. -/
def qkey (plot qid : Nat) : Nat := plot * 1024 + qid

/-! ## Fields of a submission entry (NVMe layouts, 00_scope R11; vendor dwords 04 R215) -/

def Word.bits (w : Word) (hi lo : Nat) : Nat := (w.toNat >>> lo) % 2 ^ (hi + 1 - lo)
/-- A dword after a write of the bytes that are enabled. -/
def Word.mix (old new : Word) (be : BitVec 4) : Word :=
  let lane := fun (i : Nat) => if be.getLsbD i then (255#32 <<< (8 * i)) else 0
  let mask := lane 0 ||| lane 1 ||| lane 2 ||| lane 3
  (old &&& ~~~mask) ||| (new &&& mask)

end Sys2Proof.Machine

namespace Sys2Proof
open Sys2Proof.Machine

def Sqe.slba (e : Sqe) : Nat := e.cdw10.toNat + 2 ^ 32 * e.cdw11.toNat
def Sqe.nlb (e : Sqe) : Nat := Word.bits e.cdw12 15 0 + 1
def Sqe.fid (e : Sqe) : Nat := Word.bits e.cdw10 7 0
def Sqe.save (e : Sqe) : Bool := e.cdw10.getLsbD 31
def Sqe.sel (e : Sqe) : Nat := Word.bits e.cdw10 10 8
def Sqe.lid (e : Sqe) : Nat := Word.bits e.cdw10 7 0
def Sqe.rae (e : Sqe) : Bool := e.cdw10.getLsbD 15
def Sqe.lsi (e : Sqe) : Nat := Word.bits e.cdw11 31 16
/-- bytes asked of a log page: NUMD is 0's based dwords -/
def Sqe.logLen (e : Sqe) : Nat := 4 * (Word.bits e.cdw10 31 16 + 2 ^ 16 * Word.bits e.cdw11 15 0 + 1)
def Sqe.logOff (e : Sqe) : Nat := e.cdw12.toNat + 2 ^ 32 * e.cdw13.toNat
def Sqe.zsa (e : Sqe) : Nat := Word.bits e.cdw13 7 0
def Sqe.selectAll (e : Sqe) : Bool := e.cdw13.getLsbD 8
def Sqe.partialRep (e : Sqe) : Bool := e.cdw13.getLsbD 16
def Sqe.qid (e : Sqe) : Nat := Word.bits e.cdw10 15 0
def Sqe.qsize (e : Sqe) : Nat := Word.bits e.cdw10 31 16 + 1
/-- target plot of a vendor command (04 R215) -/
def Sqe.target (e : Sqe) : Nat := Word.bits e.cdw10 15 0

end Sys2Proof

namespace Sys2Proof.Machine

/-! ## Bytes and layouts -/

/-- `n` bytes of `v`, little-endian (00_scope R7). -/
def le : Nat → Nat → List Byte
  | 0, _ => []
  | n + 1, v => BitVec.ofNat 8 v :: le n (v / 256)

/-- Reserved bytes (00_scope R8). -/
def zeros (n : Nat) : List Byte := List.replicate n 0

/-- A little-endian value read from a byte list; missing bytes read zero. -/
def leAt (bs : List Byte) (off n : Nat) : Nat :=
  (List.range n).foldr (fun i acc => (bs.getD (off + i) 0).toNat + 256 * acc) 0

/-- `len` bytes from `off`; beyond the end zeros (04 R211). -/
def window (bs : List Byte) (off len : Nat) : List Byte :=
  let w := (bs.drop off).take len
  w ++ zeros (len - w.length)

/-- One bit step of the reflected Castagnoli polynomial. -/
def crcBit (c : Nat) : Nat := if c % 2 = 1 then (c / 2) ^^^ 0x82F63B78 else c / 2
/-- Eight bit steps on a byte. -/
def crcByte (c : Nat) (b : Byte) : Nat := (List.range 8).foldl (fun c _ => crcBit c) (c ^^^ b.toNat)
/-- CRC-32C of a byte list: initial value all ones, final inversion. -/
def crc32c (bs : List Byte) : Nat := (bs.foldl crcByte 0xFFFFFFFF) ^^^ 0xFFFFFFFF

/-- Two's complement of a signed value in `w` bits. -/
def toTwos (w : Nat) (i : Int) : Nat := (BitVec.ofInt w i).toNat

/-- Saturate a signed value to 32 bits (02 R91). -/
def sat32 (i : Int) : Int := if i > 2147483647 then 2147483647 else if i < -2147483648 then -2147483648 else i

def Status.mk2 (sct sc : Nat) : Status := { sct := sct, sc := sc, dnr := false }

/-! ## Statuses named by the spec -/
namespace St
def invalidOpcode : Status := Status.mk2 0 0x01
def invalidField : Status := Status.mk2 0 0x02
def idConflict : Status := Status.mk2 0 0x03
def dataTransfer : Status := Status.mk2 0 0x04
def internal : Status := Status.mk2 0 0x06
def abortRequested : Status := Status.mk2 0 0x07
def sqDeletion : Status := Status.mk2 0 0x08
def invalidNs : Status := Status.mk2 0 0x0B
def badSglSegment : Status := Status.mk2 0 0x0D
def sglLength : Status := Status.mk2 0 0x0F
def prpOffset : Status := Status.mk2 0 0x13
def interrupted : Status := Status.mk2 0 0x21
def lbaRange : Status := Status.mk2 0 0x80
def capExceeded : Status := Status.mk2 0 0x81
def nsNotReady : Status := Status.mk2 0 0x82
def cqInvalid : Status := Status.mk2 1 0x00
def invalidQid : Status := Status.mk2 1 0x01
def invalidQsize : Status := Status.mk2 1 0x02
def abortLimit : Status := Status.mk2 1 0x03
def invalidFwSlot : Status := Status.mk2 1 0x06
def invalidImage : Status := Status.mk2 1 0x07
def invalidVector : Status := Status.mk2 1 0x08
def invalidLog : Status := Status.mk2 1 0x09
def invalidQueueDel : Status := Status.mk2 1 0x0C
def fwNeedsReset : Status := Status.mk2 1 0x10
def fwProhibited : Status := Status.mk2 1 0x13
def nsCapacity : Status := Status.mk2 1 0x15
def ctrlListInvalid : Status := Status.mk2 1 0x1C
def attachLimit : Status := Status.mk2 1 0x27
def copySize : Status := Status.mk2 1 0x83
def zoneBoundary : Status := Status.mk2 1 0xB8
def zoneFull : Status := Status.mk2 1 0xB9
def zoneReadOnly : Status := Status.mk2 1 0xBA
def zoneOffline : Status := Status.mk2 1 0xBB
def zoneInvalidWrite : Status := Status.mk2 1 0xBC
def tooManyActive : Status := Status.mk2 1 0xBD
def tooManyOpen : Status := Status.mk2 1 0xBE
def invalidTransition : Status := Status.mk2 1 0xBF
def plotConflict : Status := Status.mk2 1 0xC0
def recordInvalid : Status := Status.mk2 1 0xC1
def keyAbsent : Status := Status.mk2 1 0xC2
def plotResources : Status := Status.mk2 1 0xC3
def hitchRole : Status := Status.mk2 1 0xC4
def hitchAbsent : Status := Status.mk2 1 0xC5
def writeFault : Status := Status.mk2 2 0x80
def unrecovered : Status := Status.mk2 2 0x81
def unwrittenBlock : Status := Status.mk2 2 0x87
def pathError : Status := Status.mk2 3 0x00
def anaInaccessible : Status := Status.mk2 3 0x02
end St

/-! ## Layouts of what other agents write: drill descriptors (08 R391 to R394) -/

end Sys2Proof.Machine

namespace Sys2Proof
open Sys2Proof.Machine

/-- The space of a code (08 R394). -/
def Space.ofCode : Nat → Space
  | 0 => .host | 1 => .pool | 2 => .dram | 3 => .hubSram | _ => .reserved
def Space.code : Space → Nat
  | .host => 0 | .pool => 1 | .dram => 2 | .hubSram => 3 | .reserved => 4

/-- The entry at an offset of a descriptor (08 R392, R393). -/
def DrillEntry.ofBytes (bs : List Byte) (off : Nat) : DrillEntry :=
  let w : Word := BitVec.ofNat 32 (leAt bs (off + 12) 4)
  { addr := leAt bs off 8, len := leAt bs (off + 8) 4, dest := w.getLsbD 31, port := Word.bits w 30 30, acre := Word.bits w 29 28,
    space := Space.ofCode (Word.bits w 27 24), pool := Word.bits w 23 21, resOk := Word.bits w 20 0 == 0 }

/-- The bytes of an entry. -/
def DrillEntry.bytes (e : DrillEntry) : List Byte :=
  le 8 e.addr ++ le 4 e.len ++
    le 4 ((if e.dest then 2 ^ 31 else 0) + 2 ^ 30 * e.port + 2 ^ 28 * e.acre + 2 ^ 24 * e.space.code + 2 ^ 21 * e.pool + (if e.resOk then 0 else 1))

/-- A descriptor as it lies in its buffer (08 R391). -/
def DrillDesc.ofBytes (bs : List Byte) : DrillDesc :=
  let f := leAt bs 5 1
  let r := leAt bs 6 2
  { len := leAt bs 0 4, entries := (List.range (leAt bs 4 1)).map fun i => DrillEntry.ofBytes bs (64 + 16 * i), enc := f.testBit 0, dec := f.testBit 1,
    phaseEnd := f.testBit 2, grainGen := f.testBit 3, grainChk := f.testBit 4, lane0 := f.testBit 5, hostRo := f.testBit 6,
    internal := r.testBit 15, requester := r % 1024, tweak := leAt bs 8 8, nsid := leAt bs 16 4, stamp := leAt bs 24 8,
    crcEntry := DrillEntry.ofBytes bs 32,
    resOk := !f.testBit 7 && r / 1024 % 32 == 0 && leAt bs 20 4 == 0 && leAt bs 53 1 == 0 && leAt bs 60 4 == 0 }

/-- The status bytes of a header, offsets 48 to 63: CRC-32C, code, index of the failing entry or grain, bytes written (08 R391, R401, R406). -/
def drillStatus (crc code index written : Nat) : List Byte := le 4 crc ++ le 1 code ++ zeros 1 ++ le 2 index ++ le 4 written ++ zeros 4

/-- Entries of a descriptor, the grain CRC list after them where it is used, as the destination or the source that it then is (08 R396). -/
def DrillDesc.all (d : DrillDesc) : List DrillEntry :=
  d.entries ++ (if d.grainGen || d.grainChk then [{ d.crcEntry with dest := d.grainGen }] else [])

/-- The bytes of a descriptor, its status bytes zero. -/
def DrillDesc.bytes (d : DrillDesc) : List Byte :=
  let bit := fun (b : Bool) (i : Nat) => if b then 2 ^ i else 0
  le 4 d.len ++ le 1 d.entries.length ++
    le 1 (bit d.enc 0 + bit d.dec 1 + bit d.phaseEnd 2 + bit d.grainGen 3 + bit d.grainChk 4 + bit d.lane0 5 + bit d.hostRo 6 + bit (!d.resOk) 7) ++
    le 2 (d.requester + bit d.internal 15) ++ le 8 d.tweak ++ le 4 d.nsid ++ zeros 4 ++ le 8 d.stamp ++ d.crcEntry.bytes ++
    drillStatus 0 0 0 0 ++ d.entries.flatMap DrillEntry.bytes

end Sys2Proof

namespace Sys2Proof.Machine

/-! ## Die operation figures (05 R235, R236) and geometry (03 R122) -/

end Sys2Proof.Machine

namespace Sys2Proof
open Sys2Proof.Machine

/-- Times and time-out of an operation in native or pSLC mode. Read ID and Read Parameter Page, which no profile times, take place within
start-up phase 3 (12 R544); they stand with Set and Get Features here. -/
def Profile.figure (p : Profile) : DieOp → Bool → Figure
  | .read, slc | .levelRead, slc => if slc then p.senseSlc else p.sense
  | .program, slc => if slc then p.programSlc else p.program
  | .erase, slc | .resume, slc => if slc then p.eraseSlc else p.erase
  | .suspend, _ => p.suspend
  | .reset, _ => p.reset
  | .setFeatures, _ | .getFeatures, _ | .readId, _ | .readParam, _ => p.features

/-- Interval of the polls after the first, in half microseconds (05 R245). -/
def pollStep2 : DieOp → Nat
  | .program | .erase | .resume => 16
  | _ => 1

/-- Profile energy of an operation in nJ, its channel transfer included (02 R99, R103): `kib1024` counts 1/1024 KiB. The spec gives one figure each for a
sense, a unit program and an erase, in native mode, and none for a resume, a suspend, a die reset or Set and Get Features: the native figures stand for pSLC
too, and the others draw nothing (DESIGN CHOICE: notes/assumptions/122). -/
def Profile.energy (p : Profile) (op : DieOp) (senses kib1024 : Nat) : Nat :=
  (match op with
   | .read | .levelRead => p.eSense * senses
   | .program => p.eProgram
   | .erase => p.eErase
   | _ => 0) + p.eKiB * kib1024 / 1024

/-- Logical blocks of a block in native mode: planes × pages per block × 16 KiB (03 R122). -/
def Profile.blockBlocks (p : Profile) : Nat := p.planes * p.pages * 4
/-- Logical blocks of a die-program unit, native or pSLC (05 R238). -/
def Profile.unitBlocks (p : Profile) (slc : Bool) : Nat := p.planes * (if slc then 1 else p.bits) * 4
/-- Spares of a die with `good` good blocks at first start-up (03 R121). -/
def Profile.sparesOf (p : Profile) (good : Nat) : Nat := good - p.slots - Config.headlandBlocks

/-- Chip enable and LUN of a die position (05 R229). -/
def posCe (b : Nat) : Nat := b / 4
def posLun (b : Nat) : Nat := b % 4

/-- Modes and rates of a channel at a VCCQ (05 R226): mode codes of SWT_CH_STS, rates in units of 10 MT/s. -/
def modeAllows (v12 : Bool) (mode rate : Nat) : Bool :=
  match mode with
  | 0 => decide (1 ≤ rate) && decide (rate ≤ 5)
  | 1 => !v12 && decide (10 ≤ rate) && decide (rate ≤ 53)
  | 2 => v12 && decide (20 ≤ rate) && decide (rate ≤ 160)
  | 3 => v12 && decide (80 ≤ rate) && decide (rate ≤ 360)
  | 4 => decide (10 ≤ rate) && decide (rate ≤ 480) && (v12 == decide (53 < rate))
  | _ => false

/-- Shifts of the read levels of a profile at half a drift index, midway between two entries of its table where it is odd (06 R304), with the temperature
coefficient applied to the temperature of the channel group in 1/16 °C (05 R272, R273). -/
def Profile.shifts (p : Profile) (idx2 : Nat) (temp : Int) : List Int :=
  (List.range p.levels).map fun k =>
    (Config.levelShift p.table (idx2 / 2) k + Config.levelShift p.table (Nat.min 63 ((idx2 + 1) / 2)) k) / 2 + Config.tempCoeff p.table k * temp

end Sys2Proof

namespace Sys2Proof.Machine

/-- The base-2 logarithm bin of a magnitude (14 R598). -/
def ybkBin (code mag : Nat) : Nat :=
  let v := mag >>> Config.binShift code
  if v = 0 then 0 else Nat.min (Nat.log2 v + 1) 15

end Sys2Proof.Machine
end

