-- ==== Sys2Proof/Machine/Crypto.lean ====
section
/-! DEFINITION. The ciphers and digests of the standards that 00_scope R11 names: AES-256 with its modes XTS (08 R403), CMAC and key wrap (09 R446),
SHA-384 and ECDSA on P-384 (13 R564). The standards define them; the spec names them and gives their parameters. -/

namespace Sys2Proof.Machine

/-! ## AES-256 (FIPS 197) -/

/-- Times x in GF(2^8) modulo x^8 + x^4 + x^3 + x + 1. -/
def aesX (a : Byte) : Byte := (a <<< 1) ^^^ (if a.getLsbD 7 then 0x1B else 0)

/-- Product in GF(2^8). -/
def aesMul (a b : Byte) : Byte :=
  ((List.range 8).foldl (fun (r : Byte × Byte) i => (if b.getLsbD i then r.1 ^^^ r.2 else r.1, aesX r.2)) (0, a)).1

/-- Inverse in GF(2^8), a^254; that of 0 is 0. -/
def aesInv (a : Byte) : Byte :=
  let a2 := aesMul a a
  let a4 := aesMul a2 a2
  let a8 := aesMul a4 a4
  let a16 := aesMul a8 a8
  let a32 := aesMul a16 a16
  let a64 := aesMul a32 a32
  aesMul (aesMul (aesMul a2 a4) (aesMul a8 a16)) (aesMul (aesMul a32 a64) (aesMul a64 a64))

/-- SubBytes of one byte, and its inverse. -/
def aesSub (a : Byte) : Byte :=
  let b := aesInv a
  b ^^^ b.rotateLeft 1 ^^^ b.rotateLeft 2 ^^^ b.rotateLeft 3 ^^^ b.rotateLeft 4 ^^^ 0x63
def aesUnsub (a : Byte) : Byte := aesInv (a.rotateLeft 1 ^^^ a.rotateLeft 3 ^^^ a.rotateLeft 6 ^^^ 0x05)

/-- Exclusive-or of two byte strings. -/
def xorBytes (a b : List Byte) : List Byte := List.zipWith (fun x y => x ^^^ y) a b

/-- One word of the key schedule from the words before it, newest first. -/
def aesNext (ws : List (List Byte)) (rcon : Byte) : List Byte × Byte :=
  let i := ws.length
  let t := ws.headD []
  let old := ws.getD 7 []
  if i % 8 = 0 then
    match (t.drop 1 ++ t.take 1).map aesSub with
    | b :: r => (xorBytes old ((b ^^^ rcon) :: r), aesX rcon)
    | [] => (old, rcon)
  else (xorBytes old (if i % 8 = 4 then t.map aesSub else t), rcon)

/-- The 15 round keys of a 32-byte key, 16 bytes each. -/
def aesKeys (key : List Byte) : List (List Byte) :=
  let first := ((List.range 8).map fun i => (key.drop (4 * i)).take 4).reverse
  let ws := ((List.range 52).foldl (fun (s : List (List Byte) × Byte) _ =>
    let n := aesNext s.1 s.2
    (n.1 :: s.1, n.2)) (first, 1)).1.reverse
  (List.range 15).map fun r => ((ws.drop (4 * r)).take 4).flatMap id

/-- ShiftRows, and its inverse: the state is by columns. -/
def aesShift (s : List Byte) : List Byte := (List.range 16).map fun i => s.getD ((i + 4 * (i % 4)) % 16) 0
def aesUnshift (s : List Byte) : List Byte := (List.range 16).map fun i => s.getD ((i + 12 * (i % 4)) % 16) 0

/-- A column times the circulant of four coefficients. -/
def aesMix (k : List Byte) (s : List Byte) : List Byte :=
  (List.range 16).map fun i => (List.range 4).foldl (fun acc j => acc ^^^ aesMul (k.getD ((j + 4 - i % 4) % 4) 0) (s.getD (i / 4 * 4 + j) 0)) 0

/-- The cipher on one block of 16 bytes. -/
def aesEncrypt (key block : List Byte) : List Byte :=
  match aesKeys key with
  | [] => block
  | k0 :: ks =>
    let last := ks.getLastD []
    let mid := ks.dropLast.foldl (fun s k => xorBytes (aesMix [2, 3, 1, 1] (aesShift (s.map aesSub))) k) (xorBytes block k0)
    xorBytes (aesShift (mid.map aesSub)) last

/-- The inverse cipher. -/
def aesDecrypt (key block : List Byte) : List Byte :=
  match (aesKeys key).reverse with
  | [] => block
  | k14 :: ks =>
    let last := ks.getLastD []
    let mid := ks.dropLast.foldl (fun s k => aesMix [14, 11, 13, 9] (xorBytes ((aesUnshift s).map aesUnsub) k)) (xorBytes block k14)
    xorBytes ((aesUnshift mid).map aesUnsub) last

/-! ## Modes -/

/-- Pieces of a byte string, `n` bytes each, at most `k` of them. -/
def bytePieces (n : Nat) : Nat → List Byte → List (List Byte)
  | 0, _ => []
  | _, [] => []
  | k + 1, bs => bs.take n :: bytePieces n k (bs.drop n)

/-- Times the primitive element of GF(2^128), little-endian as XTS has it. -/
def xtsNext (t : List Byte) : List Byte :=
  let v := leAt t 0 16 * 2
  let w := BitVec.ofNat 128 v ^^^ (if 2 ^ 128 ≤ v then 0x87 else 0)
  le 16 w.toNat

/-- AES-256-XTS (IEEE 1619) on whole blocks: `key` is Key1 and Key2, `tweak` the 16 bytes of the data unit. -/
def aesXts (decrypt : Bool) (key tweak data : List Byte) : List Byte :=
  let k1 := key.take 32
  let t0 := aesEncrypt (key.drop 32) tweak
  ((bytePieces 16 (data.length / 16) data).foldl (fun (s : List Byte × List Byte) p =>
    let x := xorBytes p s.2
    (s.1 ++ xorBytes (if decrypt then aesDecrypt k1 x else aesEncrypt k1 x) s.2, xtsNext s.2)) ([], t0)).1

/-- Doubling in GF(2^128), big-endian as CMAC has it. -/
def cmacDouble (b : List Byte) : List Byte := (xtsNext b.reverse).reverse

/-- AES-256-CMAC (NIST SP 800-38B): 16 bytes. -/
def aesCmac (key msg : List Byte) : List Byte :=
  let k1 := cmacDouble (aesEncrypt key (List.replicate 16 0))
  let n := (msg.length - 1) / 16
  let tail := msg.drop (16 * n)
  let last := if tail.length = 16 then xorBytes tail k1
    else xorBytes (tail ++ 0x80 :: List.replicate (15 - tail.length) 0) (cmacDouble k1)
  let c := (bytePieces 16 n msg).foldl (fun c p => aesEncrypt key (xorBytes c p)) (List.replicate 16 0)
  aesEncrypt key (xorBytes c last)

/-- A 64-bit count, big-endian. -/
def be8 (n : Nat) : List Byte := (le 8 n).reverse

/-- AES key wrap (NIST SP 800-38F, KW) of a key of whole 8-byte pieces. -/
def aesWrap (key plain : List Byte) : List Byte :=
  let n := plain.length / 8
  let r := (List.range (6 * n)).foldl (fun (s : List Byte × List (List Byte)) t =>
    match s.2 with
    | [] => s
    | p :: ps =>
      let b := aesEncrypt key (s.1 ++ p)
      (xorBytes (b.take 8) (be8 (t + 1)), ps ++ [b.drop 8])) (List.replicate 8 0xA6, bytePieces 8 n plain)
  r.1 ++ r.2.flatMap id

/-- The key that a wrapped key holds, where its check value is right. -/
def aesUnwrap (key wrapped : List Byte) : Option (List Byte) :=
  let n := wrapped.length / 8 - 1
  let r := (List.range (6 * n)).foldl (fun (s : List Byte × List (List Byte)) i =>
    match s.2 with
    | [] => s
    | p :: ps =>
      let b := aesDecrypt key (xorBytes s.1 (be8 (6 * n - i)) ++ p)
      (b.take 8, ps ++ [b.drop 8])) (wrapped.take 8, (bytePieces 8 n (wrapped.drop 8)).reverse)
  if r.1 = List.replicate 8 0xA6 then some (r.2.reverse.flatMap id) else none

/-! ## SHA-384 (FIPS 180-4) -/

/-- The first 64 bits of the fractional parts of the cube roots of the first 80 primes. -/
def shaK : List (BitVec 64) :=
  [0x428a2f98d728ae22, 0x7137449123ef65cd, 0xb5c0fbcfec4d3b2f, 0xe9b5dba58189dbbc, 0x3956c25bf348b538, 0x59f111f1b605d019,
   0x923f82a4af194f9b, 0xab1c5ed5da6d8118, 0xd807aa98a3030242, 0x12835b0145706fbe, 0x243185be4ee4b28c, 0x550c7dc3d5ffb4e2,
   0x72be5d74f27b896f, 0x80deb1fe3b1696b1, 0x9bdc06a725c71235, 0xc19bf174cf692694, 0xe49b69c19ef14ad2, 0xefbe4786384f25e3,
   0x0fc19dc68b8cd5b5, 0x240ca1cc77ac9c65, 0x2de92c6f592b0275, 0x4a7484aa6ea6e483, 0x5cb0a9dcbd41fbd4, 0x76f988da831153b5,
   0x983e5152ee66dfab, 0xa831c66d2db43210, 0xb00327c898fb213f, 0xbf597fc7beef0ee4, 0xc6e00bf33da88fc2, 0xd5a79147930aa725,
   0x06ca6351e003826f, 0x142929670a0e6e70, 0x27b70a8546d22ffc, 0x2e1b21385c26c926, 0x4d2c6dfc5ac42aed, 0x53380d139d95b3df,
   0x650a73548baf63de, 0x766a0abb3c77b2a8, 0x81c2c92e47edaee6, 0x92722c851482353b] ++
  [0xa2bfe8a14cf10364, 0xa81a664bbc423001, 0xc24b8b70d0f89791, 0xc76c51a30654be30, 0xd192e819d6ef5218, 0xd69906245565a910,
   0xf40e35855771202a, 0x106aa07032bbd1b8, 0x19a4c116b8d2d0c8, 0x1e376c085141ab53, 0x2748774cdf8eeb99, 0x34b0bcb5e19b48a8,
   0x391c0cb3c5c95a63, 0x4ed8aa4ae3418acb, 0x5b9cca4f7763e373, 0x682e6ff3d6b2b8a3, 0x748f82ee5defb2fc, 0x78a5636f43172f60,
   0x84c87814a1f0ab72, 0x8cc702081a6439ec, 0x90befffa23631e28, 0xa4506cebde82bde9, 0xbef9a3f7b2c67915, 0xc67178f2e372532b,
   0xca273eceea26619c, 0xd186b8c721c0c207, 0xeada7dd6cde0eb1e, 0xf57d4f7fee6ed178, 0x06f067aa72176fba, 0x0a637dc5a2c898a6,
   0x113f9804bef90dae, 0x1b710b35131c471b, 0x28db77f523047d84, 0x32caab7b40c72493, 0x3c9ebe0a15c9bebc, 0x431d67c49c100d4c,
   0x4cc5d4becb3e42b6, 0x597f299cfc657e2a, 0x5fcb6fab3ad6faec, 0x6c44198c4a475817]

/-- A SHA-384 computation: its eight words, the bytes of a block not yet full, and the bytes taken. -/
structure Sha where
  h     : List (BitVec 64)
  rest  : List Byte
  count : Nat
deriving DecidableEq, Repr

/-- The state before the first block. -/
def Sha.start : Sha :=
  { h := [0xcbbb9d5dc1059ed8, 0x629a292a367cd507, 0x9159015a3070dd17, 0x152fecd8f70e5939, 0x67332667ffc00b31, 0x8eb44a8768581511,
          0xdb0c2e0d64f98fa7, 0x47b5481dbefa4fa4], rest := [], count := 0 }

/-- The message schedule of a block of 128 bytes. -/
def shaSchedule (block : List Byte) : List (BitVec 64) :=
  let first := (bytePieces 8 16 block).map fun p => BitVec.ofNat 64 (leAt p.reverse 0 8)
  let s0 := fun (x : BitVec 64) => x.rotateRight 1 ^^^ x.rotateRight 8 ^^^ (x >>> 7)
  let s1 := fun (x : BitVec 64) => x.rotateRight 19 ^^^ x.rotateRight 61 ^^^ (x >>> 6)
  ((List.range 64).foldl (fun (ws : List (BitVec 64)) _ =>
    (s1 (ws.getD 1 0) + ws.getD 6 0 + s0 (ws.getD 14 0) + ws.getD 15 0) :: ws) first.reverse).reverse

/-- One round on the eight working words. -/
def shaRound (v : List (BitVec 64)) (kw : BitVec 64 × BitVec 64) : List (BitVec 64) :=
  match v with
  | [a, b, c, d, e, f, g, h] =>
    let t1 := h + (e.rotateRight 14 ^^^ e.rotateRight 18 ^^^ e.rotateRight 41) + ((e &&& f) ^^^ (~~~e &&& g)) + kw.1 + kw.2
    let t2 := (a.rotateRight 28 ^^^ a.rotateRight 34 ^^^ a.rotateRight 39) + ((a &&& b) ^^^ (a &&& c) ^^^ (b &&& c))
    [t1 + t2, a, b, c, d + t1, e, f, g]
  | _ => v

/-- Take a block into the hash. -/
def shaBlock (h : List (BitVec 64)) (block : List Byte) : List (BitVec 64) :=
  List.zipWith (fun x y => x + y) h ((List.zip shaK (shaSchedule block)).foldl shaRound h)

/-- Take more bytes of the message. -/
def Sha.feed (s : Sha) (bs : List Byte) : Sha :=
  let all := s.rest ++ bs
  let n := all.length / 128
  { h := (bytePieces 128 n all).foldl shaBlock s.h, rest := all.drop (128 * n), count := s.count + bs.length }

/-- The digest of the message taken so far: 48 bytes. -/
def Sha.digest (s : Sha) : List Byte :=
  let pad := (0x80 : Byte) :: List.replicate ((239 - s.rest.length) % 128) 0
  let e := s.feed (pad ++ (le 16 (8 * s.count)).reverse)
  (e.h.take 6).flatMap fun w => (le 8 w.toNat).reverse

/-- SHA-384 of a byte string. -/
def sha384 (bs : List Byte) : List Byte := (Sha.start.feed bs).digest

/-! ## ECDSA on P-384 (FIPS 186-5) -/

def p384 : Nat := 0xfffffffffffffffffffffffffffffffffffffffffffffffffffffffffffffffeffffffff0000000000000000ffffffff
def n384 : Nat := 0xffffffffffffffffffffffffffffffffffffffffffffffffc7634d81f4372ddf581a0db248b0a77aecec196accc52973
def b384 : Nat := 0xb3312fa7e23ee7e4988e056be3f82d19181d9c6efe8141120314088f5013875ac656398d8a2ed19d2a85c8edd3ec2aef
/-- The base point. -/
def g384 : Nat × Nat :=
  (0xaa87ca22be8b05378eb1c71ef320ad746e1d3b628ba79b9859f741e082542a385502f25dbf55296c3a545e3872760ab7,
   0x3617de4a96262c6f5d9e98bf9292dc29f8f41dbd289a147ce9da3113b5f0b8c00a60b1ce1d7e819d7a431d7c90ea0e5f)

/-- Power modulo `q`, by the bits of a 384-bit exponent. -/
def powMod (q b e : Nat) : Nat :=
  ((List.range 384).foldl (fun (s : Nat × Nat) i => (if e.testBit i then s.1 * s.2 % q else s.1, s.2 * s.2 % q)) (1, b % q)).1

/-- Inverse modulo a prime. -/
def invMod (q a : Nat) : Nat := powMod q a (q - 2)

/-- Sum of two points of the curve; none is the point at infinity. -/
def p384Add (a b : Option (Nat × Nat)) : Option (Nat × Nat) :=
  match a, b with
  | none, _ => b
  | _, none => a
  | some (x1, y1), some (x2, y2) =>
    if x1 = x2 ∧ (y1 + y2) % p384 = 0 then none
    else
      let l := if x1 = x2 then (3 * x1 * x1 + (p384 - 3)) * invMod p384 (2 * y1) % p384
        else (y2 + (p384 - y1)) * invMod p384 (x2 + (p384 - x1)) % p384
      let x3 := (l * l + (p384 - x1) + (p384 - x2)) % p384
      some (x3, (l * (x1 + (p384 - x3)) + (p384 - y1)) % p384)

/-- Multiple of a point. -/
def p384Mul (k : Nat) (g : Nat × Nat) : Option (Nat × Nat) :=
  ((List.range 384).foldl (fun (s : Option (Nat × Nat) × Option (Nat × Nat)) i =>
    (if k.testBit i then p384Add s.1 s.2 else s.1, p384Add s.2 s.2)) (none, some g)).1

/-- The point is on the curve. -/
def p384On (q : Nat × Nat) : Bool :=
  decide (q.1 < p384) && decide (q.2 < p384) && q.2 * q.2 % p384 == (q.1 * q.1 * q.1 + (p384 - 3) * q.1 + b384) % p384

/-- The signature (r, s) of a digest of 48 bytes is valid under a public key. -/
def ecdsaValid (q : Nat × Nat) (digest : List Byte) (r s : Nat) : Bool :=
  let e := leAt digest.reverse 0 48
  let w := invMod n384 s
  decide (1 ≤ r) && decide (r < n384) && decide (1 ≤ s) && decide (s < n384) && p384On q &&
    match p384Add (p384Mul (e * w % n384) g384) (p384Mul (r * w % n384) q) with
    | some p => p.1 % n384 == r
    | none => false

end Sys2Proof.Machine
end

