-- ==== Sys2Proof/Machine/Ops.lean ====
section
/-! DEFINITION. The named operations over the state that the meanings share: table access, event recording (14 R604), task
placement (01 R21), completions (01 R32), range locks (04 R187 to R193), squashes (08 R407), plot errors (09 R432), fencing
(01 R54) and controller fatal status (01 R63). -/

namespace Sys2Proof.Machine

/-- Act on everything but the configuration and the queue. -/
def State.on (s : State) (f : Cfg → Mach → Mach) : State := { s with m := f s.cfg s.m }

/-! ## Access to the families -/

def Mach.onClk (f : Clock → Clock) (m : Mach) : Mach := { m with clk := f m.clk }
def Mach.onHub (f : Hub → Hub) (m : Mach) : Mach := { m with hub := f m.hub }
def Mach.onFront (f : Front → Front) (m : Mach) : Mach := { m with front := f m.front }
def Mach.onMed (f : Media → Media) (m : Mach) : Mach := { m with med := f m.med }
def Mach.onGrid (f : Grid → Grid) (m : Mach) : Mach := { m with grid := f m.grid }
def Mach.onStg (f : Staging → Staging) (m : Mach) : Mach := { m with stg := f m.stg }
def Mach.onPlots (f : Plots → Plots) (m : Mach) : Mach := { m with plots := f m.plots }
def Mach.onHitch (f : Hitch → Hitch) (m : Mach) : Mach := { m with hitch := f m.hitch }
def Mach.onPower (f : Power → Power) (m : Mach) : Mach := { m with power := f m.power }
def Mach.onHeat (f : Heat → Heat) (m : Mach) : Mach := { m with heat := f m.heat }
def Mach.onBoot (f : Boot → Boot) (m : Mach) : Mach := { m with boot := f m.boot }
def Mach.onImg (f : Img → Img) (m : Mach) : Mach := { m with img := f m.img }
def Mach.onPolez (f : Polez → Polez) (m : Mach) : Mach := { m with polez := f m.polez }
def Mach.onYbk (f : Ybk → Ybk) (m : Mach) : Mach := { m with ybk := f m.ybk }

/-- Units of grid time that a datapath edge adds: 0.3125 ns with the trim, and the slew of the pass spread over the edges of its
length in host time (02 R74, R87). -/
def Grid.edgeUnits (g : Grid) : Nat :=
  (5 * (1000000000 + g.trim) + 5 * g.slew * (Config.gridNs : Int) / (16 * (1000000 - g.slew))).toNat

/-- A warm start has begun: configuration and registers answer (12 R547). -/
def Mach.awake (m : Mach) : Bool := m.boot.phase != 0
/-- BAR2 answers: the controller is awake, and Memory Space Enable of plot 0 is set (15 R619). -/
def Mach.deviceUp (m : Mach) : Bool := m.awake && !m.plots.mseOff.contains 0
/-- Grid time after the datapath edges up to edge `t`: it advances on each of them while the controller is awake (02 R74). -/
def Mach.gridAt (t : Nat) (m : Mach) : Nat := m.grid.time + (if m.awake then (t - m.clk.now) * m.grid.edgeUnits else 0)
/-- Quarters of a tine clock edge in one datapath edge: tines run at 1.6 GHz, and at 800 MHz in PS2 (01 R41). -/
def Mach.tineRate (m : Mach) : Nat := if m.power.ps = 2 then 1 else 2
/-- The clock is at `t` or later: a command that carries a time happens no earlier than the present. Grid time has advanced on
the edges between (02 R74), and the tine clock has run (01 R41, 02 R77). -/
def Mach.advance (t : Nat) (m : Mach) : Mach :=
  { m with clk := { m.clk with now := Nat.max m.clk.now t, tineQ := m.clk.tineQ + (t - m.clk.now) * m.tineRate },
           grid := { m.grid with time := m.gridAt t } }

/-- The tiers on whose clocks time-outs are evaluated (01 R68). -/
inductive Tier where
  | tine | datapath | reference
deriving DecidableEq, Repr

/-- Datapath edges of one evaluation edge of a tier: the tine clock, the datapath clock, the 25 MHz reference (01 R68). -/
def Mach.tierPeriod (m : Mach) : Tier → Nat
  | .tine => 4 / m.tineRate
  | .datapath => 1
  | .reference => Config.edgesPerAon
/-- The first evaluation edge of a tier on or after `t` and the present: there a time-out of the tier is evaluated, and an arrival from
another clock domain counts as arriving (01 R68). The clocks rise together on edge 0 (DESIGN CHOICE: notes/assumptions/111). -/
def Mach.evalEdge (m : Mach) (k : Tier) (t : Nat) : Nat :=
  let p := m.tierPeriod k
  (Nat.max m.clk.now t + p - 1) / p * p
/-- The clock is at an evaluation edge of a tier. -/
def Mach.advanceOn (k : Tier) (t : Nat) (m : Mach) : Mach := m.advance (m.evalEdge k t)

def Mach.tine (m : Mach) (t : Nat) : Tine := Tbl.get Tine.init t m.tines
def Mach.setTine (t : Nat) (v : Tine) (m : Mach) : Mach := { m with tines := Tbl.put Tine.init t v m.tines }
def Mach.plot (m : Mach) (p : Nat) : Plot := Tbl.get Plot.init p m.plots.tbl
def Mach.updPlot (p : Nat) (f : Plot → Plot) (m : Mach) : Mach :=
  m.onPlots fun x => { x with tbl := Tbl.upd Plot.init p f x.tbl }
def Mach.bar0 (m : Mach) (p : Nat) : Bar0 := Tbl.get Bar0.init p m.front.bar0
def Mach.updBar0 (p : Nat) (f : Bar0 → Bar0) (m : Mach) : Mach :=
  m.onFront fun x => { x with bar0 := Tbl.upd Bar0.init p f x.bar0 }
def Mach.sq (m : Mach) (p q : Nat) : Sq := Tbl.get Sq.init (qkey p q) m.front.sqs
def Mach.updSq (p q : Nat) (f : Sq → Sq) (m : Mach) : Mach :=
  m.onFront fun x => { x with sqs := Tbl.upd Sq.init (qkey p q) f x.sqs }
def Mach.cq (m : Mach) (p q : Nat) : Cq := Tbl.get Cq.init (qkey p q) m.front.cqs
def Mach.updCq (p q : Nat) (f : Cq → Cq) (m : Mach) : Mach :=
  m.onFront fun x => { x with cqs := Tbl.upd Cq.init (qkey p q) f x.cqs }
def Mach.ns (m : Mach) (n : Nat) : Ns := Tbl.get Ns.init n m.med.ns
def Mach.updNs (n : Nat) (f : Ns → Ns) (m : Mach) : Mach :=
  m.onMed fun x => { x with ns := Tbl.upd Ns.init n f x.ns }
def Mach.zone (m : Mach) (n z : Nat) : Zone := Tbl.get Zone.init (zkey n z) m.med.zones
def Mach.updZone (n z : Nat) (f : Zone → Zone) (m : Mach) : Mach :=
  m.onMed fun x => { x with zones := Tbl.upd Zone.init (zkey n z) f x.zones }
def Mach.bed (m : Mach) (b : Nat) : Bed := Tbl.get Bed.init b m.med.beds
def Mach.updBed (b : Nat) (f : Bed → Bed) (m : Mach) : Mach :=
  m.onMed fun x => { x with beds := Tbl.upd Bed.init b f x.beds }
def Mach.die (m : Mach) (d : Nat) : Die := Tbl.get Die.init d m.med.dies
def Mach.updDie (d : Nat) (f : Die → Die) (m : Mach) : Mach :=
  m.onMed fun x => { x with dies := Tbl.upd Die.init d f x.dies }
def Mach.senseAt (m : Mach) (g : Nat) : Sense := Tbl.get Sense.init g m.heat.sense
def Mach.chan (m : Mach) (c : Nat) : Chan := Tbl.get Chan.init c m.med.chans
def Mach.updChan (c : Nat) (f : Chan → Chan) (m : Mach) : Mach :=
  m.onMed fun x => { x with chans := Tbl.upd Chan.init c f x.chans }
def Mach.port (m : Mach) (a : Nat) : Port := Tbl.get Port.init a m.ports
def Mach.updPort (a : Nat) (f : Port → Port) (m : Mach) : Mach := { m with ports := Tbl.upd Port.init a f m.ports }
def Mach.group (m : Mach) (g : Nat) : Group := Tbl.get Group.init g m.drill
def Mach.updGroup (g : Nat) (f : Group → Group) (m : Mach) : Mach := { m with drill := Tbl.upd Group.init g f m.drill }
def Mach.member (m : Mach) (n : Nat) : Member := Tbl.get Member.init n m.hitch.members
def Mach.updMember (n : Nat) (f : Member → Member) (m : Mach) : Mach :=
  m.onHitch fun x => { x with members := Tbl.upd Member.init n f x.members }
def Mach.hport (m : Mach) (p : Nat) : HPort := Tbl.get HPort.init p m.hitch.ports
def Mach.updHport (p : Nat) (f : HPort → HPort) (m : Mach) : Mach :=
  m.onHitch fun x => { x with ports := Tbl.upd HPort.init p f x.ports }
def Mach.fencedA (m : Mach) (a : Nat) : Bool := Tbl.get false a m.hub.fenced
def Mach.fencingA (m : Mach) (a : Nat) : Bool := Tbl.get false a m.hub.fencing
/-- The acre is enabled and neither fenced nor fencing. -/
def Mach.acreUp (m : Mach) (a : Nat) : Bool := decide (a < m.nAcres) && !m.fencedA a && !m.fencingA a
/-- A die of an acre that is up still carries out an operation. -/
def Mach.diesRun (m : Mach) : Bool := m.med.dies.any fun e => e.2.op.isSome && m.acreUp (dieAcre e.1)
/-- The acres enter closing once no die carries out an operation any more (11 R499 steps 2 and 3). -/
def Mach.beginClosing (m : Mach) : Mach :=
  if m.power.closing && m.power.closeAt.isNone && !m.diesRun then m.onPower fun p => { p with closeAt := some m.clk.now } else m
/-- Start-up is complete (12 R540). -/
def Mach.inService (m : Mach) : Bool := m.boot.phase == 9
/-- Key1 and Key2 of a plot key by its number, 64 bytes: one that a record has brought, or that the controller generated on that draw (09 R426, R448). -/
def Mach.keyBytes (m : Mach) (k : Nat) : List Byte :=
  match m.plots.keyVals.find? (fun e => e.1 == k) with
  | some e => e.2
  | none => le 64 (Config.plotKey k).toNat
/-- The next identifier of the model's own numbering, and the machine that has used it. -/
def Mach.freshId (m : Mach) : Nat × Mach := (m.med.nextId, m.onMed fun x => { x with nextId := x.nextId + 1 })

/-! ## Times -/

/-- Lifetime powered seconds and power cycles (14 R601). -/
def Mach.lifeSec (m : Mach) : Nat := m.clk.secBase + (m.clk.now - m.clk.releasedAt) / Config.edgesPerSec
def Mach.lifeCyc (m : Mach) : Nat := if m.clk.basesLoaded then m.clk.cycBase else 1
def Mach.stampNow (m : Mach) : Stamp := { sec := m.lifeSec, cyc := m.lifeCyc }
/-- Powered milliseconds: the persist clock (14 R606). -/
def Mach.powMs (m : Mach) : Nat := (m.clk.now - m.clk.releasedAt) / Config.edgesPerMs
/-- Grid time in nanoseconds (02 R73). -/
def Mach.gridNs (m : Mach) : Nat := m.grid.time / Config.gridNs
def Mach.usSince (m : Mach) (t : Nat) : Nat := (m.clk.now - t) / Config.edgesPerUs

/-! ## Events and interrupts -/

/-- Set a bit of HUB_INT_STS (15 R638). -/
def Mach.hubInt (bit : Nat) (m : Mach) : Mach :=
  m.onHub fun h => { h with intSts := h.intSts ||| (1#32 <<< bit) }

/-- Post an occurrence to the hub: `src` is 0 for the hub itself and a + 1 for acre a, whose queue holds 1,024 entries;
when it is full the occurrence is dropped and counted, and the history of its code is incomplete (14 R604, R611). -/
def Mach.record (code mag src : Nat) (m : Mach) : Mach :=
  if decide (src ≠ 0) && decide (1024 ≤ (m.ybk.queue.filter (fun o => o.src == src)).length) then
    let short := fun (t : Tbl Rec) => Tbl.upd Rec.init code (fun r => { r with incomplete := true }) t
    let m := m.onYbk fun y => { y with recs := if y.slots.contains code then short y.recs else y.recs }
    (m.onYbk fun y => { y with dropped := sat 16 (y.dropped + 1), dropAcre := src - 1, dropOwed := Tbl.upd 0 (src - 1) (fun n => n + 1) y.dropOwed }).hubInt 19
  else m.onYbk fun y => { y with queue := y.queue ++ [{ code := code, mag := mag, src := src, edge := m.clk.now }] }

/-! ## Commands in flight -/

def Mach.cmd? (m : Mach) (stamp : Nat) : Option Cmd := m.front.inflight.find? (fun c => c.stamp == stamp)
def Mach.updCmd (stamp : Nat) (f : Cmd → Cmd) (m : Mach) : Mach :=
  m.onFront fun x => { x with inflight := x.inflight.map fun c => if c.stamp = stamp then f c else c }

/-- The command's last task has its result (01 R36): it waits for COMMAND_FINISHED. -/
def Mach.finish (stamp : Nat) (st : Status) (dw0 : Word) (m : Mach) : Mach :=
  m.updCmd stamp fun c =>
    if c.stage = .done ∨ c.stage = .finished then c else { c with stage := .done, status := st, dw0 := dw0 }
def Mach.succeed (stamp : Nat) (m : Mach) : Mach := m.finish stamp Status.ok 0
def Mach.failWith (stamp : Nat) (st : Status) (m : Mach) : Mach := m.finish stamp st 0
/-- Return data to the host and succeed. -/
def Mach.reply (stamp : Nat) (data : List Byte) (m : Mach) : Mach :=
  (m.updCmd stamp fun c => { c with outData := data }).finish stamp Status.ok 0
def Mach.setStage (stamp : Nat) (st : Stage) (m : Mach) : Mach :=
  m.updCmd stamp fun c => { c with stage := st, since := m.clk.now }

/-! ## Asynchronous events (04 R172, 15 R640) -/

def Aen.key (e : Aen) : Nat × Nat × Nat := (e.plot, e.type, e.lid)
/-- Events of the type are masked for a plot (15 R640). -/
def Mach.maskedType (m : Mach) (plot type : Nat) : Bool := m.front.masked.any fun k => k.1 == plot && k.2.1 == type
/-- DW0 of an Asynchronous Event Request that completes with an event. -/
def Aen.dw0 (e : Aen) : Word := BitVec.ofNat 32 (e.type + 2 ^ 8 * e.info + 2 ^ 16 * e.lid)

/-- The oldest Asynchronous Event Request that a plot holds outstanding. -/
def Mach.heldAer (m : Mach) (plot : Nat) : Option Cmd :=
  m.front.inflight.find? fun c => c.plot == plot && c.sq == 0 && c.sqe.opc == 0x0C && c.stage == .held

/-- Complete an outstanding request with an event; its type is masked until its log page is read (15 R640). -/
def Mach.postEvent (e : Aen) (c : Cmd) (m : Mach) : Mach :=
  (m.finish c.stamp Status.ok e.dw0).onFront fun f => { f with masked := f.masked ++ [e.key] }

/-- An asynchronous event of a plot: it completes an outstanding request, or waits while there is none or its type is masked. -/
def Mach.event (plot type info lid : Nat) (m : Mach) : Mach :=
  let e : Aen := { plot := plot, type := type, info := info, lid := lid }
  match m.heldAer plot, m.maskedType plot type with
  | some c, false => m.postEvent e c
  | _, _ => if m.front.events.contains e then m else m.onFront fun f => { f with events := f.events ++ [e] }

/-- Waiting events of a plot whose type is not masked complete its outstanding requests, oldest first. -/
def Mach.pumpEvents (plot : Nat) : Nat → Mach → Mach
  | 0, m => m
  | fuel + 1, m =>
    match m.front.events.find? (fun e => e.plot == plot && !m.maskedType plot e.type), m.heldAer plot with
    | some e, some c => Mach.pumpEvents plot fuel ((m.onFront fun f => { f with events := f.events.erase e }).postEvent e c)
    | _, _ => m

/-- A notice (type 2) that a plot has enabled by feature 0x0B (PRESUMED: notes/assumptions/23). -/
def Mach.notice (plot bit info lid : Nat) (m : Mach) : Mach :=
  if (Tbl.get 0 0x0B (m.plot plot).feats).testBit bit then m.event plot 2 info lid else m

/-- Zone Descriptor Changed: a notice and a Changed Zone List entry for every plot attached (03 R134). -/
def Mach.zoneNotice (n z : Nat) (m : Mach) : Mach :=
  (m.ns n).attached.foldl (fun m p =>
    let l := Tbl.get [] p m.front.changed
    let e := (n, z * (m.ns n).zsze)
    let m := if l.contains e then m
      else if l.length < 511 then m.onFront fun f => { f with changed := Tbl.put [] p (l ++ [e]) f.changed }
      else m.onFront fun f => { f with changedOvf := if f.changedOvf.contains p then f.changedOvf else f.changedOvf ++ [p] }
    m.notice p 27 0xEF 0xBF) m

/-! ## Tasks (01) -/

def Tine.load (t : Tine) : Nat := t.l0.length + t.l1.length + t.l2.length + t.l3.length
def Tine.lane (t : Tine) : Nat → List Task
  | 0 => t.l0 | 1 => t.l1 | 2 => t.l2 | _ => t.l3
def Tine.setLane (t : Tine) (n : Nat) (l : List Task) : Tine :=
  match n with
  | 0 => { t with l0 := l } | 1 => { t with l1 := l } | 2 => { t with l2 := l } | _ => { t with l3 := l }
/-- 01 R18: a task may enter lane 0 below 64 entries, any other lane below 56. -/
def Tine.admits (t : Tine) (lane : Nat) : Bool := decide (t.load < if lane = 0 then 64 else 56)
/-- All four lanes are empty (01 "Work stealing"). -/
def Tine.idle (t : Tine) : Bool := t.l0.isEmpty && t.l1.isEmpty && t.l2.isEmpty && t.l3.isEmpty
def Tine.pushTail (t : Tine) (k : Task) : Tine := t.setLane k.lane (t.lane k.lane ++ [k])
def Tine.pushHead (t : Tine) (k : Task) : Tine := t.setLane k.lane (k :: t.lane k.lane)

/-- The swath that a live activation is switching, or switching back (13 R588, R589), if any. -/
def Mach.switching (m : Mach) : Option Nat :=
  match m.img.act with
  | some a => if a.waiting then none else match a.back with | some l => l.head? | none => a.swaths.head?
  | none => none

/-- Tines of a task's scope (01 R16, R21): the swath for media, the acre for zone and codec tasks, the acre and then the
chip for front-end tasks. -/
def Mach.scopeTines (m : Mach) (k : Task) : List Nat :=
  match k.kind with
  | .media => (List.range 16).map (fun i => 16 * k.scope + i)
  | _ => if k.scope < m.nAcres then (List.range 128).map (fun i => 128 * k.scope + i) else List.range m.nTines

/-- A tine may be given a task: healthy, on an acre that is up, not on a swath being switched. -/
def Mach.tineOk (m : Mach) (t : Nat) : Bool :=
  !(m.tine t).quar && m.acreUp (tineAcre t) && decide (m.switching ≠ some (tineSwath t))

/-- The least-loaded tine of a list that admits the lane, the lower number on a tie (01 R21). -/
def Mach.leastLoaded (m : Mach) (lane : Nat) (l : List Nat) : Option Nat :=
  l.foldl (fun best t =>
    if !(m.tineOk t && (m.tine t).admits lane) then best
    else match best with
      | none => some t
      | some b => if (m.tine t).load < (m.tine b).load then some t else best) none

/-- A task leaves a lane with the age that it has there. -/
def Task.leave (now : Nat) (k : Task) : Task := { k with waited := now - k.since }
/-- A task enters a lane with the age that it brings: time in no lane does not count (01 R20, R28, R44). -/
def Task.enter (now : Nat) (k : Task) : Task := { k with since := now - k.waited, toHead := false }

/-- Healthy sibling tines of a tine within the steal scope of a task (01 R42). -/
def Mach.siblings (m : Mach) (tine : Nat) (k : Task) : List Nat :=
  let l := if k.kind = .media then (List.range 16).map (fun i => 16 * tineSwath tine + i)
    else (List.range 128).map (fun i => 128 * tineAcre tine + i)
  l.filter (fun t => t != tine && m.tineOk t)

/-- Place a faulted task at the head of its lane on the least-loaded sibling of the tine that faulted, or leave it to be offered there
again (01 R21, R42). -/
def Mach.placeRetry (k : Task) (m : Mach) : Mach :=
  match m.leastLoaded k.lane (m.siblings ((k.retried.map (fun r => r.1)).getD 0) k) with
  | some t => m.setTine t ((m.tine t).pushHead (k.enter m.clk.now))
  | none => { m with retry := m.retry ++ [{ k with toHead := true }] }

/-- A producer places a task (01 R21, R22): on a tine of its scope, a front-end task then anywhere or in the dispatcher while that holds
fewer than 4,096, a media task of a switching swath on the acre hold list (13 R588), any other task to be offered again. -/
def Mach.placeAged (k : Task) (m : Mach) : Mach :=
  if k.toHead then m.placeRetry k
  else match m.leastLoaded k.lane (m.scopeTines k) with
  | some t => m.setTine t ((m.tine t).pushTail (k.enter m.clk.now))
  | none =>
    if k.kind = .frontEnd then
      match m.leastLoaded k.lane (List.range m.nTines) with
      | some t => m.setTine t ((m.tine t).pushTail (k.enter m.clk.now))
      | none => if m.disp.length < 4096 then { m with disp := m.disp ++ [k] } else { m with retry := m.retry ++ [k] }
    else if k.kind = .media ∧ m.switching = some k.scope then m.onImg fun i => { i with hold := i.hold ++ [k] }
    else { m with retry := m.retry ++ [k] }

/-- A new task is placed: its age counts from the edge on which it enters a lane. -/
def Mach.place (k : Task) (m : Mach) : Mach := m.placeAged { k with waited := 0, toHead := false }
/-- A task of a kind, lane, acre or swath with nothing else set. -/
def mkTask (kind : TaskKind) (lane scope : Nat) : Task :=
  { kind := kind, lane := lane, cls := lane, scope := scope, since := 0, waited := 0, stamp := 0, die := 0, retried := none, toHead := false,
    req := 0, unit_ := none }

/-- Offer again the tasks that found every tine of their scope full, the dispatcher's front-end tasks among them (01 R21,
R22). -/
def Mach.offerRetries (m : Mach) : Mach := (m.disp ++ m.retry).foldl (fun m k => m.placeAged k) { m with disp := [], retry := [] }

/-- Take every task of a command off the dispatcher, the retry list, the lanes and the tines. -/
def Mach.dropTasks (stamp : Nat) (m : Mach) : Mach :=
  let keep := fun (k : Task) => k.stamp != stamp
  let strip := fun (t : Tine) =>
    { t with l0 := t.l0.filter keep, l1 := t.l1.filter keep, l2 := t.l2.filter keep, l3 := t.l3.filter keep,
             running := t.running.filter keep }
  { m with disp := m.disp.filter keep, retry := m.retry.filter keep,
           tines := m.tines.foldr (fun e acc => Tbl.put Tine.init e.1 (strip e.2) acc) [] }

/-! ## Range locks (04) -/

def LockMode.conflicts : LockMode → LockMode → Bool
  | .shared, .shared => false
  | .append, .append => false
  | _, _ => true

/-- Two entries of one acre conflict (04 R187). -/
def Lock.conflicts (a b : Lock) : Bool :=
  a.acre == b.acre && a.nsid == b.nsid && decide (a.lo < b.hi) && decide (b.lo < a.hi) && a.mode.conflicts b.mode

/-- No entry with an earlier stamp conflicts (04 R190). -/
def Lock.free (all : List Lock) (l : Lock) : Bool := !all.any (fun k => decide (k.stamp < l.stamp) && k.conflicts l)

def Mach.lockUsed (m : Mach) (a : Nat) : Nat := (m.front.locks.filter (fun l => l.acre == a)).length

/-- Beds of a namespace's mask within its bed set (03 R124, R126). -/
def Mach.nsBeds (m : Mach) (n : Ns) : List Nat :=
  let owner := if n.bedSet = 0xFFFF then 0 else n.bedSet + 1
  (List.range m.nBeds).filter (fun b => (m.bed b).owner == owner && (n.mask == 0 || n.mask.getLsbD b))

/-- Beds where a zone of the namespace may bind: its extension's mask, or the namespace's (03 R145, R147). -/
def Mach.zoneBeds (m : Mach) (n : Ns) (e : Ext) : List Nat :=
  (m.nsBeds n).filter (fun b => e.mask == 0 || e.mask.getLsbD b)

def dedup (l : List Nat) : List Nat := l.foldl (fun acc x => if acc.contains x then acc else acc ++ [x]) []

/-- Acres that take an entry for blocks `lo` to `hi - 1` of a namespace (04 R189); blocks of a headland namespace that lie in no slot yet are taken in that of
its first slot (DESIGN CHOICE: notes/assumptions/128). -/
def Mach.rangeAcres (m : Mach) (nsid lo hi : Nat) : List Nat :=
  let n := m.ns nsid
  if n.headland then
    let mapped := n.map.filter fun e => decide (lo ≤ e.1) && decide (e.1 < hi)
    let slots := mapped.map (fun e => (e.2 - 1) / (15 * (n.prof.blockBlocks / n.prof.bits))) ++ (if mapped.length < hi - lo then [0] else [])
    (dedup ((slots.filterMap fun i => n.slots[i]?).map bedAcre)).filter (fun a => !m.fencedA a)
  else if n.zsze = 0 ∨ hi ≤ lo then []
  else
    let z0 := lo / n.zsze
    let z1 := (hi - 1) / n.zsze
    let bound := m.med.zones.filter (fun e => decide (zkey nsid z0 ≤ e.1) && decide (e.1 ≤ zkey nsid z1) && e.2.bound)
    let ofBound := bound.map (fun e => bedAcre e.2.bed)
    (if bound.length < z1 + 1 - z0 then dedup (ofBound ++ (m.zoneBeds n n.dflt).map bedAcre) else dedup ofBound).filter
      (fun a => !m.fencedA a)

/-- The entries of a command: one per range and acre; a range is its namespace, its blocks `lo` to `hi - 1` and its mode. -/
def Mach.lockEntries (m : Mach) (stamp : Nat) (ranges : List (Nat × Nat × Nat × LockMode)) : List Lock :=
  ranges.flatMap fun r =>
    (m.rangeAcres r.1 r.2.1 r.2.2.1).map fun a =>
      { acre := a, nsid := r.1, lo := r.2.1, hi := r.2.2.1, mode := r.2.2.2, stamp := stamp, granted := false,
        since := m.clk.now }

/-- Recompute ACR_RLK_STS.HIGH (04 R194). -/
def Mach.noteLockHigh (m : Mach) : Mach :=
  (List.range m.nAcres).foldl (fun m a =>
    let u := m.lockUsed a
    if Tbl.get 0 a m.front.lockHigh < u then m.onFront fun f => { f with lockHigh := Tbl.put 0 a u f.lockHigh } else m) m

/-- Grant every entry that nothing earlier conflicts with (04 R190), recording the waits that end (0x0403). -/
def Mach.grantLocks (m : Mach) : Mach :=
  let ended := m.front.locks.filter (fun l => !l.granted && l.free m.front.locks && decide (l.since < m.clk.now))
  let m := m.onFront fun f => { f with locks := f.locks.map fun l => { l with granted := l.granted || l.free f.locks } }
  ended.foldl (fun m l => m.record 0x0403 ((m.clk.now - l.since) / Config.edgesPerUs) (l.acre + 1)) m

/-- Acres with too few free entries for a command's (04 R189). -/
def Mach.shortAcres (m : Mach) (es : List Lock) : List Nat :=
  (List.range m.nAcres).filter fun a =>
    let k := (es.filter (fun l => l.acre == a)).length
    decide (0 < k) && decide (4096 < m.lockUsed a + k)

/-- Take all entries of a command on one edge (04 R189). -/
def Mach.takeLocks (es : List Lock) (m : Mach) : Mach :=
  ((m.onFront fun f => { f with locks := f.locks ++ es }).grantLocks).noteLockHigh

def Mach.holdsLocks (m : Mach) (stamp : Nat) : Bool := m.front.locks.any (fun l => l.stamp == stamp)
def Mach.locksGranted (m : Mach) (stamp : Nat) : Bool :=
  (m.front.locks.filter (fun l => l.stamp == stamp)).all (fun l => l.granted)
/-- Release a command's entries (04 R191). -/
def Mach.releaseLocks (stamp : Nat) (m : Mach) : Mach :=
  m.onFront fun f => { f with locks := f.locks.filter (fun l => l.stamp != stamp) }

/-! ## Dirty staging (07 R380) and descriptors of a command (08 R407) -/

/-- A write that fails or is squashed before its commit point stops counting (07 R380). -/
def Mach.unstage (stamp : Nat) (m : Mach) : Mach :=
  let n := sumBy (fun (e : Nat × Nat) => if e.1 = stamp then e.2 else 0) m.med.staged
  (m.onMed fun x => { x with staged := x.staged.filter (fun e => e.1 != stamp) }).onStg fun g =>
    { g with dirty := g.dirty - n }

/-- Count admitted bytes as dirty (07 R380, R384). -/
def Mach.stage (stamp bytes : Nat) (m : Mach) : Mach :=
  (m.onMed fun x => { x with staged := x.staged ++ [(stamp, bytes)] }).onStg fun g =>
    { g with dirty := g.dirty + bytes, high := Nat.max g.high (g.dirty + bytes) }

/-- Descriptors of a stamp that still have transfers outstanding. -/
def Mach.liveDescs (m : Mach) (stamp : Nat) : Bool :=
  m.drill.any fun g => g.2.queue.any fun d => d.d.stamp == stamp && decide (stamp ≠ 0)

/-- CRC-32C of each whole grain of a stream (08 R402). -/
def grainCrcs (stream : List Byte) : List Nat := (List.range (stream.length / 1024)).map fun k => crc32c (window stream (1024 * k) 1024)

/-- A descriptor leaves its group: its header's status bytes are written (08 R391, R401, R406), the drill that ran it last reports the code (R409), a code
other than OK and SQUASHED is counted (R411), and the event of the code is recorded (R412). -/
def Mach.descClose (g : Nat) (x : Desc) (code index : Nat) (m : Mach) : Mach :=
  let src := if g < 4 then g + 1 else 0
  let m := m.updGroup g fun p =>
    { p with queue := p.queue.filter (fun d => d.id != x.id),
             engines := (match x.last with
               | some e => Tbl.upd Engine.init e (fun y =>
                   { y with st := if p.queue.any (fun d => d.id != x.id && d.engine == some e) then y.st else 0, lastSt := code }) p.engines
               | none => p.engines),
             status := drillStatus (crc32c x.stream) code index x.stream.length,
             list := if x.d.grainGen then grainCrcs x.stream else [] }
  let m := if code = 0 ∨ code = 11 then m
    else (m.updGroup g fun p =>
      { p with errCount := sat 16 (p.errCount + 1), errSt := code, errReq := x.d.requester, errInt := x.d.internal }).hubInt 14
  let m := if 1 ≤ code ∧ code ≤ 7 ∧ x.started = false then m.record 0x0800 code src else m
  let m := if code = 10 then m.record 0x0803 x.d.requester src else m
  if code = 11 ∧ x.started = true then m.record 0x0804 x.stream.length src else m

/-- No transfer of a descriptor is outstanding. -/
def Desc.still (d : Desc) : Bool := d.engine.isNone && decide (d.seals = 0)

/-- Squash the descriptors of a command: those with nothing outstanding end at once, those running issue nothing more and end when
drained (08 R407). -/
def Mach.squashDescs (stamp : Nat) (m : Mach) : Mach :=
  if stamp = 0 then m
  else m.drill.foldl (fun m e =>
    let m := (e.2.queue.filter (fun d => d.d.stamp == stamp && d.still)).foldl (fun m d => m.descClose e.1 d 11 0xFFFF) m
    m.updGroup e.1 fun g => { g with queue := g.queue.map fun d => if d.d.stamp = stamp then { d with squash := true } else d }) m


/-- Bytes of logical blocks that a command moves to or from the controller. -/
def Cmd.bytes (c : Cmd) : Nat := 4096 * c.nlb

/-- A zone admission fails before its commit point: every later admitted command of the zone fails with Zone Invalid
Write, and the admitted pointer returns to the start of the failed command (03 R140 item 7). -/
def Mach.failAdmission (c : Cmd) (m : Mach) : Mach :=
  match c.zone with
  | none => m
  | some z =>
    let n := c.sqe.nsid.toNat
    let later := m.front.inflight.filter fun k =>
      decide (c.stamp < k.stamp) && k.sqe.nsid.toNat == n && k.zone == some z && !k.committed
        && (k.stage == .rowWait || k.stage == .capWait || k.stage == .data)
    let m := later.foldl (fun m k => ((m.unstage k.stamp).squashDescs k.stamp).failWith k.stamp St.zoneInvalidWrite) m
    let start := c.lba - z * (m.ns n).zsze
    m.updZone n z fun x => { x with adm := Nat.max x.wp (Nat.min x.adm start) }

/-- Admitted and not yet committed. -/
def Cmd.admitted (c : Cmd) : Bool :=
  !c.committed && c.zone.isSome && (c.stage == .rowWait || c.stage == .capWait || c.stage == .data)

/-- A failed write leaves its zone admission and its staging (03 R140, 07 R380). -/
def Mach.failWrite (stamp : Nat) (st : Status) (m : Mach) : Mach :=
  match m.cmd? stamp with
  | none => m
  | some c =>
    let m := m.unstage stamp
    let m := if c.admitted then m.failAdmission c else m
    m.failWith stamp st

/-! ## Headland records (12 R550 to R552) -/

/-- Index of a record in the table of records: its kind, and its acre or 7 for a hub record (12 R551). -/
def recKey (kind acre : Nat) : Nat := kind * 8 + acre

/-- A copy of a headland record (12 R550). -/
def recordCopy (key copy gen : Nat) (payload : List Byte) : List Byte :=
  let h := le 4 0x48444C4A ++ le 2 (key / 8) ++ le 1 copy ++ le 1 (if key % 8 = 7 then 0xFF else key % 8) ++ le 8 gen ++ le 4 payload.length ++
    zeros 4 ++ le 4 (crc32c payload)
  h ++ le 4 (crc32c h) ++ payload

/-- The generation that a copy carries. -/
def copyGen (b : List Byte) : Nat := leAt b 8 8
/-- The payload that a copy carries. -/
def copyPayload (b : List Byte) : List Byte := (b.drop 32).take (leAt b 16 4)
/-- The check of a copy is valid: its magic and both its CRCs. -/
def copyOk (b : List Byte) : Bool :=
  leAt b 0 4 == 0x48444C4A && leAt b 28 4 == crc32c (b.take 28) && decide (32 + leAt b 16 4 ≤ b.length) && leAt b 24 4 == crc32c (copyPayload b)

/-- The three copies of a record. -/
def recordCopies (key gen : Nat) (payload : List Byte) : List (List Byte) := (List.range 3).map fun i => recordCopy key i gen payload

/-- A record is written anew: its generation is above that of every copy found, and its three copies agree (12 R552, R554). -/
def Mach.saveRec (key : Nat) (m : Mach) : Mach :=
  m.onBoot fun b =>
    let g := ((Tbl.get [] key b.records).map copyGen).foldl Nat.max 0 + 1
    { b with records := Tbl.put [] key (recordCopies key g (Config.recordPayload key g)) b.records }

/-- A hub record: namespace table 0x10, plot table 0x11, key store 0x12, tally rings 0x13, floors and marks 0x14 (12 R551). -/
def Mach.saveHub (kind : Nat) (m : Mach) : Mach := m.saveRec (recKey kind 7)

/-! ## Members of a ring -/

/-- Position of the member that a namespace identifier names on a manager (10 R466); 0 is the controller itself. -/
def memberOf (nsid : Nat) : Nat := (nsid - 1) / 1024
/-- The controller is the manager of a ring and the identifier names a member. -/
def Mach.remote (m : Mach) (nsid : Nat) : Bool := decide (m.hitch.role = 1) && decide (1024 < nsid) && decide (nsid ≤ 8192)

/-- Port of the path in use to a member: clockwise out of port 0 (10 R454, R473). -/
def Mach.pathPort (m : Mach) (n : Nat) : Nat := if (m.member n).path then 1 else 0

/-- Port by which a worker sends to its manager: port 1 while it runs. -/
def Mach.backPort (m : Mach) : Nat := if (m.hport 1).st = 2 ∨ (m.hport 0).st ≠ 2 then 1 else 0

/-- A worker's side of a forwarded command. -/
def Mach.recv? (m : Mach) (tag : Nat) : Option Recv := m.hitch.recv.find? (fun r => r.tag == tag)

/-- The drill has sealed a data phase of `n` bytes of a command; a worker's data go by way of its manager, and no data need no seal (01 R36). -/
def Mach.sealedAll (m : Mach) (c : Cmd) (n : Nat) : Bool :=
  decide (n = 0) || (m.recv? c.stamp).isSome || (c.phaseDone && decide (n ≤ c.sealed))
def Mach.updRecv (tag : Nat) (f : Recv → Recv) (m : Mach) : Mach :=
  m.onHitch fun h => { h with recv := h.recv.map fun r => if r.tag = tag then f r else r }

/-- Generation that a frame carries: of the worker it goes to, or under which the command was sent (10 R458, R479). -/
def Mach.frameGen (m : Mach) (dest tag : Nat) : Nat :=
  if m.hitch.role = 1 then (m.member dest).gen else match m.recv? tag with | some r => r.gen | none => 0

/-- The plot of the command that a frame concerns; 0 for frames of no command. -/
def Mach.framePlot (m : Mach) (tag : Nat) : Nat :=
  match m.cmd? tag, m.recv? tag with
  | some c, _ => c.plot
  | none, some r => r.plot
  | none, none => 0

/-- A frame (10 R458): the 48-byte header, the payload, and the CRC-32C of both. `flags` are bit 0, last frame of its message, and bit 1, re-sense. -/
def frameBytes (type flags dest source gen tag offset plot : Nat) (crcs : List Nat) (payload : List Byte) : List Byte :=
  let b := le 1 type ++ le 1 flags ++ le 1 dest ++ le 1 source ++ le 4 gen ++ le 8 tag ++ le 4 offset ++ le 2 payload.length ++ le 2 plot ++
    ((List.range 4).flatMap fun i => le 4 (crcs.getD i 0)) ++ zeros 8 ++ payload
  b ++ le 4 (crc32c b)

/-- A frame that the controller makes. -/
def Mach.frame (m : Mach) (type flags dest tag offset : Nat) (crcs : List Nat) (payload : List Byte) : List Byte :=
  frameBytes type flags dest m.hitch.pos (m.frameGen dest tag) tag offset (m.framePlot tag) crcs payload

/-- Send one frame out of a hitch port. -/
def Mach.sendPart (type flags dest port tag offset : Nat) (crcs : List Nat) (payload : List Byte) (m : Mach) : Mach :=
  m.onHitch fun h => { h with sent := h.sent ++ [{ port := port, bytes := m.frame type flags dest tag offset crcs payload }] }

/-- Send a message out of a hitch port, in frames of up to 4,096 bytes of payload. -/
def Mach.sendBody (type dest port tag : Nat) (payload : List Byte) (m : Mach) : Mach :=
  let n := Nat.max 1 ((payload.length + 4095) / 4096)
  m.onHitch fun h => { h with sent := h.sent ++ (List.range n).map fun i =>
    { port := port, bytes := m.frame type (if i + 1 = n then 1 else 0) dest tag 0 [] ((payload.drop (4096 * i)).take 4096) } }

/-- A worker sends a message to its manager. -/
def Mach.sendBack (type tag : Nat) (payload : List Byte) (m : Mach) : Mach := m.sendBody type 0 m.backPort tag payload

/-- The 64 bytes of a submission entry, its data pointers zero (10 R459). -/
def sqeBytes (e : Sqe) : List Byte :=
  le 1 e.opc.toNat ++ zeros 1 ++ le 2 e.cid.toNat ++ le 4 e.nsid.toNat ++ zeros 32 ++
    [e.cdw10, e.cdw11, e.cdw12, e.cdw13, e.cdw14, e.cdw15].flatMap fun w => le 4 w.toNat

/-- The 32-byte entry of a member in DISCOVER and ANNOUNCE (10 R459). -/
def memberBytes (e : MemberEntry) : List Byte := le 16 e.identity ++ le 8 e.version ++ le 2 e.namespaces ++ zeros 6

/-- The identifier that a member has for a namespace that the manager presents (10 R466); others are unchanged. -/
def localNsid (nsid : BitVec 32) : BitVec 32 :=
  if 1024 < nsid.toNat ∧ nsid.toNat ≤ 8192 then BitVec.ofNat 32 ((nsid.toNat - 1) % 1024 + 1) else nsid

/-- Send the CMD frame of a forwarded command (10 R459): its entry with the NSID made local and no data pointers. -/
def Mach.sendCmd (stamp n : Nat) (resense : Bool) (m : Mach) : Mach :=
  match m.cmd? stamp with
  | some c => m.sendPart 0x10 (if resense then 3 else 1) n (m.pathPort n) stamp 0 [] (sqeBytes { c.sqe with nsid := localNsid c.sqe.nsid })
  | none => m

/-- Forward a command to its member: CMD frames go in stamp order, and none while the member is being resynced (10 R474, R481). -/
def Mach.forward (c : Cmd) (n : Nat) (m : Mach) : Mach :=
  let m := m.onHitch fun h =>
    { h with fwd := h.fwd ++ [{ stamp := c.stamp, pos := n, rdBytes := 0 }],
             forwarded := h.forwarded + 1 }
  let m := (m.updMember n fun x => { x with fwd := x.fwd + 1, total := x.total + 1 }).setStage c.stamp .media
  if (m.member n).hold then m else m.sendCmd c.stamp n false

/-- A command that names a member's namespace: Inaccessible, or forwarded (10 R466, R468). -/
def Mach.toMember (c : Cmd) (m : Mach) : Mach :=
  let n := memberOf c.sqe.nsid.toNat
  if (m.member n).st = 1 then m.forward c n else m.failWith c.stamp St.anaInaccessible

/-- Members that are up. -/
def Mach.membersUp (m : Mach) : List Nat := [1, 2, 3, 4, 5, 6, 7].filter fun n => (m.member n).st == 1

/-- A change of the state that members share goes to a member as a CMD frame of no command, tag 0, its structure behind the entry (10 R469; DESIGN CHOICE:
notes/assumptions/140). -/
def Mach.copyTo (n : Nat) (e : Sqe) (m : Mach) : Mach := m.sendBody 0x10 n (m.pathPort n) 0 (sqeBytes e ++ e.data)
/-- ... to every member that is up. -/
def Mach.copyAll (e : Sqe) (m : Mach) : Mach := if m.hitch.role = 1 then m.membersUp.foldl (fun m n => m.copyTo n e) m else m

/-- The manager's side of a command that is forwarded. -/
def Mach.fwd? (m : Mach) (stamp : Nat) : Option Fwd := m.hitch.fwd.find? (fun f => f.stamp == stamp)

/-- Send CANCEL for a forwarded command (10 R477): reason 0 is an Abort, 1 a squash. The member answers. -/
def Mach.cancelFwd (f : Fwd) (reason : Nat) (m : Mach) : Mach := m.sendBody 0x14 f.pos (m.pathPort f.pos) f.stamp (le 1 reason)

/-! ## Squashes (04 R208, 08 R407) -/

/-- Forget the requests, ladders and tasks of a command: it starts no further work, and its die operations already issued
end and are discarded (04 R208). -/
def Mach.dropWork (stamp : Nat) (m : Mach) : Mach :=
  (m.dropTasks stamp).onMed fun x =>
    { x with reqs := x.reqs.filter (fun r => r.stamp != stamp), wants := x.wants.filter (fun r => r.stamp != stamp), ladders := x.ladders.filter (fun l => l.stamp != stamp) }

/-- A squashed Delete I/O Submission Queue, Namespace Delete or Format NVM works on no more: its queue or namespaces stay (04 R200, R208). -/
def Mach.unmark (c : Cmd) (m : Mach) : Mach :=
  if c.sq ≠ 0 then m
  else if c.sqe.opc = 0x00 ∧ c.stage = .media then m.updSq c.plot c.sqe.qid fun x => { x with deleting := false }
  else m.onMed fun x => { x with ns := x.ns.map fun e => (e.1, { e.2 with deleting := if e.2.deleting = c.stamp then 0 else e.2.deleting }) }

/-- Squash one command that has neither finished nor reached its commit point (04 R208, 08 R407). With a status it
completes with it once its transfers have drained; with none it is never completed. A command forwarded to a member is squashed there
(10 R477). -/
def Mach.squash (stamp : Nat) (st : Option Status) (m : Mach) : Mach :=
  match m.cmd? stamp with
  | none => m
  | some c =>
    if c.committed || c.stage == .finished then m
    else match m.fwd? stamp, st with
    | some f, some s => (m.cancelFwd f 1).updCmd stamp fun k => { k with caught := true, status := s }
    | some f, none => (m.cancelFwd f 1).onFront fun x => { x with inflight := x.inflight.filter (fun k => k.stamp != stamp) }
    | none, _ =>
      let m := (m.dropWork stamp).unstage stamp
      let m := if c.admitted then m.failAdmission c else m
      let m := (m.squashDescs stamp).unmark c
      match st with
      | some s =>
        let m := m.updCmd stamp fun k => { k with caught := true, status := s, stage := .media, outData := [], outBlocks := [] }
        if m.liveDescs stamp then m else (m.releaseLocks stamp).failWith stamp s
      | none =>
        let m := if m.liveDescs stamp then m else m.releaseLocks stamp
        m.onFront fun f => { f with inflight := f.inflight.filter (fun k => k.stamp != stamp) }

/-- A descriptor of a squashed command has drained: with none left its locks are released and it is completed with the
squash's status (08 R407, 04 R191). -/
def Mach.drained (stamp : Nat) (m : Mach) : Mach :=
  if stamp = 0 ∨ m.liveDescs stamp = true then m
  else match m.cmd? stamp with
    | none => m.releaseLocks stamp
    | some c => if c.caught && c.stage == .media then (m.releaseLocks stamp).failWith stamp c.status else m

/-- Discard commands without completing them, keeping what is committed (04 R200 steps 2 and 3). -/
def Mach.discardWhere (p : Cmd → Bool) (m : Mach) : Mach :=
  let gone := m.front.inflight.filter p
  let m := gone.foldl (fun m c => m.squash c.stamp none) m
  let m := gone.foldl (fun m c => if m.liveDescs c.stamp then m else m.releaseLocks c.stamp) m
  m.onFront fun f => { f with inflight := f.inflight.filter (fun c => !p c) }

/-! ## Plot errors, fences, fatal status -/

/-- SMART critical warnings are computed; this one marks endurance groups that lost data (01 R59, 03 R155). -/
def Mach.markGroup (g : Nat) (m : Mach) : Mach :=
  m.onMed fun x => { x with fGroups := if x.fGroups.contains g then x.fGroups else x.fGroups ++ [g] }

/-- Endurance group of a namespace (03 R124). -/
def Ns.group (n : Ns) : Nat := if n.bedSet = 0xFFFF then 1 else n.bedSet + 2

/-- A Freeze in progress fails with Plot State Conflict (09 R418). -/
def Mach.failFreeze (p : Nat) (m : Mach) : Mach :=
  if (m.plot p).freezeCmd = 0 then m
  else (m.failWith (m.plot p).freezeCmd St.plotConflict).updPlot p fun x => { x with freezeCmd := 0 }

/-- A confined error puts a plot in Error (09 R431, R432). A plot in another state than Ready or Freezing is not moved. -/
def Mach.plotError (p cause : Nat) (m : Mach) : Mach :=
  let st := (m.plot p).st
  if st = .ready ∨ st = .freezing then
    let m := if st = .freezing then m.failFreeze p else m
    let m := m.discardWhere fun c => c.plot == p
    let m := m.updPlot p fun x => { x with st := .error, cause := cause }
    let m := m.updBar0 p fun b => { b with cfs := true }
    (m.hubInt 5).record 0x0900 cause 0
  else m

/-- Controller fatal status (01 R62, R63): bit of HUB_FATAL_STS. CSTS.CFS is set in plot 0's CSTS, that of the controller's first function
(DESIGN CHOICE: notes/assumptions/112; R63 does not say whose). -/
def Mach.enterFatal (bit : Nat) (m : Mach) : Mach :=
  let bits := m.hub.fatalBits ||| (1#6 <<< bit)
  if m.hub.fatal then m.onHub fun h => { h with fatalBits := bits }
  else
    let m := m.onHub fun h => { h with fatal := true, fatalBits := bits, fatalCount := sat 16 (h.fatalCount + 1) }
    let m := m.onFront fun f => { f with inflight := f.inflight.filter (fun c => c.stage != .finished) }
    let m := m.updBar0 0 fun b => { b with cfs := true }
    (m.hubInt 1).record 0x0151 bits.toNat 0

/-- Tines run: the controller is awake, in an operational state, and its acres are powered. -/
def Mach.tinesRun (m : Mach) : Bool := m.awake && decide (m.power.ps < 3) && !m.heat.gated

/-- Beds of an acre that belong to a group: fences are seen through `fencedA`. -/
def Mach.allFenced (m : Mach) : Bool := (List.range m.nAcres).all (fun a => m.fencedA a)

/-- A die is in service: populated, not failed, its acre up. -/
def Mach.dieUp (m : Mach) (d : Nat) : Bool := (m.die d).populated && !(m.die d).failed && m.acreUp (dieAcre d)

/-! ## Withdrawal of the Tight bound (02 R109 to R111) -/

/-- Withdrawal causes of a bed (02 R109). -/
def Mach.wdOf (c : Cfg) (m : Mach) (b : Nat) : BitVec 8 :=
  let ds := bedDies b
  let bit := fun (i : Nat) (x : Bool) => if x then (1#8 <<< i) else 0
  bit 0 (decide (1 < (m.bed b).pForce)) ||| bit 1 (ds.any (fun d => (m.die d).populated && (m.die d).failed)) |||
  bit 2 (ds.any (fun d => (m.chan (dieChan d)).training)) ||| bit 3 (m.fencedA (bedAcre b)) |||
  bit 4 (!(m.bed b).prof.tight) ||| bit 5 (m.power.ps == 2) ||| bit 6 (c.rdRes == 0) |||
  bit 7 (ds.all (fun d => !(m.die d).populated))

/-- Bring a bed's WD and BOUND up to date; after start-up complete a withdrawal or return is recorded (02 R110). -/
def Mach.updWd (c : Cfg) (b : Nat) (m : Mach) : Mach :=
  let old := (m.bed b).wd
  let new := m.wdOf c b
  let m := m.updBed b fun x => { x with wd := new, bound := decide (x.pForce = 1) && decide (new = 0) }
  if !m.grid.started then m
  else if old = 0 ∧ new ≠ 0 then
    (m.updBed b fun x => { x with withdrawals := x.withdrawals + 1 }).record 0x0211 new.toNat (bedAcre b + 1)
  else if old ≠ 0 ∧ new = 0 then m.record 0x0212 b (bedAcre b + 1)
  else m

/-- All beds of an acre. -/
def Mach.updWdAcre (c : Cfg) (a : Nat) (m : Mach) : Mach :=
  (List.range 32).foldl (fun m i => m.updWd c (32 * a + i)) m
def Mach.updWdAll (c : Cfg) (m : Mach) : Mach := (List.range m.nBeds).foldl (fun m b => m.updWd c b) m

/-! ## The clock -/

/-- One datapath edge passes: the clock counts it, and grid time advances by 0.3125 ns corrected by the trim and the slew
in force (02 R74) while the controller is awake; tasks that found no room are offered again (01 R21). -/
def Mach.edge (m : Mach) : Mach :=
  let m := { m with clk := { m.clk with now := m.clk.now + 1, tineQ := m.clk.tineQ + m.tineRate } }
  if m.awake then (m.onGrid fun g => { g with time := g.time + g.edgeUnits }).offerRetries else m

/-- One datapath edge passes for the whole state. -/
def State.edge (s : State) : State := s.on fun _ m => m.edge

end Sys2Proof.Machine
end

