-- ==== Sys2Proof/Machine/Buffers.lean ====
section
/-! DEFINITION. Buffer pools A to E of the acres (07 R367 to R375): a request is served from the smallest pool that fits, falls
back or waits; a free is checked and goes to the oldest waiter that may take it. -/

namespace Sys2Proof.Machine

/-- Buffer size of a pool (07 R367). -/
def poolSize (k : Nat) : Nat := [512, 4096, 65536, 1048576, 16777216].getD k 0
/-- Internal reserve of a pool (07 R367). -/
def poolReserve (k : Nat) : Nat := [512, 256, 16, 64, 8].getD k 0

/-- Pool sizes for a port of `cap` GiB (07 R338, R340). -/
def poolCount (acre cap k : Nat) : Nat :=
  if k < 3 then [4096, 2048, 128].getD k 0
  else if k = 3 then cap * 128
  else (cap * 1024 - 512 - (if acre < 2 then 128 else 0) - cap * 128) / 16

def mib : Nat := 1048576

def Mach.pool (m : Mach) (a k : Nat) : Pool := Tbl.get Pool.init (a * 8 + k) m.stg.pools
def Mach.updPool (a k : Nat) (f : Pool → Pool) (m : Mach) : Mach :=
  m.onStg fun g => { g with pools := Tbl.upd Pool.init (a * 8 + k) f g.pools }

def Pool.held (p : Pool) : Nat := (p.bufs.filter (fun e => e.2.held)).length
def Pool.free (p : Pool) : Nat := p.count - p.held
/-- Buffers of the pool that an owner holds. -/
def Pool.heldBy (p : Pool) (owner : Nat) : Nat := (p.bufs.filter (fun e => e.2.held && e.2.owner == owner)).length

/-- Port address of byte 0 of a pool D or pool E buffer (07 R338). -/
def poolAddr (acre cap pool index : Nat) : Nat :=
  let dBase := (512 + (if acre < 2 then 128 else 0)) * mib
  if pool = 3 then dBase + index * mib else dBase + cap * 128 * mib + index * 16 * mib

def mkDram (line count : Nat) (cls : DramClass) (write : Bool) (data : BitVec 512) (use : LineUse) (stamp : Nat) : DramReq :=
  { id := 0, line := line, count := count, cls := cls, write := write, known := true, data := data, more := [], use := use, stamp := stamp, since := 0, promoted := false }

/-- Place of a service class in the order of 07 R344. -/
def classOrder : DramClass → Nat
  | .readReturn => 0 | .metadata => 1 | .staging => 2 | .background => 3

/-- The lines of a request: those of one subchannel, every second line of the port. -/
def DramReq.covers (r : DramReq) (line : Nat) : Bool := r.line % 2 == line % 2 && decide (r.line ≤ line) && decide (line < r.line + 2 * r.count)

/-- Append a request to the queue of a port, as of this edge; a write of whole lines discards the merge entries of its lines, whose bytes it overwrites
(06 R328). -/
def Mach.dramQueue (a : Nat) (r : DramReq) (m : Mach) : Mach :=
  let (i, m) := m.freshId
  m.updPort a fun p =>
    { p with reqs := p.reqs ++ [{ r with id := i, since := m.clk.now }],
             merge := if r.write then p.merge.filter (fun e => !r.covers e.line) else p.merge }

/-- A pool D or E buffer is zero-filled by full-line writes in the staging class, on both subchannels (07 R372). -/
def Mach.zeroFill (a k i : Nat) (m : Mach) : Mach :=
  let line := poolAddr a (m.port a).cap k i / 64
  let n := poolSize k / 128
  (m.dramQueue a (mkDram line n .staging true 0 .other 0)).dramQueue a (mkDram (line + 1) n .staging true 0 .other 0)

/-- The pools of an acre as they stand after set-up at a warm reset (07 R374). -/
def Mach.setupPools (a cap : Nat) (m : Mach) : Mach :=
  (List.range 5).foldl (fun m k =>
    m.updPool a k fun _ => { bufs := [], count := poolCount a cap k, low := poolCount a cap k }) m

/-- Owner code of an internal class (07 R368). -/
def internalOwner (cls : Nat) : Nat := 2048 + cls
def isInternal (owner : Nat) : Bool := decide (2048 ≤ owner)

/-- Fallback from SRAM to DRAM (07 R368, R369). -/
def Mach.fallbackOk (m : Mach) (owner : Nat) : Bool :=
  if isInternal owner then decide (owner ≠ internalOwner 3) && decide (owner ≠ internalOwner 4)
  else (m.plot owner).quota.fallback

/-- The owner is at its quota in pool `k` of the acre; internal classes have none (07 R369). -/
def Mach.atQuota (m : Mach) (a k owner : Nat) : Bool :=
  !isInternal owner &&
    (let q := (m.plot owner).quota.pools.getD k 0xFFFFFFFF
     decide (q ≠ 0xFFFFFFFF) && decide (q ≤ (m.pool a k).heldBy owner))

/-- The pool has a buffer that the owner may take (07 R369). -/
def Mach.poolHas (m : Mach) (a k owner : Nat) : Bool :=
  decide (poolReserve k < (m.pool a k).free) || (isInternal owner && decide (0 < (m.pool a k).free))

/-- The walk of 07 R369 from pool `first`: the pool to take from, or the pool to wait on and whether it waits at its quota. -/
def Mach.poolWalk (m : Mach) (a owner first : Nat) : List Nat → Sum Nat (Nat × Bool)
  | [] => .inr (first, false)
  | k :: ks =>
    if m.atQuota a k owner then .inr (k, true)
    else if m.poolHas a k owner then .inl k
    else if k = 4 then .inr (first, false)
    else if k = 2 ∧ m.fallbackOk owner = false then .inr (first, false)
    else m.poolWalk a owner first ks

/-- The smallest pool that fits a size. -/
def poolFor (size : Nat) : Nat := ((List.range 5).find? (fun k => decide (size ≤ poolSize k))).getD 5

/-- Of the listed free buffers that satisfy `p`, the most recently freed, the lower index on a tie. -/
def Pool.recent (x : Pool) (p : Buf → Bool) : Option Nat :=
  ((x.bufs.filter (fun e => !e.2.held && p e.2)).foldl (fun (best : Option (Nat × Nat)) e =>
    match best with
    | none => some (e.1, e.2.freedAt)
    | some b => if b.2 < e.2.freedAt then some (e.1, e.2.freedAt) else some b) none).map (fun b => b.1)

/-- The lowest index that the table does not list: a buffer that nothing has held yet. -/
def Pool.fresh (x : Pool) : Nat :=
  ((List.range x.count).find? (fun i => !x.bufs.any (fun e => e.1 == i))).getD 0

/-- The buffer that a request takes (07 R372). -/
def Pool.pick (x : Pool) (owner : Nat) : Nat :=
  let own := if isInternal owner then none else x.recent (fun b => b.record == owner)
  match own with
  | some i => i
  | none => (x.recent (fun _ => true)).getD x.fresh

/-- Take a buffer of pool `k` for an owner: a plot whose data it did not last hold gets it zero-filled (07 R372). -/
def Mach.takeBuf (a k owner : Nat) (m : Mach) : Nat × Mach :=
  let x := m.pool a k
  let i := x.pick owner
  let b := Tbl.get Buf.init i x.bufs
  let rec_ := if isInternal owner then 4096 else owner
  let m := m.updPool a k fun x =>
    let x := { x with bufs := Tbl.put Buf.init i { b with held := true, owner := owner, record := rec_ } x.bufs }
    { x with low := Nat.min x.low x.free }
  (i, if !isInternal owner && decide (b.record ≠ owner) then (if 3 ≤ k then m.zeroFill a k i else m).record 0x070E k (a + 1) else m)

/-- Serve a request now if the walk of 07 R369 finds a buffer: the pool and the buffer taken. -/
def Mach.serveBuf (a owner first : Nat) (m : Mach) : Sum (Nat × Nat × Mach) (Nat × Bool) :=
  match m.poolWalk a owner first ((List.range 5).drop first) with
  | .inl k =>
    let r := m.takeBuf a k owner
    .inl (k, r.1, if k = first then r.2 else r.2.record 0x070B k (a + 1))
  | .inr w => .inr w

/-- Offer the waiters on a pool, in the order in which they began to wait, what they may take of it (07 R370). -/
def Mach.serveWaits (a k : Nat) (m : Mach) : Mach :=
  (m.stg.waits.filter (fun w => w.acre == a && w.pool == k)).foldl (fun m w =>
    if m.atQuota a k w.owner || !m.poolHas a k w.owner then m
    else
      let r := m.takeBuf a k w.owner
      let m := r.2.onStg fun g => { g with waits := g.waits.filter (fun v => v.id != w.id) }
      m.record 0x070C (m.usSince w.since) (a + 1)) m

/-- The acre that serves a pool request: the one named, or the lowest other that is up while it is fenced (01 R56). -/
def Mach.poolAcre (m : Mach) (a : Nat) : Option Nat :=
  if m.acreUp a then some a else (List.range m.nAcres).find? m.acreUp

/-- A requester asks for a buffer (07 R369). -/
def Mach.bufferRequest (acre owner size : Nat) (m : Mach) : Mach :=
  match m.poolAcre acre with
  | none => m
  | some a =>
    let k := poolFor size
    if size = 0 ∨ 5 ≤ k then m
    else match m.serveBuf a owner k with
      | .inl r => r.2.2
      | .inr w =>
        let (i, m) := m.freshId
        m.onStg fun g => { g with waits := g.waits ++
          [{ id := i, acre := a, pool := w.1, first := k, owner := owner, quota := w.2, since := m.clk.now }] }

/-- Put a held buffer back, keeping the record of whose data it held. -/
def Mach.releaseBuf (a k i : Nat) (m : Mach) : Mach :=
  let n := m.stg.frees + 1
  let m := m.onStg fun g => { g with frees := n }
  m.updPool a k fun x => { x with bufs := Tbl.upd Buf.init i (fun b => { b with held := false, owner := 0, freedAt := n }) x.bufs }

/-- A buffer is freed, or the free is refused and counted (07 R370, R371, R375). -/
def Mach.bufferFree (a k i owner : Nat) (m : Mach) : Mach :=
  let b := Tbl.get Buf.init i (m.pool a k).bufs
  if b.held && b.owner == owner then (m.releaseBuf a k i).serveWaits a k
  else
    ((m.onStg fun g => { g with dfCount := Tbl.upd 0 a (fun n => sat 16 (n + 1)) g.dfCount, dfPool := Tbl.put 0 a k g.dfPool,
                                dfReq := Tbl.put 0 a owner g.dfReq }).hubInt 15).record 0x070D k (a + 1)

/-- Owner of a request: a plot, or an internal class of 07 R368. -/
def requester (internal : Bool) (n : Nat) : Nat := if internal then internalOwner n else n

/-- A requester code names a plot, or one of the seven internal classes. -/
def requesterOk (internal : Bool) (n : Nat) : Bool := if internal then decide (n < 7) else decide (n < 1024)

/-- BUFFER_FREE (07 R370, R371). An acre that is not in the part or fenced takes no request (01 R56). -/
def execBufferFree (acre pool index : Nat) (internal : Bool) (requester_ at_ : Nat) (s : State) :
    Host.Outcome State Fault Refusal :=
  .next (s.on fun _ m =>
    let m := m.advance at_
    if m.acreUp acre && decide (pool < 5) && decide (index < (m.pool acre pool).count) && requesterOk internal requester_ then
      m.bufferFree acre pool index (requester internal requester_)
    else m)

end Sys2Proof.Machine
end

