-- ==== Sys2Proof/Machine/Codes.lean ====
section
/-! DEFINITION. Codes: the scrambler of a sheaf (06 R291), the grain and its BCH code (06 R284 to R286), and the DRAM line
code (06 R317 to R322). -/

namespace Sys2Proof.Machine

/-! ## The scrambler (06 R291) -/

/-- One step of the shift register: the bit put out and the register after it. -/
def scrStep (s : Nat) : Bool × Nat :=
  let f := (s.testBit 15 ^^ s.testBit 13) ^^ (s.testBit 12 ^^ s.testBit 10)
  (s.testBit 15, (s * 2) % 65536 + (if f then 1 else 0))

/-- Eight steps: the scrambling byte, bit 7 first, and the register after it. -/
def scrByte (s : Nat) : Nat × Nat :=
  (List.range 8).foldl (fun (a : Nat × Nat) _ =>
    let r := scrStep a.2
    (2 * a.1 + (if r.1 then 1 else 0), r.2)) (0, s)

/-- Scramble, or descramble, the bytes of a sheaf from a register value on. -/
def scrambleFrom : Nat → List Byte → List Byte
  | _, [] => []
  | s, b :: t => (b ^^^ BitVec.ofNat 8 (scrByte s).1) :: scrambleFrom (scrByte s).2 t

/-- The sheaf of page `n` of its block on its plane. -/
def scramble (n : Nat) (bs : List Byte) : List Byte := scrambleFrom (0xACE1 ^^^ (n % 8192)) bs

/-! ## Polynomials and fields of characteristic 2 -/

/-- Product in GF(2^w) with primitive polynomial `p`. -/
def gfMul (w p : Nat) : Nat → Nat → Nat → Nat
  | 0, _, _ => 0
  | k + 1, a, b =>
    let a2 := a * 2
    let next := if a2 < 2 ^ w then a2 else a2 ^^^ p
    (if b % 2 = 1 then a else 0) ^^^ gfMul w p k next (b / 2)

/-- GF(2^16) of the line code (06 R318). -/
def lmul (a b : Nat) : Nat := gfMul 16 0x1100B 16 a b
/-- GF(2^14) of the BCH code (06 R286). -/
def bmul (a b : Nat) : Nat := gfMul 14 0x4443 14 a b

/-- The n-th power of the primitive element x. -/
def gfPow (mul : Nat → Nat → Nat) : Nat → Nat
  | 0 => 1
  | n + 1 => mul 2 (gfPow mul n)

/-- Product of a polynomial, highest coefficient first, with x - r. -/
def mulRoot (mul : Nat → Nat → Nat) (l : List Nat) (r : Nat) : List Nat :=
  ((l ++ [0]).zip (0 :: l)).map (fun (e : Nat × Nat) => e.1 ^^^ mul r e.2)

/-- The remainder of a polynomial over GF(2) (a number, bit k the coefficient of x^k) of degree below `n` by `g` of degree `d`. -/
def polyMod (g d : Nat) : Nat → Nat → Nat
  | 0, a => a
  | k + 1, a => polyMod g d k (if a.testBit (k + d) then a ^^^ (g <<< k) else a)

/-! ## The BCH code of a grain (06 R284 to R286) -/

/-- Conjugates of the i-th power of the primitive element. -/
def conjugates : Nat → Nat → List Nat
  | 0, _ => []
  | k + 1, r => r :: conjugates k (bmul r r)

/-- The generator polynomial: the minimal polynomials of the odd powers 1 to 15, coefficients highest first. -/
def bchGen : List Nat :=
  ((List.range 8).flatMap (fun i => conjugates 14 (gfPow bmul (2 * i + 1)))).foldl (mulRoot bmul) [1]

/-- A number from bits, highest first. -/
def ofBits (l : List Nat) : Nat := l.foldl (fun n b => 2 * n + b) 0

/-- The 112 check bits of 1,040 information bytes, each byte entered from bit 7 to bit 0. -/
def bchCheck (info : List Byte) : Nat :=
  polyMod (ofBits bchGen) 112 (8 * info.length) ((info.foldl (fun n b => 256 * n + b.toNat) 0) <<< 112)

/-- Big-endian bytes of a value: the order of the check bits. -/
def be : Nat → Nat → List Byte
  | 0, _ => []
  | n + 1, v => be n (v / 256) ++ [BitVec.ofNat 8 v]

/-- A grain of 1,054 bytes (06 R284): `cipher` the 1,024 data bytes as encrypted, `crc` that of the plaintext. -/
def grain (cipher : List Byte) (lba nsid index gen plot crc : Nat) (filler : Bool) : List Byte :=
  let info := window cipher 0 1024 ++ le 4 (if filler then 0xFFFFFFFF else lba) ++ le 2 nsid ++
    le 1 (index + (if filler then 4 else 0)) ++ le 1 gen ++ le 4 crc ++ le 2 plot ++ zeros 2
  info ++ be 14 (bchCheck info)

/-! ## The sheaf code (06 R289, R290) -/

/-- A block of 256 bits from 32 bytes, first bit highest (06 R286, R290), and its bytes. -/
def block256 (bs : List Byte) (i : Nat) : BitVec 256 := BitVec.ofNat 256 ((window bs (32 * i) 32).foldl (fun n b => 256 * n + b.toNat) 0)

/-- A circulant permutation of size 256 times a block: row `i` of the matrix holds its one in column `i + shift` (06 R290; DESIGN CHOICE:
notes/assumptions/125). -/
def circulant (shift : Nat) (x : BitVec 256) : BitVec 256 := x.rotateLeft shift

/-- The base matrix: 49 rows and 576 columns; columns 0 to 526 are the codec definition's, and the last 49 the dual-diagonal parity part, identities on the
diagonal and below it (06 R290; DESIGN CHOICE: notes/assumptions/125). -/
def baseAt (row col : Nat) : Option Nat :=
  if col < 527 then Config.ldpcBase row col
  else if col - 527 = row ∨ col - 527 + 1 = row then some 0 else none

/-- Checks of a row of the base matrix over the blocks of a sheaf: zero where all of them are met. -/
def checkRow (xs : List (BitVec 256)) (row : Nat) : BitVec 256 :=
  (List.range xs.length).foldl (fun acc j => match baseAt row j with
    | some s => acc ^^^ circulant s (xs.getD j 0)
    | none => acc) 0

/-- The parity blocks of 527 information blocks, one row after another: each closes its row's checks over the blocks before it. -/
def parityBlocks (info : List (BitVec 256)) : List (BitVec 256) :=
  (List.range 49).foldl (fun ps row => ps ++ [checkRow (info ++ ps) row]) []

/-- A sheaf of 18,432 bytes: the 16,864 bytes of its 16 grains, and the 1,568 LDPC check bytes (06 R289, R290). -/
def encodeSheaf (info : List Byte) : List Byte :=
  window info 0 16864 ++ (parityBlocks ((List.range 527).map (block256 info))).flatMap fun p => be 32 p.toNat

/-- Checks of a sheaf that are not met, of 12,544 (06 R304). -/
def unmetChecks (bs : List Byte) : Nat :=
  let xs := (List.range 576).map (block256 bs)
  sumBy (fun row => sumBy (fun k => if (checkRow xs row).getLsbD k then 1 else 0) (List.range 256)) (List.range 49)

/-! ## Stripe parity (06 R285, R295, R298) -/

/-- The XOR of the unscrambled sheaves of one page position of a stripe row; a unit never programmed counts as zero (06 R295, R298). -/
def xorSheaves (sheaves : List (List Byte)) : List Byte := sheaves.foldl xorBytes (zeros 18432)

/-- A grain of a parity sheaf: bit 3 of byte 1,030 is set after the XOR, and its check bits follow, so that it stays a grain of the code (06 R285, R295). -/
def parityGrain (x : List Byte) (g : Nat) : List Byte :=
  let info := window x (1054 * g) 1040
  let info := info.take 1030 ++ [info.getD 1030 0 ||| 8] ++ info.drop 1031
  info ++ be 14 (bchCheck info)

/-- The parity sheaf of a page position as it is programmed: scrambled with its own page number (06 R295). -/
def paritySheaf (page : Nat) (sheaves : List (List Byte)) : List Byte :=
  let x := xorSheaves sheaves
  scramble page (encodeSheaf ((List.range 16).flatMap (parityGrain x)))

/-! ## The DRAM line code (06 R317 to R322) -/

/-- Place in the stored line of bit `k` of symbol `i`: data bits are those of the 64 bytes, check bits the 16 bytes after. -/
def symBit (i k : Nat) : Nat :=
  let beat := 4 * (i % 4) + k / 4
  if i < 32 then 32 * beat + 4 * (i / 4) + k % 4 else 512 + 8 * beat + 4 * (i / 4 - 8) + k % 4

/-- Symbol `i` of a stored line. -/
def symbolAt (l : BitVec 640) (i : Nat) : Nat :=
  ofBits ((List.range 16).reverse.map (fun k => if l.getLsbD (symBit i k) then 1 else 0))
def symbols (l : BitVec 640) : List Nat := (List.range 40).map (symbolAt l)

/-- The stored line with an error added to symbol `i`. -/
def addError (l : BitVec 640) (i : Nat) (e : BitVec 16) : BitVec 640 :=
  (List.range 16).foldl (fun l k => if e.getLsbD k then l ^^^ (1#640 <<< symBit i k) else l) l

/-- Generator polynomial of the line code, highest coefficient first, without its leading 1. -/
def lineGen : List Nat := ((List.range 8).foldl (fun g i => mulRoot lmul g (gfPow lmul i)) [1]).drop 1

/-- Check symbols 32 to 39 of 32 data symbols. -/
def checkSymbols (data : List Nat) : List Nat :=
  data.foldl (fun rem d =>
    let fb := d ^^^ rem.headD 0
    ((rem.drop 1 ++ [0]).zip lineGen).map (fun (e : Nat × Nat) => e.1 ^^^ lmul fb e.2)) (List.replicate 8 0)

/-- A line as it is stored: 64 data bytes with their check bytes. -/
def encodeLine (data : BitVec 512) : BitVec 640 :=
  let l : BitVec 640 := data.setWidth 640
  let cs := checkSymbols ((List.range 32).map (symbolAt l))
  ((List.range 8).zip cs).foldl (fun l e => addError l (32 + e.1) (BitVec.ofNat 16 e.2)) l

/-- The poisoned pattern (06 R322). -/
def poisonedLine : BitVec 640 := (BitVec.allOnes 128).setWidth 640 <<< 512

/-- Syndrome k. -/
def syndrome (ss : List Nat) (k : Nat) : Nat :=
  let a := gfPow lmul k
  ss.foldl (fun acc s => lmul acc a ^^^ s) 0

/-- Locators of the four symbols of a group. -/
def locators (g : Nat) : List Nat := (List.range 4).map (fun j => gfPow lmul (39 - (4 * g + j)))

/-- The other four syndromes agree with erasures in group `g`. -/
def groupPasses (syn : List Nat) (g : Nat) : Bool :=
  let loc := (locators g).foldl (mulRoot lmul) [1]
  (List.range 4).all fun k =>
    ((List.range 5).foldl (fun acc i => acc ^^^ lmul (loc.getD (4 - i) 0) (syn.getD (k + i) 0)) 0) == 0

/-- The inverse in GF(2^16): the power 2^16 - 2. -/
def linv (a : Nat) : Nat :=
  ((List.range 15).foldl (fun (s : Nat × Nat) _ => let q := lmul s.2 s.2; (lmul s.1 q, q)) (1, a)).1

/-- Error value of symbol `j` of group `g`, from the first four syndromes. -/
def errorOf (syn : List Nat) (g j : Nat) : Nat :=
  let xs := locators g
  let others := (List.range 4).filter (fun i => i != j) |>.map (fun i => xs.getD i 0)
  let num := others.foldl (mulRoot lmul) [1]
  let top := (List.range 4).foldl (fun acc i => acc ^^^ lmul (num.getD (3 - i) 0) (syn.getD i 0)) 0
  let bot := others.foldl (fun acc x => lmul acc (xs.getD j 0 ^^^ x)) 1
  lmul top (linv bot)

/-- What the port finds when it reads a line (06 R319, R322). -/
inductive LineRead where
  | clean
  | corrected (group : Nat) (line : BitVec 640)
  | uncorrectable
  | poisoned
deriving DecidableEq, Repr

/-- Decode a line as it was read. -/
def decodeLine (l : BitVec 640) : LineRead :=
  if l = poisonedLine then .poisoned
  else
    let ss := symbols l
    let syn := (List.range 8).map (syndrome ss)
    if syn.all (fun s => s == 0) then .clean
    else match (List.range 10).filter (groupPasses syn) with
      | [g] => .corrected g ((List.range 4).foldl (fun l j => addError l (4 * g + j) (BitVec.ofNat 16 (errorOf syn g j))) l)
      | _ => .uncorrectable

/-- The 64 data bytes of a stored line. -/
def lineBytes (l : BitVec 640) : BitVec 512 := l.setWidth 512

end Sys2Proof.Machine
end

