-- ==== Sys2Proof/Machine/Media.lean ====
section
/-! DEFINITION. Media under namespaces: where a block lies (06 R293, R294), free blocks and binding (03 R143 to R148), reservations
(03 R128), die-program units and stripe rows (05 R238 to R242, 06 R295 to R298), retirement, splices and Worn beds (05 R249 to
R253, 03 R151 to R154), and the to-till list (05 R254 to R258). -/

namespace Sys2Proof.Machine

/-! ## Zone states (03 R131) -/

def ZState.isOpen : ZState → Bool
  | .implOpen | .explOpen => true
  | _ => false
def ZState.isActive : ZState → Bool
  | .implOpen | .explOpen | .closed => true
  | _ => false
/-- Code reported by Report Zones. -/
def ZState.code : ZState → Nat
  | .empty => 1 | .implOpen => 2 | .explOpen => 3 | .closed => 4 | .readOnly => 0xD | .full => 0xE | .offline => 0xF

/-! ## Geometry -/

/-- Logical blocks of a die-program unit of the namespace: native for zones, pSLC for headland namespaces (05 R238, 03 R163). -/
def Ns.unitLen (n : Ns) : Nat := n.prof.unitBlocks n.headland
/-- Bits per cell of the namespace's blocks. -/
def Ns.bits (n : Ns) : Nat := if n.headland then 1 else n.prof.bits
/-- ZCAP in logical blocks with `d` dropped columns (03 R122). -/
def Ns.capOf (n : Ns) (d : Nat) : Nat := (n.width - 1 - d) * n.prof.blockBlocks
/-- Logical blocks of one pSLC slot of a headland namespace (03 R163). -/
def Ns.slotBlocks (n : Ns) : Nat := 15 * (n.prof.blockBlocks / n.prof.bits)
/-- The smallest power of two that is at least `n` (03 R122). -/
def pow2AtLeast (n : Nat) : Nat := if n ≤ 1 then 1 else 2 ^ (Nat.log2 (n - 1) + 1)
/-- ZSZE for a stripe width on dies of a profile (03 R122). -/
def zszeOf (p : Profile) (width : Nat) : Nat := pow2AtLeast ((width - 1) * p.blockBlocks)

def Zone.a (z : Zone) : Nat := z.cols.length
/-- Active column of data column `k` of row `r` (06 R293); `z` is the zone's number in its namespace. -/
def dataCol (a z r k : Nat) : Nat := if k < (r + z) % a then k else k + 1
/-- Parity column of row `r`. -/
def parityCol (a z r : Nat) : Nat := (r + z) % a
/-- Active column that unit `k` of row `r` lies on; `a - 1` stands for the parity unit. -/
def unitCol (a z r k : Nat) : Nat := if k + 1 = a then parityCol a z r else dataCol a z r k

/-- Row, data column and block within the unit of offset `o` (06 R294). -/
def rowOf (a u o : Nat) : Nat := o / ((a - 1) * u)
def dcolOf (a u o : Nat) : Nat := (o / u) % (a - 1)

/-- Zone (or headland slot) and offset in it where a logical block lies; none for an unmapped headland block. -/
def Mach.locate (m : Mach) (nsid lba : Nat) : Option (Nat × Nat) :=
  let n := m.ns nsid
  if n.headland then
    match Tbl.get 0 lba n.map with
    | 0 => none
    | p + 1 => some (p / n.slotBlocks, p % n.slotBlocks)
  else if n.zsze = 0 then none else some (lba / n.zsze, lba % n.zsze)

/-- Block of a column that holds unit `r`, and the unit's number in it (05 R249). -/
def Col.blockOf (c : Col) (r : Nat) : Nat × Nat :=
  match c.blocks.find? (fun b => decide (b.2 ≤ r)) with
  | some b => (b.1, r - b.2)
  | none => (0, r)

/-- The die of a column of a zone. -/
def Zone.dieOf (z : Zone) (ci : Nat) : Nat := bedDie z.bed (match z.cols[ci]? with | some c => c.ch | none => 0)
def Zone.colAt (z : Zone) (ci : Nat) : Col := (z.cols[ci]?).getD { ch := 0, blocks := [], carried := false, erased := true, next := 0 }
def Zone.updCol (z : Zone) (ci : Nat) (f : Col → Col) : Zone := { z with cols := z.cols.modify ci f }

/-- Drift group key of a unit (05 R272). -/
def driftKey (die block unit_ : Nat) : Nat := (die * 8192 + block) * 8 + unit_ / 64

/-! ## Media tasks and slot requests -/

/-- Weighted plots of a command's own operation (09 R437). -/
def onePlot (p : Nat) : List (Nat × Nat) := [(p, 1)]

/-- A producer makes a media task that builds a die operation; its request is posted when the task ends (01 R16, 02 R93). -/
def Mach.wantAny (r : SlotReq) (m : Mach) : Mach :=
  let (i, m) := m.freshId
  let m := m.onMed fun x => { x with wants := x.wants ++ [{ r with id := i }] }
  m.place { mkTask .media r.lane (dieSwath r.die) with stamp := r.stamp, die := r.die, req := i }

/-- Ask for an operation of a die; one that is failed or unpopulated takes none (01 R52). -/
def Mach.want (r : SlotReq) (m : Mach) : Mach :=
  if (m.die r.die).failed || !(m.die r.die).populated then m else m.wantAny r

/-- Post a slot request to its swath (02 R93). -/
def Mach.post (r : SlotReq) (m : Mach) : Mach :=
  m.onMed fun x => { x with reqs := x.reqs ++ [{ r with posted := m.clk.now, furrow := m.grid.ticks }] }

/-- The media task of an operation hands it over as a slot request. -/
def Mach.postWant (id : Nat) (m : Mach) : Mach :=
  match m.med.wants.find? (fun r => r.id == id) with
  | none => m
  | some r => (m.onMed fun x => { x with wants := x.wants.filter (fun r => r.id != id) }).post r

/-- A slot request with nothing set but what names it. -/
def mkReq (die : Nat) (op : DieOp) (purp : Purpose) (block lane bytes : Nat) : SlotReq :=
  { id := 0, die := die, op := op, purp := purp, block := block, lane := lane, slc := false, posted := 0, furrow := 0,
    kib := bytes, pair := 1, left := 0, plots := [], stamp := 0, ewait := 0 }

/-! ## Free blocks and the to-till list -/

/-- Blocks of a die that are free, erased or on the to-till list (03 R144). The eight lowest blocks are the headland's. -/
def Die.freeBlocks (d : Die) : List Nat :=
  (List.range d.good).filter fun b => decide (Config.headlandBlocks ≤ b) && !d.used.contains b

/-- Insert a block into a list ranked by P/E count and then block index. -/
def rankInsert (x : Nat × Nat) : List (Nat × Nat) → List (Nat × Nat)
  | [] => [x]
  | y :: t => if x.1 < y.1 ∨ (x.1 = y.1 ∧ x.2 < y.2) then x :: y :: t else y :: rankInsert x t

/-- The free block at a rank, the least worn first and the lower index on a tie (03 R144): unworn blocks come first. -/
def Die.blockAt (d : Die) (rank : Nat) : Option Nat :=
  let free := d.freeBlocks
  let unworn := free.filter (fun b => Tbl.get 0 b d.pe == 0)
  if rank < unworn.length then unworn[rank]?
  else
    let worn := (free.filter (fun b => Tbl.get 0 b d.pe != 0)).foldl (fun l b => rankInsert (Tbl.get 0 b d.pe, b) l) []
    (worn[rank - unworn.length]?).map (fun e => e.2)

/-- The block that a lifetime class takes: rank ⌊c × (F - 1) / 7⌋ (03 R144). -/
def Die.pickBlock (d : Die) (cls : Nat) : Option Nat := d.blockAt (cls * (d.freeBlocks.length - 1) / 7)

/-- A block is on the to-till list. -/
def Mach.onTill (m : Mach) (die block : Nat) : Bool := m.med.till.any (fun t => t.die == die && t.block == block)

/-- The waiting media tasks of some operations move to lane 2 with their ages (05 R257); none needs a free entry. -/
def Mach.laneTwo (ids : List Nat) (m : Mach) : Mach :=
  let hit := fun (k : Task) => k.kind == .media && ids.contains k.req && k.lane == 3
  let up := fun (k : Task) => if hit k then { k with lane := 2, cls := 2 } else k
  let tine := fun (t : Tine) => { t with l2 := t.l2 ++ (t.l3.filter hit).map up, l3 := t.l3.filter (fun k => !hit k), running := t.running.map up }
  let m := { m with retry := m.retry.map up, tines := m.tines.map fun (e : Nat × Tine) => (e.1, tine e.2) }
  m.onImg fun i => { i with hold := i.hold.map up }

/-- Take a free block of a die for a column; the erase task of a block on the to-till list moves to lane 2 (05 R257). The
answer says whether the block is erased already. -/
def Mach.takeBlock (die cls : Nat) (m : Mach) : Option (Nat × Bool × Mach) :=
  match (m.die die).pickBlock cls with
  | none => none
  | some b =>
    let tilled := m.onTill die b
    let m := m.updDie die fun d => { d with used := b :: d.used }
    let lane2 := fun (r : SlotReq) => if r.die = die ∧ r.purp = .till b then { r with lane := 2 } else r
    let ids := (m.med.wants.filter (fun r => r.die == die && r.purp == .till b)).map (fun r => r.id)
    let m := (m.onMed fun x =>
      { x with till := x.till.map (fun t => if t.die = die ∧ t.block = b then { t with lane := 2 } else t),
               reqs := x.reqs.map lane2, wants := x.wants.map lane2 }).laneTwo ids
    some (b, !tilled, m)

/-- Hand a block to the to-till list; it is free again, and its erase is a lane-3 media task attributed to `plot`
(05 R254, 09 R437: 1024 stands for overhead), in pSLC mode where the block holds pSLC data (05 R237). -/
def Mach.tillBlock (die block plot : Nat) (slc : Bool) (m : Mach) : Mach :=
  let m := m.updDie die fun d => { d with used := d.used.filter (fun b => b != block) }
  if m.onTill die block then m
  else
    let m := m.onMed fun x =>
      { x with till := x.till ++ [{ die := die, block := block, inProgress := false, plot := plot, lane := 3, slc := slc }] }
    m.want { (mkReq die .erase (.till block) block 3 0) with slc := slc, plots := if plot < 1024 then onePlot plot else [] }

/-- The erase of a to-till entry is asked for once more, in full (05 R255; 01 R43). -/
def Mach.eraseAgain (die block : Nat) (m : Mach) : Mach :=
  match m.med.till.find? (fun t => t.die == die && t.block == block) with
  | none => m
  | some t =>
    (m.onMed fun x => { x with till := x.till.map fun t => if t.die = die ∧ t.block = block then { t with inProgress := false } else t }).want
      { (mkReq die .erase (.till block) block t.lane 0) with slc := t.slc, plots := if t.plot < 1024 then onePlot t.plot else [] }

/-- A block returns to its die's free blocks as erased (03 R141). -/
def Mach.returnBlock (die block : Nat) (m : Mach) : Mach :=
  m.updDie die fun d => { d with used := d.used.filter (fun b => b != block) }

/-! ## Half slots and reservations -/

/-- Half slots of a bed that are bound, retired or held by headland-namespace slots. -/
def Bed.taken (b : Bed) : Nat := b.bound0 + b.bound1 + b.ret0 + b.ret1 + 2 * b.hslots
def Bed.freeHalf (b : Bed) (h : Nat) : Nat :=
  b.prof.slots - (if h = 0 then b.bound0 + b.ret0 else b.bound1 + b.ret1) - b.hslots
/-- Free 16-wide slots. -/
def Bed.freeSlots (b : Bed) : Nat := Nat.min (b.freeHalf 0) (b.freeHalf 1)

/-- Entries of the zone table that belong to a namespace: zone number and zone. -/
def Mach.zonesOf (m : Mach) (nsid : Nat) : List (Nat × Zone) :=
  (m.med.zones.filter (fun e => e.1 / 2 ^ 20 == nsid)).map (fun e => (e.1 % 2 ^ 20, e.2))

/-- Zones of a zoned namespace that are not bound (03 R128). -/
def Mach.unboundZones (m : Mach) (nsid : Nat) : Nat :=
  (m.ns nsid).zones - ((m.zonesOf nsid).filter (fun e => e.2.bound)).length

/-- Demands of equal width and beds taken together. -/
def mergeDemands (ds : List (Nat × Nat × List Nat)) : List (Nat × Nat × List Nat) :=
  ds.foldl (fun acc d =>
    if acc.any (fun e => e.1 == d.1 && e.2.2 == d.2.2) then
      acc.map fun e => if e.1 == d.1 && e.2.2 == d.2.2 then (e.1, e.2.1 + d.2.1, e.2.2) else e
    else acc ++ [d]) []

/-- Beds that lie in the same masks: which of the demands they serve, their half slots, and the 16-wide slots these make. -/
structure BedClass where
  serves : List Bool
  half : Nat
  full : Nat
  deriving DecidableEq, Repr

/-- The classes of the beds that some demands name. -/
def bedClasses (caps : Nat → Nat) (ds : List (Nat × Nat × List Nat)) : List BedClass :=
  (dedup (ds.flatMap fun d => d.2.2)).foldl (fun acc b =>
    let sig := ds.map fun d => d.2.2.contains b
    if acc.any (fun c => c.serves == sig) then
      acc.map fun c => if c.serves == sig then { c with half := c.half + caps b, full := c.full + caps b / 2 } else c
    else acc ++ [{ serves := sig, half := caps b, full := caps b / 2 }]) []

/-- A class serves one of some demands, given as index and count. -/
def servesAny (t : List (Nat × Nat)) (sig : List Bool) : Bool := t.any fun e => sig.getD e.1 false

/-- What some demands need beyond what the classes give them. -/
def shortfall (t : List (Nat × Nat)) (supply : List (List Bool × Nat)) : Nat :=
  sumBy (fun e => e.2) t - sumBy (fun e => if servesAny t e.1 then e.2 else 0) supply

/-- Hall's condition: every subset of the demands fits in the classes that serve it. -/
def hallFits (need : List (Nat × Nat)) (supply : List (List Bool × Nat)) : Bool :=
  need.sublists.all fun t => decide (shortfall t supply = 0)

/-- Some division of the half slots of each class in turn, `k` full slots to 16-wide zones and the rest to 8-wide ones, fits
both. A class that both widths ask for tries the counts from the least that leaves the 16-wide zones a place; the last class needs
no more than the least. -/
def dividePlaces (d16 d8 : List (Nat × Nat)) : List BedClass → List (List Bool × Nat) → List (List Bool × Nat) → Bool
  | [], x, y => hallFits d16 x && hallFits d8 y
  | c :: cs, x, y =>
    let later := cs.map fun e => (e.serves, e.full)
    let least := (d16.sublists.filter (fun t => servesAny t c.serves)).foldl (fun k t => Nat.max k (shortfall t (later ++ x))) 0
    let least := Nat.min c.full (if servesAny d8 c.serves then least else c.full)
    let tries := if cs.isEmpty || !servesAny d16 c.serves then 1 else c.full + 1 - least
    (List.range tries).any fun i => dividePlaces d16 d8 cs ((c.serves, least + i) :: x) ((c.serves, c.half - 2 * (least + i)) :: y)

/-- The reservations of a list of namespaces (width, zones, beds) can be placed on the half slots that beds have left, a 16-wide
zone taking two half slots of one bed (03 R128; DEDUCED: notes/assumptions/20). Beds that only one width asks for come first. -/
def placeableOf (caps : Nat → Nat) (demands : List (Nat × Nat × List Nat)) : Bool :=
  let ds := mergeDemands demands
  let wide := fun w => ((List.range ds.length).zip ds).filterMap fun e => if e.2.1 == w then some (e.1, e.2.2.1) else none
  let both := fun (c : BedClass) => servesAny (wide 16) c.serves && servesAny (wide 8) c.serves
  let cs := bedClasses caps ds
  dividePlaces (wide 16) (wide 8) (cs.filter (fun c => !both c) ++ cs.filter both) [] []

/-- Beds of a namespace's mask that carry its die profile: those that its zones can take (03 R122). -/
def Mach.fitBeds (m : Mach) (n : Ns) : List Nat := (m.nsBeds n).filter fun b => decide ((m.bed b).prof = n.prof)

/-- What every zoned namespace still needs: width, zones not bound, beds of its mask. -/
def Mach.demands (m : Mach) : List (Nat × Nat × List Nat) :=
  (m.med.ns.filter (fun e => e.2.exists_ && !e.2.headland)).map fun e => (e.2.width, m.unboundZones e.1, m.fitBeds e.2)

/-- Half slots left on a bed. -/
def Mach.halfLeft (m : Mach) (b : Nat) : Nat := 2 * (m.bed b).prof.slots - (m.bed b).taken

/-- The reservations of every namespace can be placed. -/
def Mach.placeable (m : Mach) : Bool := placeableOf m.halfLeft m.demands

/-- Bind or unbind the half slots of a zone of width `w`. -/
def Bed.addBound (b : Bed) (w half : Nat) : Bed :=
  if w = 16 then { b with bound0 := b.bound0 + 1, bound1 := b.bound1 + 1 }
  else if half = 0 then { b with bound0 := b.bound0 + 1 } else { b with bound1 := b.bound1 + 1 }
def Bed.subBound (b : Bed) (w half : Nat) : Bed :=
  if w = 16 then { b with bound0 := b.bound0 - 1, bound1 := b.bound1 - 1 }
  else if half = 0 then { b with bound0 := b.bound0 - 1 } else { b with bound1 := b.bound1 - 1 }
def Bed.addRetired (b : Bed) (w half : Nat) : Bed :=
  if w = 16 then { b with ret0 := b.ret0 + 1, ret1 := b.ret1 + 1 }
  else if half = 0 then { b with ret0 := b.ret0 + 1 } else { b with ret1 := b.ret1 + 1 }

/-- Local channels of a zone of width `w` in half `half`. -/
def stripeChans (w half : Nat) : List Nat := if w = 16 then List.range 16 else (List.range 8).map (fun i => 8 * half + i)

/-- A die is out for binding: failed or unpopulated (03 R148). -/
def Mach.dieOut (m : Mach) (d : Nat) : Bool := (m.die d).failed || !(m.die d).populated

/-! ## Bed states (03 R169) -/

def Mach.bedState (m : Mach) (b : Nat) : Nat :=
  let ds := bedDies b
  if ds.all (fun d => !(m.die d).populated) then 5
  else if m.fencedA (bedAcre b) then 4
  else if (m.bed b).worn then 3
  else if ds.any (fun d => (m.die d).populated && (m.die d).failed) then 2
  else if ds.any (fun d => (m.die d).populated && decide ((m.die d).spares ≤ 16)) then 1
  else 0

/-- Look at a bed's state: a rise sets HUB_INT_STS.BED (15 R638), and the bed becoming Low spare is recorded (03 R170). -/
def Mach.noteBed (b : Nat) (m : Mach) : Mach :=
  let s := m.bedState b
  let low := (bedDies b).any (fun d => (m.die d).populated && decide ((m.die d).spares ≤ 16))
  let m := if (m.bed b).noted < s then m.hubInt 3 else m
  let m := if low && !(m.bed b).lowSpare then m.record 0x0301 b (bedAcre b + 1) else m
  m.updBed b fun x => { x with noted := s, lowSpare := low }

/-! ## Binding (03 R143 to R148) -/

/-- The bed has a free slot, or half slot, for a zone of the namespace: it is populated with dies of the namespace's profile, not Worn, not fenced, and the
binding does not leave reservations unplaceable that can be placed before it (03 R128, DEDUCED: notes/assumptions/20). -/
def Mach.bedFree (m : Mach) (nsid w b half : Nat) : Bool :=
  let x := m.bed b
  let room := if w = 16 then decide (0 < x.freeSlots) else decide (0 < x.freeHalf half)
  room && !x.worn && decide (x.prof = (m.ns nsid).prof) && m.acreUp (bedAcre b) && !(bedDies b).all (fun d => !(m.die d).populated) &&
    (!m.placeable ||
      placeableOf (fun i => if i = b then 2 * x.prof.slots - (x.addBound w half).taken else m.halfLeft i)
        (m.med.ns.filter (fun e => e.2.exists_ && !e.2.headland) |>.map fun e =>
          (e.2.width, m.unboundZones e.1 - (if e.1 = nsid then 1 else 0), m.fitBeds e.2)))

/-- The half with more free half slots, half 0 on a tie; 16-wide zones use none (03 R147). -/
def Mach.pickHalf (m : Mach) (w b : Nat) : Nat :=
  if w = 16 then 0 else if (m.bed b).freeHalf 0 < (m.bed b).freeHalf 1 then 1 else 0

/-- Active zones of a namespace on a bed that satisfy `p`. -/
def Mach.activeOn (m : Mach) (nsid b : Nat) (p : Zone → Bool) : Nat :=
  ((m.zonesOf nsid).filter (fun e => e.2.st.isActive && e.2.bound && e.2.bed == b && p e.2)).length

/-- Of a list, the element with the smallest key, the earlier on a tie. -/
def argMin (key : Nat → Nat) : List Nat → Option Nat
  | [] => none
  | x :: t => match argMin key t with
    | none => some x
    | some y => if key y < key x then some y else some x

/-- The bed that binding chooses among candidates in ascending order (03 R147). -/
def Mach.chooseBed (m : Mach) (nsid w : Nat) (e : Ext) (cand : List Nat) : Option Nat :=
  let tightBeds := cand.filter (fun b => (m.bed b).bound)
  let cand := if e.tight && !tightBeds.isEmpty then tightBeds else cand
  let act := fun b => m.activeOn nsid b (fun _ => true)
  let frees := fun b => if w = 16 then (m.bed b).freeSlots else (m.bed b).freeHalf 0 + (m.bed b).freeHalf 1
  if e.spread = 0 then argMin (fun b => (8192 - m.activeOn nsid b (fun z => z.ext.life == e.life)) * 16384 + act b) cand
  else if e.spread = 1 then argMin (fun b => act b * 16384 + (16383 - frees b)) cand
  else cand.head?

/-- Columns that binding would drop on a bed (03 R148). -/
def Mach.dropsOn (m : Mach) (w half b : Nat) : List Nat :=
  (stripeChans w half).filter fun ch => m.dieOut (bedDie b ch) || decide ((m.die (bedDie b ch)).spares ≤ 16)

/-- Retire a slot or half slot: every working die of it gains one spare (03 R148). -/
def Mach.retireSlot (w half b : Nat) (m : Mach) : Mach :=
  let m := m.updBed b fun x => x.addRetired w half
  let m := (stripeChans w half).foldl (fun m ch =>
    let d := bedDie b ch
    if m.dieOut d then m else m.updDie d fun x => { x with spares := x.spares + 1 }) m
  (m.record 0x0304 b (bedAcre b + 1)).noteBed b

/-- Work out a binding: the bed, the half and the dropped columns. A slot that is retired has binding try `same` bed again; without a free slot
there it chooses among the other beds (03 R148). `fuel` bounds the slots retired and the beds left out. -/
def Mach.workBind (nsid w : Nat) (e : Ext) : Nat → Option Nat → List Nat → Mach → Option (Nat × Nat × List Nat) × Mach
  | 0, _, _, m => (none, m)
  | fuel + 1, same, beds, m =>
    let cand := beds.filter (fun b => m.bedFree nsid w b (m.pickHalf w b))
    match (if same.isSome then same else m.chooseBed nsid w e cand) with
    | none => (none, m)
    | some b =>
      let half := m.pickHalf w b
      let drops := m.dropsOn w half b
      if drops.length ≤ (if w = 16 then 4 else 2) then (some (b, half, drops), m)
      else
        let m := m.retireSlot w half b
        if m.bedFree nsid w b (m.pickHalf w b) then Mach.workBind nsid w e fuel (some b) beds m
        else Mach.workBind nsid w e fuel none (beds.filter (fun x => x != b)) m

/-- Work out the binding of a zone of a namespace with the extension that applies to it. -/
def Mach.bindFor (nsid : Nat) (e : Ext) (m : Mach) : Option (Nat × Nat × List Nat) × Mach :=
  let n := m.ns nsid
  Mach.workBind nsid n.width e 1048576 none (m.zoneBeds n e) m

/-- ZCAP that binding would give now; 0 when no bed can bind the zone (03 R143). -/
def Mach.bindCap (m : Mach) (nsid : Nat) (e : Ext) : Nat :=
  match (m.bindFor nsid e).1 with
  | some b => (m.ns nsid).capOf b.2.2.length
  | none => 0

/-- Make a binding: one block on each die of the stripe that is not dropped (03 R143, R144). -/
def Mach.makeBind (nsid zi : Nat) (e : Ext) (b : Nat × Nat × List Nat) (m : Mach) : Mach :=
  let n := m.ns nsid
  let chans := (stripeChans n.width b.2.1).filter (fun ch => !b.2.2.contains ch)
  let r := chans.foldl (fun (acc : List Col × Nat × Mach) ch =>
    let d := bedDie b.1 ch
    match acc.2.2.takeBlock d e.life with
    | none => acc
    | some (blk, erased, m) =>
      (acc.1 ++ [{ ch := ch, blocks := [(blk, 0)], carried := false, erased := erased, next := 0 }],
       acc.2.1 + Tbl.get 0 blk (m.die d).pe, m)) ([], 0, m)
  let m := r.2.2.updBed b.1 fun x => x.addBound n.width b.2.1
  let cap := n.capOf b.2.2.length
  let old := (m.zone nsid zi).lastZcap
  let m := m.updZone nsid zi fun z =>
    { z with bound := true, bed := b.1, half := b.2.1, cols := r.1, dropped := b.2.2.length, zcap := cap, wp := 0, adm := 0,
             ext := e, retent := 0, maxCorr := 0, offTime := false, offBefore := false, around := false, carriedF := false,
             aging := 0, meanPe := if r.1.length = 0 then 0 else r.2.1 / r.1.length, firstAt := 0, rows := 0,
             zfc := false }
  let m := if b.2.2.isEmpty then m else m.record 0x0303 b.2.2.length (bedAcre b.1 + 1)
  if old ≠ 0 ∧ old ≠ cap + 1 then m.zoneNotice nsid zi else m

/-! ## Unbinding -/

/-- Units of a zone in the seed bins. -/
def Mach.unitsOf (m : Mach) (nsid zi : Nat) : List PUnit := m.med.units.filter (fun u => u.nsid == nsid && u.zone == zi)
/-- Units of one stripe row in the seed bins. -/
def Mach.rowUnits (m : Mach) (nsid zi row : Nat) : List PUnit := (m.unitsOf nsid zi).filter (fun u => u.row == row)

/-- Release the unit slots of a stripe row, its accumulator, and the segments that hold nothing more (07 R376, R377). -/
def Mach.releaseRow (nsid zi row : Nat) (m : Mach) : Mach :=
  let hit := fun (r : RowRes) => r.nsid == nsid && r.zone == zi && r.row == row
  (m.stg.rows.filter hit).foldl (fun m r =>
    let m := m.onStg fun g => { g with rows := g.rows.filter (fun x => !hit x) }
    let m := match r.acc with
      | some i => (m.releaseBuf r.acre 3 i).serveWaits r.acre 3
      | none => m
    let m := m.onStg fun g => { g with segs := g.segs.map fun s =>
                 if s.acre = r.acre then { s with taken := s.taken.filter (fun i => !r.slots.contains (s.buf, i)) } else s }
    (m.stg.segs.filter (fun s => s.taken.isEmpty)).foldl (fun m s =>
      ((m.onStg fun g => { g with segs := g.segs.filter (fun x => !(x.acre == s.acre && x.buf == s.buf)) }).releaseBuf
        s.acre 4 s.buf).serveWaits s.acre 4) m) m

/-- What becomes of a die's program of a zone that is unbound: granted and not issued, it is taken back with its token; issued, it goes on to
its end for no zone, its bytes dirty until then (03 R129, R141; 07 R380). -/
def Mach.orphan (nsid zi plot die : Nat) (d : Die) (m : Mach) : Mach :=
  let turn := fun (r : SlotReq) => match r.purp with
    | .unit a b row col =>
      if a = nsid ∧ b = zi then
        { r with purp := .orphan (sumBy (fun (u : PUnit) => if u.row = row ∧ u.col = col then u.bytes else 0) (m.unitsOf nsid zi)) plot }
      else r
    | _ => r
  let mine := fun (o : Option SlotReq) => decide (o.map turn ≠ o)
  if mine d.op && d.granted then
    (m.updDie die fun d => { d with op := none, granted := false }).updBed (dieBed die) fun b => { b with held := b.held.filter (fun x => x != die) }
  else if mine d.op || mine d.timedOut then m.updDie die fun d => { d with op := d.op.map turn, timedOut := d.timedOut.map turn }
  else m

/-- A program of no zone is on its way on a block (03 R141). -/
def Die.orphanOn (d : Die) (block : Nat) : Bool :=
  (d.op.toList ++ d.timedOut.toList).any fun r => r.block == block && (match r.purp with | .orphan _ _ => true | _ => false)

/-- Discard the staged units of a zone: those not issued to a die stop counting as dirty (03 R141, 07 R380). -/
def Mach.dropUnits (nsid zi plot : Nat) (m : Mach) : Mach :=
  let us := m.unitsOf nsid zi
  let m := m.med.dies.foldl (fun m e => m.orphan nsid zi plot e.1 e.2) m
  let rows := dedup ((m.stg.rows.filter (fun r => r.nsid == nsid && r.zone == zi)).map (fun r => r.row))
  let bytes := sumBy (fun (u : PUnit) => if u.issued then 0 else u.bytes) us
  let gone := fun (r : SlotReq) => match r.purp with
    | .unit a b _ _ => a == nsid && b == zi
    | _ => false
  let m := m.onMed fun x =>
    { x with units := x.units.filter (fun u => !(u.nsid == nsid && u.zone == zi)), reqs := x.reqs.filter (fun r => !gone r),
             wants := x.wants.filter (fun r => !gone r) }
  let m := m.onStg fun g => { g with dirty := g.dirty - bytes }
  let m := m.onBoot fun b => { b with dumpUnits := b.dumpUnits.filter (fun u => !(u.nsid == nsid && u.zone == zi)) }
  rows.foldl (fun m row => m.releaseRow nsid zi row) m

/-- Remove the blocks of a zone from the store from block `lo` on. -/
def Mach.clearStore (nsid lo hi : Nat) (m : Mach) : Mach :=
  m.onMed fun x => { x with store := x.store.filter fun e => !(decide (bkey nsid lo ≤ e.1) && decide (e.1 < bkey nsid hi)) }

/-- Hand the blocks of a zone's columns over (03 R141): a block never programmed since its erase is free again, every other
goes to the to-till list for `plot`, an old block of a spliced column as overhead; a retired block stays retired. A block
whose own erase has not ended stays on the list, and one whose program still runs is listed when that ends. -/
def Mach.freeCols (nsid zi plot : Nat) (m : Mach) : Mach :=
  let z := m.zone nsid zi
  z.cols.foldl (fun m c =>
    let d := bedDie z.bed c.ch
    match c.blocks with
    | [] => m
    | (b, first) :: old =>
      let m := if (m.die d).bad.contains b then m
        else if (m.die d).orphanOn b then m
        else if c.next ≤ first then m.returnBlock d b else m.tillBlock d b plot (m.ns nsid).headland
      old.foldl (fun m x => if (m.die d).bad.contains x.1 then m else m.tillBlock d x.1 1024 (m.ns nsid).headland) m) m

/-- The blocks of a slot of a headland namespace go to the to-till list for `plot`, and the slot takes new blocks of its bed. -/
def Mach.renewSlot (nsid i plot : Nat) (m : Mach) : Mach :=
  let z := m.zone nsid i
  let m := m.freeCols nsid i plot
  let r := z.cols.foldl (fun (acc : List Col × Mach) c =>
    match acc.2.takeBlock (bedDie z.bed c.ch) 0 with
    | none => (acc.1 ++ [c], acc.2)
    | some (b, erased, m) =>
      (acc.1 ++ [{ ch := c.ch, blocks := [(b, 0)], carried := c.carried, erased := erased, next := 0 }], m)) ([], m)
  r.2.updZone nsid i fun z => { z with cols := r.1, wp := 0, dend := 0 }

/-- On a Worn bed the blocks of a zone are retired with its slot (03 R153). -/
def Mach.retireCols (nsid zi : Nat) (m : Mach) : Mach :=
  let z := m.zone nsid zi
  let w := (m.ns nsid).width
  let m := z.cols.foldl (fun m c =>
    m.updDie (bedDie z.bed c.ch) fun d =>
      let new := (c.blocks.map (fun b => b.1)).filter (fun b => !d.bad.contains b)
      { d with bad := d.bad ++ new, retired := d.retired + new.length }) m
  (m.updBed z.bed fun x => x.addRetired w z.half).record 0x0304 z.bed (bedAcre z.bed + 1)

/-- Unbind a zone and leave it in state `st`, its blocks handed over for `plot` or retired on a Worn bed. -/
def Mach.unbind (nsid zi plot : Nat) (st : ZState) (m : Mach) : Mach :=
  let z := m.zone nsid zi
  let n := m.ns nsid
  let m := m.clearStore nsid (zi * n.zsze) ((zi + 1) * n.zsze)
  let m := m.dropUnits nsid zi plot
  let m := if !z.bound then m
    else
      let m := if (m.bed z.bed).worn then m.retireCols nsid zi else m.freeCols nsid zi plot
      m.updBed z.bed fun x => x.subBound n.width z.half
  m.updZone nsid zi fun z =>
    { Zone.init with st := st, resets := z.resets + (if st = .empty then 1 else 0), lastZcap := z.lastZcap,
                     lastAdm := z.lastAdm }

/-! ## Stripe rows and program units -/

/-- Bytes and plots of a unit for attribution, in proportion (09 R437). -/
def addPlot (p bytes : Nat) : List (Nat × Nat) → List (Nat × Nat)
  | [] => [(p, bytes)]
  | (q, n) :: t => if p = q then (q, n + bytes) :: t else (q, n) :: addPlot p bytes t

/-- Raw bytes of a unit on the channel: its sheaves (06 R289). -/
def Ns.unitRaw (n : Ns) : Nat := n.unitLen / 4 * 18432

/-- Ask for the program of a unit of a column that is not carried by parity. -/
def Mach.wantUnit (u : PUnit) (m : Mach) : Mach :=
  let n := m.ns u.nsid
  let z := m.zone u.nsid u.zone
  let ci := unitCol z.a u.zone u.row u.col
  let blk := (z.colAt ci).blockOf u.row
  m.want { (mkReq (z.dieOf ci) .program (.unit u.nsid u.zone u.row u.col) blk.1 2 n.unitRaw) with
           slc := n.headland, plots := u.plots }

/-- What names a unit: NSID, zone, stripe row and unit of the row. -/
def PUnit.key (u : PUnit) : Nat × Nat × Nat × Nat := (u.nsid, u.zone, u.row, u.col)
def PUnit.is (u : PUnit) (nsid zi row col : Nat) : Bool :=
  u.nsid == nsid && u.zone == zi && u.row == row && u.col == col
def Mach.updUnit (nsid zi row col : Nat) (f : PUnit → PUnit) (m : Mach) : Mach :=
  m.onMed fun x => { x with units := x.units.map fun u => if u.is nsid zi row col then f u else u }

/-- Every data unit of the row is folded and has reported done (06 R296, R298). -/
def Mach.rowReady (m : Mach) (nsid zi row : Nat) : Bool :=
  let z := m.zone nsid zi
  let ds := (m.rowUnits nsid zi row).filter (fun u => u.col + 1 != z.a)
  !ds.isEmpty && ds.all (fun u => u.done && u.folded) && (decide (ds.length + 1 = z.a) || z.st == .full)

/-- The row's parity unit has been programmed: its slots are released, and its units leave the seed bins (05 R242). Bytes of
units folded and never sent to a die stop counting as dirty here (DEDUCED: notes/assumptions/21). -/
def Mach.closeRow (nsid zi row : Nat) (m : Mach) : Mach :=
  let folded := sumBy (fun (u : PUnit) => if u.issued then 0 else u.bytes) (m.rowUnits nsid zi row)
  let m := m.onMed fun x => { x with units := x.units.filter (fun u => !(u.nsid == nsid && u.zone == zi && u.row == row)) }
  let m := m.onStg fun g => { g with dirty := g.dirty - folded }
  let m := m.releaseRow nsid zi row
  m.updZone nsid zi fun z => { z with rows := z.rows + 1 }

/-- The page that a sheaf of a unit lies in, within the block on its plane, where the block's first stripe row is `first` (06 R294; 05 R249). -/
def Ns.pageOf (n : Ns) (row first sheaf : Nat) : Nat := n.bits * (row - first) + sheaf / n.prof.planes

/-- Sheaf `s` of the parity unit of a stripe row as its program sends it: from the data units that the row's accumulator holds (06 R295, R296, R298). -/
def Mach.parityData (m : Mach) (nsid zi row s : Nat) : List Byte :=
  let z := m.zone nsid zi
  let us := (m.rowUnits nsid zi row).filter fun u => u.col + 1 != z.a && u.folded
  paritySheaf ((m.ns nsid).pageOf row ((z.colAt (parityCol z.a zi row)).blockOf row).2 s)
    (us.map fun u => encodeSheaf (Config.unitSheaf nsid zi row u.col s))

/-- Program the parity unit of a row whose data units are all done, its bytes those of `Mach.parityData`; a parity column carried by parity closes the row at
once (06 R296). -/
def Mach.tryParity (nsid zi row : Nat) (m : Mach) : Mach :=
  let z := m.zone nsid zi
  if !m.rowReady nsid zi row || (m.rowUnits nsid zi row).any (fun u => u.col + 1 == z.a) then m
  else
    let ds := m.rowUnits nsid zi row
    let plots := ds.foldl (fun l u => u.plots.foldl (fun l p => addPlot p.1 p.2 l) l) []
    if (z.colAt (parityCol z.a zi row)).carried then m.closeRow nsid zi row
    else
      let u : PUnit := { nsid := nsid, zone := zi, row := row, col := z.a - 1, bytes := 0, full := true, issued := false,
                         done := false, folded := true, lost := false, plots := plots }
      (m.onMed fun x => { x with units := x.units ++ [u] }).wantUnit u

/-- The unit's column is carried by parity: it is folded and sent to no die (06 R296). -/
def Mach.carriedUnit (m : Mach) (u : PUnit) : Bool :=
  let z := m.zone u.nsid u.zone
  (z.colAt (unitCol z.a u.zone u.row u.col)).carried

/-- A codec task folds an encoded data unit into its row's parity accumulator (01 R16, R17; 06 R296). -/
def Mach.wantFold (u : PUnit) (m : Mach) : Mach :=
  m.place { mkTask .codec 2 (bedAcre (m.zone u.nsid u.zone).bed) with unit_ := some u.key }

/-- A unit is complete: it is encoded and folded, and its program is asked for unless its column is carried by parity (06 R296). -/
def Mach.unitFull (nsid zi row col : Nat) (m : Mach) : Mach :=
  match m.med.units.find? (fun u => u.is nsid zi row col) with
  | none => m
  | some u =>
    let u := { u with full := true, done := u.done || m.carriedUnit u }
    let m := (m.updUnit nsid zi row col fun _ => u).wantFold u
    if u.done then m else m.wantUnit u

/-- The end of a codec task that folds a unit (06 R296). -/
def Mach.foldDone (key : Nat × Nat × Nat × Nat) (m : Mach) : Mach :=
  (m.updUnit key.1 key.2.1 key.2.2.1 key.2.2.2 fun u => { u with folded := true }).tryParity key.1 key.2.1 key.2.2.1

/-- Put the bytes of `n` blocks from offset `o` into their units, `steps` units at most; a unit that fills is complete. -/
def Mach.addUnits (nsid zi plot u a : Nat) : Nat → Nat → Nat → Mach → Mach
  | 0, _, _, m => m
  | steps + 1, o, n, m =>
    if n = 0 ∨ a < 2 then m
    else
      let row := rowOf a u o
      let col := dcolOf a u o
      let k := Nat.min n (u - o % u)
      let have_ := m.med.units.any (fun x => x.is nsid zi row col)
      let m := if have_ then
          m.updUnit nsid zi row col fun x => { x with bytes := x.bytes + 4096 * k, plots := addPlot plot (4096 * k) x.plots }
        else m.onMed fun x => { x with units := x.units ++
          [{ nsid := nsid, zone := zi, row := row, col := col, bytes := 4096 * k, full := false, issued := false,
             done := false, folded := false, lost := false, plots := [(plot, 4096 * k)] }] }
      let m := if o % u + k = u then m.unitFull nsid zi row col else m
      Mach.addUnits nsid zi plot u a steps (o + k) (n - k) m

/-- The controller or Finish completes the open unit of a zone with filler, and the parity of its last row follows
(03 R142, 06 R298). -/
def Mach.flushUnits (nsid zi : Nat) (m : Mach) : Mach :=
  let open_ := (m.unitsOf nsid zi).filter (fun u => !u.full)
  let m := open_.foldl (fun m u => m.unitFull nsid zi u.row u.col) m
  (dedup ((m.unitsOf nsid zi).map (fun u => u.row))).foldl (fun m row => m.tryParity nsid zi row) m

/-- Put a zone into state Full with WP at ZCAP (03 R142). -/
def Mach.zoneFull (nsid zi : Nat) (m : Mach) : Mach :=
  let m := m.updZone nsid zi fun z => { z with st := .full, wp := z.zcap, adm := z.zcap }
  m.flushUnits nsid zi

/-! ## Stripe-row reservations (07 R376, R377) -/

/-- The unit slots of a stripe row are reserved. -/
def Mach.rowHeld (m : Mach) (nsid zi row : Nat) : Bool :=
  m.stg.rows.any (fun r => r.nsid == nsid && r.zone == zi && r.row == row)

/-- Unit slots of a pool E segment for a unit size (07 R376). -/
def segSlots (usize : Nat) : Nat := if usize = 0 then 0 else 16777216 / usize

/-- Free unit slots of the segments that a plot holds in an acre for a unit size, in order. -/
def Mach.openSlots (m : Mach) (acre plot usize : Nat) : List (Nat × Nat) :=
  (m.stg.segs.filter (fun s => s.acre == acre && s.plot == plot && s.usize == usize)).flatMap fun s =>
    ((List.range (segSlots usize)).filter (fun i => !s.taken.contains i)).map (fun i => (s.buf, i))

/-- Reserve the unit slots of a row for a plot, with its parity accumulator where pool D has a buffer (07 R377, 06 R296);
none while no segment can be had. -/
def Mach.reserveRow (nsid zi row plot : Nat) (m : Mach) : Option Mach :=
  let z := m.zone nsid zi
  let a := bedAcre z.bed
  let usize := 4096 * (m.ns nsid).unitLen
  let need := z.a - 1
  let got : Option Mach :=
    if !m.acreUp a then none
    else if need ≤ (m.openSlots a plot usize).length then some m
    else match m.serveBuf a plot 4 with
      | .inl r => some (r.2.2.onStg fun g => { g with segs := g.segs ++ [{ acre := a, buf := r.2.1, plot := plot, usize := usize, taken := [] }] })
      | .inr _ => none
  match got with
  | none => none
  | some m =>
    let parts := (m.openSlots a plot usize).take need
    let use := fun (s : Seg) =>
      if s.acre = a then { s with taken := s.taken ++ (parts.filter (fun p => p.1 == s.buf)).map (fun p => p.2) } else s
    let m := m.onStg fun g => { g with segs := g.segs.map use }
    let r : Option Nat × Mach := match m.serveBuf a (internalOwner 3) 3 with
      | .inl r => (some r.2.1, r.2.2)
      | .inr _ => (none, m)
    some (r.2.onStg fun g => { g with rows := g.rows ++
      [{ nsid := nsid, zone := zi, row := row, plot := plot, slots := parts, acre := a, acc := r.1 }] })

/-! ## Failures of blocks and dies -/

/-- Zones (and headland slots) bound on a bed: namespace, number and zone. -/
def Mach.zonesOn (m : Mach) (b : Nat) : List (Nat × Nat × Zone) :=
  (m.med.zones.filter (fun e => e.2.bound && e.2.bed == b)).map (fun e => (e.1 / 2 ^ 20, e.1 % 2 ^ 20, e.2))

/-- Column of a zone on a die, if it has one. -/
def Zone.colOn (z : Zone) (die : Nat) : Option Nat :=
  (List.range z.a).find? (fun ci => z.dieOf ci == die)

/-- A second column of a zone is lost: the blocks of that column that lie on media are lost (03 R154). -/
def Mach.loseColumn (nsid zi ci : Nat) (m : Mach) : Mach :=
  let n := m.ns nsid
  let z := m.zone nsid zi
  let hit := fun (k : Nat) =>
    decide (k / 2 ^ 44 = nsid) &&
    (match m.locate nsid (k % 2 ^ 44) with
     | some (zz, o) =>
       decide (zz = zi) && decide (o < z.wp ∨ n.headland = true) &&
         decide (dataCol z.a zi (rowOf z.a n.unitLen o) (dcolOf z.a n.unitLen o) = ci) &&
         (m.rowUnits nsid zi (rowOf z.a n.unitLen o)).isEmpty
     | none => false)
  (m.onMed fun x => { x with store := x.store.map fun e => if hit e.1 then (e.1, { e.2 with lost := true }) else e }).record
    0x0308 z.bed (bedAcre z.bed + 1)

/-- A column of a zone is carried by parity from now on (03 R151): its units waiting for the die are folded. A second such
column loses its data (03 R154). -/
def Mach.carry (nsid zi ci : Nat) (m : Mach) : Mach :=
  let z := m.zone nsid zi
  if (z.colAt ci).carried then m
  else
    let second := z.cols.any (fun c => c.carried)
    let m := m.updZone nsid zi fun z => { (z.updCol ci fun c => { c with carried := true }) with carriedF := true }
    let m := if second then m.loseColumn nsid zi ci else m
    let gone := fun (r : SlotReq) => match r.purp with
      | .unit a b row col => a == nsid && b == zi && unitCol z.a zi row col == ci
      | _ => false
    let m := m.onMed fun x => { x with reqs := x.reqs.filter (fun r => !gone r), wants := x.wants.filter (fun r => !gone r) }
    let mine := (m.unitsOf nsid zi).filter (fun u => u.full && !u.done && unitCol z.a zi u.row u.col == ci)
    mine.foldl (fun m u =>
      if u.col + 1 = z.a then m.closeRow nsid zi u.row
      else (m.updUnit nsid zi u.row u.col fun u => { u with done := true, issued := false }).tryParity nsid zi u.row) m

/-- A Zone Management Send that names one zone and has not reached its commit point (03 R153 item 4). -/
def Mach.sendsTo (m : Mach) (nsid zi : Nat) (c : Cmd) : Bool :=
  c.sq != 0 && c.sqe.opc == 0x79 && !c.sqe.selectAll && c.sqe.nsid.toNat == nsid && decide (c.sqe.slba / (m.ns nsid).zsze = zi) && !c.committed &&
    c.stage != .done && c.stage != .finished

/-- A bed becomes Worn (03 R153): its bound zones become Read Only, uncommitted commands to them fail, and the Empty and
unbound Full zones of namespaces left without another bed become Offline. -/
def Mach.wearBed (b : Nat) (m : Mach) : Mach :=
  if (m.bed b).worn then m
  else
    let m := (m.updBed b fun x => { x with worn := true }).record 0x0302 b (bedAcre b + 1)
    let zs := (m.zonesOn b).filter fun e =>
      !(m.ns e.1).headland && e.2.2.st != .readOnly && e.2.2.st != .offline
    let m := zs.foldl (fun m e =>
      let m := m.front.inflight.foldl (fun m c =>
        if c.admitted && c.sqe.nsid.toNat == e.1 && c.zone == some e.2.1 then
          ((m.unstage c.stamp).squashDescs c.stamp).failWith c.stamp St.zoneReadOnly
        else if m.sendsTo e.1 e.2.1 c then (m.dropTasks c.stamp).failWith c.stamp St.zoneReadOnly
        else m) m
      let m := m.updZone e.1 e.2.1 fun z => { z with st := .readOnly, adm := z.wp }
      m.zoneNotice e.1 e.2.1) m
    let m := m.med.ns.foldl (fun m e =>
      if e.2.exists_ && !e.2.headland && (m.nsBeds e.2).all (fun x => (m.bed x).worn) then
        (List.range e.2.zones).foldl (fun m zi =>
          let z := m.zone e.1 zi
          if z.st = .empty ∨ (z.st = .full ∧ z.bound = false) then
            (m.updZone e.1 zi fun z => { z with st := .offline }).zoneNotice e.1 zi
          else m) m
      else m) m
    m.noteBed b

/-- A block is retired: the die's spare count falls by one (05 R252). -/
def Mach.retireBlock (die block : Nat) (m : Mach) : Mach :=
  (m.updDie die fun d =>
    { d with retired := d.retired + 1, bad := if d.bad.contains block then d.bad else block :: d.bad,
             used := if d.used.contains block then d.used else block :: d.used, spares := d.spares - 1 }).noteBed (dieBed die)

/-- Splices made in a column so far. -/
def Col.splices (c : Col) : Nat := c.blocks.length - 1

/-- The controller's Finish of a zone with a carried column, or the end of one (03 R151): WP goes to ZCAP, ZFC is set and a
notice is posted. -/
def Mach.finishZone (nsid zi : Nat) (m : Mach) : Mach :=
  let z := m.zone nsid zi
  if z.st.isActive then
    let m := (m.updZone nsid zi fun z => { z with zfc := true }).zoneFull nsid zi
    (m.zoneNotice nsid zi).record 0x0300 z.bed (bedAcre z.bed + 1)
  else m

/-- The zone still has commands admitted and not committed. -/
def Mach.zoneBusy (m : Mach) (nsid zi : Nat) : Bool :=
  m.front.inflight.any (fun c => c.admitted && c.sqe.nsid.toNat == nsid && c.zone == some zi)

/-- Splice a column at row `r` onto a new block of the die (05 R249, R250): a third splice, or a die with no free block,
leaves the column carried by parity. The unit is asked for again as unit 0 of the new block. -/
def Mach.splice (nsid zi ci row : Nat) (m : Mach) : Mach :=
  let z := m.zone nsid zi
  let c := z.colAt ci
  let die := z.dieOf ci
  let col := if parityCol z.a zi row = ci then z.a - 1 else if ci < parityCol z.a zi row then ci else ci - 1
  if 2 ≤ c.splices then m.carry nsid zi ci
  else match m.takeBlock die z.ext.life with
    | none => m.carry nsid zi ci
    | some (b, erased, m) =>
      let m := m.updZone nsid zi fun z => z.updCol ci fun c =>
        { c with blocks := (b, row) :: c.blocks, erased := erased, next := row }
      let m := m.updUnit nsid zi row col fun u => { u with issued := false }
      let m := m.record 0x0504 (c.splices + 1) (dieAcre die + 1)
      let m := (m.unitsOf nsid zi).foldl (fun m u =>
        if u.full && !u.done && !u.issued && unitCol z.a zi u.row u.col == ci && u.row == row then m.wantUnit u else m) m
      -- requests already posted for later units of the column name the new block
      let fix := fun (r : SlotReq) => match r.purp with
        | .unit a b2 row2 col2 => if a = nsid ∧ b2 = zi ∧ unitCol z.a zi row2 col2 = ci then { r with block := b } else r
        | _ => r
      m.onMed fun x => { x with reqs := x.reqs.map fix, wants := x.wants.map fix }

/-- A program of a unit failed (05 R249) or was interrupted (05 R250). A failure that needs a splice on a die without a spare makes the bed Worn (05 R252);
the third of a column needs none, since the column is carried by parity (05 R251). -/
def Mach.unitFailed (nsid zi row col : Nat) (retire : Bool) (m : Mach) : Mach :=
  let z := m.zone nsid zi
  let ci := unitCol z.a zi row col
  let die := z.dieOf ci
  let blk := ((z.colAt ci).blockOf row).1
  let noSpare := decide ((m.die die).spares = 0) && decide ((z.colAt ci).splices < 2)
  let m := if retire then (m.retireBlock die blk).record 0x0502 (dieBed die) (dieAcre die + 1)
    else m.record 0x0505 (dieBed die) (dieAcre die + 1)
  let m := m.updUnit nsid zi row col fun u => { u with issued := false }
  if retire && noSpare then
    ((m.carry nsid zi ci).wearBed z.bed)
  else m.splice nsid zi ci row

/-- A die is marked failed (01 R52): its requests are handed back, its columns are carried by parity, and the
active zones among them wait for ZONE_FINISH_BY_CONTROLLER (03 R151). Reads of the die
are answered in `Machine/Reads.lean`, which calls this first. -/
def Mach.dieFailedMedia (c : Cfg) (die : Nat) (m : Mach) : Mach :=
  let m := m.updDie die fun d =>
    { d with failed := true, st := .failed, op := none, queued := [], granted := false, susp := none,
             suspGranted := false, holdFor := 0, timedOut := none }
  let m := m.updBed (dieBed die) fun b => { b with held := b.held.filter (fun d => d != die) }
  let m := (m.hubInt 2).record 0x0132 (dieBed die) (dieAcre die + 1)
  -- an erase leaves its block on the to-till list; recovery operations, sweeps and feature settings are dropped
  let drop := fun (r : SlotReq) => r.die == die && (match r.purp with
    | .till _ | .sweep _ _ | .recovery _ | .headland _ _ | .other => true
    | _ => false)
  let away := fun (k : Nat) => k / 65536 != die
  let m := m.onMed fun x =>
    { x with reqs := x.reqs.filter (fun r => !drop r), wants := x.wants.filter (fun r => !drop r), sweepDue := x.sweepDue.filter away,
             sweepRead := x.sweepRead.filter away }
  let m := (m.zonesOn (dieBed die)).foldl (fun m e =>
    match e.2.2.colOn die with
    | some ci => m.carry e.1 e.2.1 ci
    | none => m) m
  (m.noteBed (dieBed die)).updWd c (dieBed die)

end Sys2Proof.Machine
end

