-- ==== Sys2Proof/Machine/Ports.lean ====
section
/-! DEFINITION. DRAM ports as their requesters see them (07, 06): addresses of pools (R338), lines and banks (R342), requests and
batches of lines, narrow writes and the merge buffer (06 R325 to R330). -/

namespace Sys2Proof.Machine

/-- Bank groups, banks, columns in lines, and rows of a rank: JEDEC geometries whose capacities are those of 07 R334
(PRESUMED: notes/assumptions/25). -/
def Port.banks (p : Port) : Nat := 8 * (if p.dens then 4 else 2)
def Port.cols (p : Port) : Nat := if p.width = 1 then 128 else 64
def bankRows : Nat := 65536

/-- Bank, with its rank, and DRAM row of a line (07 R342): the subchannel bit, then bank group and bank, column, rank, row. -/
def Port.bankRow (p : Port) (line : Nat) : Nat × Nat :=
  let q := line / 2
  let col := q / p.banks
  let rank := if p.ranks2 then col / p.cols % 2 else 0
  (q % p.banks + 64 * rank, col / p.cols / (if p.ranks2 then 2 else 1))
def Port.rankOf (p : Port) (line : Nat) : Nat := (p.bankRow line).1 / 64

def Port.lineAt (p : Port) (line : Nat) : BitVec 640 := Tbl.get 0 line p.lines
def Port.setLine (line : Nat) (v : BitVec 640) (p : Port) : Port := { p with lines := Tbl.put 0 line v p.lines }

/-- Merge enabled bytes of `new` over `old`. -/
def mergeBytes (old new : BitVec 512) (mask : BitVec 64) : BitVec 512 :=
  (List.range 64).foldl (fun v i =>
    if mask.getLsbD i then (v &&& ~~~(0xFF#512 <<< (8 * i))) ||| (new &&& (0xFF#512 <<< (8 * i))) else v) old

/-- An entry to a non-operational state ends as refused (11 R501): every domain reopens, buffers that hold an acre's SRAM are freed, the state from which the entry began stays,
and a Set Features that asked for it completes with success. -/
def Mach.refuseEntry (cause : Nat) (m : Mach) : Mach :=
  match m.power.entering with
  | none => m
  | some _ =>
    let cmd := m.power.entryCmd
    let m := m.onPower fun p =>
      { p with entering := none, closing := false, refused := sat 8 (p.refused + 1), lastRef := cause, entryCmd := 0,
               idleAt := m.clk.now }
    let m := (List.range m.nAcres).foldl (fun m a =>
      m.updPort a fun p => { p with srWanted := p.srWanted && p.srForRate }) m
    let m := (List.range m.nAcres).foldl (fun m a =>
      ((m.pool a 3).bufs.filter (fun e => e.2.held && e.2.owner == internalOwner 7)).foldl (fun m e => (m.releaseBuf a 3 e.1).serveWaits a 3) m) m
    let m := if cmd = 0 then m else m.succeed cmd
    (m.record 0x0B01 cause 0).hubInt 18

/-- The request that goes to a port is new: an entry to self-refresh that the power logic asked for is cancelled (07 R363); a
request that finds the port in self-refresh waits for its exit. -/
def Mach.dramArrive (a : Nat) (m : Mach) : Mach :=
  let p := m.port a
  let m := if p.st = 2 ∧ p.srWanted = true ∧ p.srForRate = false then
      ((m.updPort a fun p => { p with srWanted := false }).record 0x0705 a (a + 1)).refuseEntry 2
    else m
  m.updPort a fun p =>
    { p with srWaitAt := if p.st = 3 ∧ p.srWaitAt = none then some m.clk.now else p.srWaitAt, lastUse := m.clk.now }

/-- Lines of one copy of the control region, and of the hub region (07 R338). -/
def copyLines : Nat := 256 * mib / 64
def hubLines : Nat := 128 * mib / 64
/-- A line lies in the hub region of ports 0 and 1. -/
def hubLine (a line : Nat) : Bool := decide (a < 2) && decide (2 * copyLines ≤ line) && decide (line < 2 * copyLines + hubLines)
/-- A line lies in the control region; requests name it in copy 0 (07 R339). -/
def ctlLine (line : Nat) : Bool := decide (line < 2 * copyLines)

/-- The next free 64-byte value, and the machine that has used it: bytes that the model does not follow. -/
def Mach.freeLine (m : Mach) : BitVec 512 × Mach :=
  (Config.lineData m.hub.freeCtr, m.onHub fun h => { h with freeCtr := h.freeCtr + 1 })

/-- Queue a request on one port; a fencing acre's port takes those of the salvage alone, a fenced acre's none (01 R56). -/
def Mach.dramTake (a : Nat) (r : DramReq) (m : Mach) : Mach :=
  if m.acreUp a || (m.fencingA a && r.use == .salvage) then (m.dramArrive a).dramQueue a r else m

/-- A request of the hub for a DRAM port comes to the crossbar (01 R37). -/
def Mach.crossPost (a : Nat) (r : DramReq) (m : Mach) : Mach :=
  if m.acreUp a then (m.dramArrive a).onHub fun h => { h with xbar := h.xbar ++ [(a, { r with since := m.clk.now })] } else m

/-- Requests in the order in which the crossbar passes them (01 R37): those older than 2 µs first, by age, and then by service class in
the DRAM order. -/
def xbarOrder (now : Nat) (l : List DramReq) : List DramReq :=
  let old := fun (r : DramReq) => decide (r.since + 2 * Config.edgesPerUs < now)
  l.filter old ++ (List.range 4).flatMap fun k => l.filter fun r => !old r && classOrder r.cls == k

/-- The requests that wait at the crossbar for a port pass it, at the next command slot of the port (DESIGN CHOICE:
notes/assumptions/138). -/
def Mach.crossAll (a : Nat) (m : Mach) : Mach :=
  let mine := (m.hub.xbar.filter (fun e => e.1 == a)).map fun e => e.2
  (xbarOrder m.clk.now mine).foldl (fun m r => m.dramTake a r) (m.onHub fun h => { h with xbar := h.xbar.filter fun e => e.1 != a })

/-- A write of one line of the hub region goes to ports 0 and 1, so that both hold the same bytes (07 R339). -/
def Mach.hubStore (r : DramReq) (line : Nat) (m : Mach) : Mach :=
  let (v, m) := if r.known then (r.data, m) else m.freeLine
  let q := { r with line := line, count := 1, known := true, data := v, more := [], use := .hub }
  (m.crossPost 0 q).crossPost 1 q

/-- The port that reads of the hub region use: port 0, or port 1 while acre 0 is fenced (07 R339). -/
def Mach.hubPort (m : Mach) : Nat := if m.fencedA 0 || m.fencingA 0 then 1 else 0

/-- Queue a request as the region of its line has it (07 R339): one to the control region names copy 0, a write of the hub region goes to both of its ports,
and a read of it to one. -/
def Mach.dramPost (a : Nat) (r : DramReq) (m : Mach) : Mach :=
  if ctlLine r.line then m.dramTake a { r with line := r.line % copyLines, use := .control }
  else if hubLine a r.line then
    if r.write then (List.range r.count).foldl (fun m i => m.hubStore { r with data := (r.data :: r.more).getD i r.data } (r.line + 2 * i)) m
    else m.crossPost m.hubPort { r with use := .hub }
  else m.dramTake a r

/-- A line is stored: a line of the control region in both copies, in one request (07 R339). -/
def Port.putLine (line : Nat) (v : BitVec 640) (p : Port) : Port :=
  if line < copyLines then (p.setLine line v).setLine (line + copyLines) v else p.setLine line v

/-- A record of the control region of an acre, one line long, is written; its place in the region is not stated (07 R338; DESIGN CHOICE:
notes/assumptions/134). -/
def Mach.controlWrite (a : Nat) (m : Mach) : Mach :=
  let line := Config.recordLine m.hub.freeCtr % copyLines
  m.freeLine.2.dramTake a { mkDram line 1 .metadata true m.freeLine.1 .control 0 with known := true }

/-- A record of the hub region, one line long, is written to ports 0 and 1 (07 R338, R339; DESIGN CHOICE: notes/assumptions/134). -/
def Mach.hubWrite (m : Mach) : Mach :=
  let line := 2 * copyLines + Config.recordLine m.hub.freeCtr % hubLines
  m.freeLine.2.hubStore (mkDram line 1 .metadata true m.freeLine.1 .hub 0) line

/-- The newest image of a code among the journal and the boot-flash entries without flag bit 1 (14 R610 step 1). -/
def Ybk.newest (y : Ybk) (code : Nat) : Rec :=
  (y.bootImages.filter (fun b => b.code == code && !b.startup)).foldl (fun r b => if r.gen < b.image.gen then b.image else r)
    (Tbl.get Rec.init code y.journal)

/-- Line `k` of the counting record of a slot of the Yield Book's code table: 256 bytes each, in the hub region (14 R595); where the book begins there is not
stated (DESIGN CHOICE: notes/assumptions/134). -/
def bookStart : Nat := 2 * copyLines + Config.bookLine % (hubLines - 16384)
def bookLine (slot k : Nat) : Nat := bookStart + 4 * slot + k

/-- A line of the hub region is lost in both copies: a counting record in it is rebuilt from its last persisted image, and its history is incomplete (14 R611). -/
def Mach.bookLost (line : Nat) (m : Mach) : Mach :=
  if line < bookStart then m
  else match m.ybk.slots[(line - bookStart) / 4]? with
    | some code =>
      let last := (m.ybk.images.filter (fun e => e.1 == code)).foldl (fun r e => if r.gen < e.2.gen then e.2 else r) (m.ybk.newest code)
      m.onYbk fun y => { y with recs := Tbl.put Rec.init code { last with incomplete := true } y.recs }
    | none => m

/-- An uncorrectable line is counted, reported and told to the hub (06 R323, R324; 15 R638); one that is not poisoned counts toward
the 16 of 07 R366, outside a fence. -/
def Mach.noteUe (a line : Nat) (poisoned : Bool) (m : Mach) : Mach :=
  let m := (m.updPort a fun p => { p with ue := sat 8 (p.ue + 1), lcLine := line, poison := poisoned }).hubInt 13
  let m := m.record (if poisoned then 0x0612 else 0x0611) a (a + 1)
  if poisoned || m.fencingA a then m
  else m.updPort a fun p =>
    { p with ueWindow := p.ueWindow.filter (fun t => decide (m.grid.passes < t + 1000)) ++ [m.grid.passes] }

/-- Read and decode a line with the errors that it is read with (06 R319 to R324). -/
def Mach.readLine (a line : Nat) (errs : List (Nat × BitVec 16)) (m : Mach) : LineRead × Mach :=
  let r := decodeLine (errs.foldl (fun l e => addError l e.1 e.2) ((m.port a).lineAt line))
  match r with
  | .clean => (r, m)
  | .corrected g _ =>
    (r, (m.updPort a fun p => { p with ce := sat 16 (p.ce + 1), lastGrp := g, lastSub := line % 2 }).record 0x0610 g (a + 1))
  | .uncorrectable => (r, m.noteUe a line false)
  | .poisoned => (r, m.noteUe a line true)

/-- A read-modify-write of a merge entry (06 R327): an uncorrectable or poisoned line is replaced by the poisoned pattern. -/
def Mach.mergeRmw (a : Nat) (e : MergeEntry) (m : Mach) : Mach :=
  let m := m.updPort a fun p => { p with merge := p.merge.filter (fun x => x.line != e.line), rmw := sat 16 (p.rmw + 1) }
  let good := fun (v : BitVec 640) (m : Mach) =>
    m.updPort a fun p => p.putLine e.line (encodeLine (mergeBytes (lineBytes v) e.data e.mask))
  let l := (m.port a).lineAt e.line
  match m.readLine a e.line [] with
  | (.clean, m) => good l m
  | (.corrected _ v, m) => good v m
  | (_, m) => (m.updPort a fun p => p.putLine e.line poisonedLine).record 0x0613 a (a + 1)

/-- A write of a line is queued: a read-modify-write of it comes after (07 R344). -/
def Port.writesTo (p : Port) (line : Nat) : Bool := p.reqs.any fun r => r.write && r.covers line

/-- A write narrower than a line enters the merge buffer of a port (06 R325, R326); an entry whose mask becomes full leaves as a whole
write of its class. A port of an acre that is not up takes none (01 R56). -/
def Mach.mergeTake (a line : Nat) (data : BitVec 512) (mask : BitVec 64) (cls : DramClass) (m : Mach) : Mach :=
  if !m.acreUp a then m
  else
  let m := m.dramArrive a
  match (m.port a).merge.find? (fun e => e.line == line) with
  | some e =>
    let mask' := e.mask ||| mask
    let e' := { e with data := mergeBytes e.data data mask, mask := mask' }
    if mask' = BitVec.allOnes 64 then
      (m.updPort a fun p => { p with merge := p.merge.filter (fun x => x.line != line) }).dramTake a
        (mkDram line 1 e.cls true e'.data .merge 0)
    else m.updPort a fun p => { p with merge := p.merge.map fun x => if x.line = line then e' else x }
  | none =>
    let m := if (m.port a).merge.length < 64 then m
      else match (m.port a).merge.find? (fun e => !(m.port a).writesTo e.line), (m.port a).merge.head? with
        | some e, _ | none, some e => m.mergeRmw a e
        | none, none => m
    m.updPort a fun p => { p with merge := p.merge ++ [{ line := line, data := data, mask := mask, cls := cls, since := m.clk.now }] }

/-- A narrow write as the region of its line has it (07 R339). -/
def Mach.dramNarrow (a line : Nat) (data : BitVec 512) (mask : BitVec 64) (cls : DramClass) (m : Mach) : Mach :=
  if ctlLine line then m.mergeTake a (line % copyLines) data mask cls
  else if hubLine a line then (m.mergeTake 0 line data mask cls).mergeTake 1 line data mask cls
  else m.mergeTake a line data mask cls

/-- Byte enables of the bytes `lo` to `hi - 1` of a line. -/
def byteMask (lo hi : Nat) : BitVec 64 := BitVec.ofNat 64 (2 ^ hi - 2 ^ lo)

/-- Bytes that lie from byte `off` of a line, and a byte string as whole lines: byte 0 is the lowest. -/
def lineOf (off : Nat) (bs : List Byte) : BitVec 512 := BitVec.ofNat 512 (leAt bs 0 bs.length * 256 ^ off)
def linesOf (n : Nat) (bs : List Byte) : List (BitVec 512) := (bytePieces 64 n bs).map (lineOf 0)

/-- Every second element, from the first. -/
def everySecond {α : Type} : List α → List α
  | [] => []
  | [x] => [x]
  | x :: _ :: t => x :: everySecond t

/-- Whole lines from `first`, `n` of them, as one batch on each subchannel (07 R342). A write without `data` stores bytes that the model does not
follow. -/
def Mach.dramLines (a first n : Nat) (data : List (BitVec 512)) (cls : DramClass) (write : Bool) (use : LineUse) (stamp : Nat) (m : Mach) : Mach :=
  let post := fun (line count : Nat) (d : List (BitVec 512)) (m : Mach) =>
    if count = 0 then m
    else m.dramPost a { mkDram line count cls write (d.headD 0) use stamp with known := !write || !d.isEmpty, more := d.drop 1 }
  post (first + 1) (n / 2) (everySecond (data.drop 1)) (post first ((n + 1) / 2) (everySecond data) m)

/-- Read the lines of a byte range: whole lines (08 R399). -/
def Mach.dramRead (a addr len : Nat) (cls : DramClass) (use : LineUse) (stamp : Nat) (m : Mach) : Mach :=
  if len = 0 then m else m.dramLines a (addr / 64) ((addr + len - 1) / 64 + 1 - addr / 64) [] cls false use stamp

/-- Write a byte range: full lines, and narrow writes of its ends (08 R400); without `data`, bytes that the model does not follow. -/
def Mach.dramStore (a addr len : Nat) (data : List Byte) (cls : DramClass) (use : LineUse) (stamp : Nat) (m : Mach) : Mach :=
  if len = 0 then m
  else
    let last := addr + len
    let narrow := fun (lo hi : Nat) (m : Mach) =>
      let r := if data.isEmpty then m.freeLine else (lineOf (lo % 64) ((data.drop (lo - addr)).take (hi - lo)), m)
      r.2.dramNarrow a (lo / 64) r.1 (byteMask (lo % 64) (hi - lo / 64 * 64)) cls
    if addr / 64 = (last - 1) / 64 then
      (if len = 64 then m.dramLines a (addr / 64) 1 (linesOf 1 data) cls true use stamp else narrow addr last m)
    else
      let head := if addr % 64 = 0 then addr else (addr / 64 + 1) * 64
      let tail := last / 64 * 64
      let m := if addr < head then narrow addr head m else m
      let n := (tail - head) / 64
      let m := m.dramLines a (head / 64) n (linesOf n (data.drop (head - addr))) cls true use stamp
      if tail < last then narrow tail last m else m

/-- Write a byte range with bytes that the model does not follow. -/
def Mach.dramWrite (a addr len : Nat) (cls : DramClass) (use : LineUse) (stamp : Nat) (m : Mach) : Mach :=
  m.dramStore a addr len [] cls use stamp

/-! ## Seed-bin slots -/

/-- Slot of a data unit: the acre, and its port address (07 R376 to R378). -/
def Mach.slotAddr (m : Mach) (nsid zi row col : Nat) : Option (Nat × Nat) :=
  match m.stg.rows.find? (fun r => r.nsid == nsid && r.zone == zi && r.row == row) with
  | none => none
  | some r => (r.slots[col]?).map fun s =>
      (r.acre, poolAddr r.acre (m.port r.acre).cap 4 s.1 + s.2 * (4096 * (m.ns nsid).unitLen))

/-- The row, data column and byte offset in its unit slot that a port address of an acre lies in. -/
def Mach.slotOf (m : Mach) (a addr : Nat) : Option (RowRes × Nat × Nat) :=
  let cap := (m.port a).cap
  m.stg.rows.findSome? fun r =>
    if r.acre ≠ a then none
    else
      let u := 4096 * (m.ns r.nsid).unitLen
      (List.range r.slots.length).findSome? fun col =>
        match r.slots[col]? with
        | some s =>
          let base := poolAddr a cap 4 s.1 + s.2 * u
          if base ≤ addr ∧ addr < base + u then some (r, col, addr - base) else none
        | none => none

/-- The data of a unit are read from its seed-bin slot, or a parity unit from its accumulator, when its program is issued. -/
def Mach.readUnit (nsid zi row col : Nat) (m : Mach) : Mach :=
  let u := 4096 * (m.ns nsid).unitLen
  match m.stg.rows.find? (fun r => r.nsid == nsid && r.zone == zi && r.row == row) with
  | none => m
  | some r =>
    if col < r.slots.length then
      match m.slotAddr nsid zi row col with
      | some (a, addr) => m.dramRead a addr u .staging .seedProgram 0
      | none => m
    else match r.acc with
      | some i => m.dramRead r.acre (poolAddr r.acre (m.port r.acre).cap 3 i) u .staging .parity 0
      | none => m

/-- A unit that is folded is read from its slot, and its row's accumulator is written (07 R343; 06 R296). -/
def Mach.foldDram (key : Nat × Nat × Nat × Nat) (m : Mach) : Mach :=
  let m := m.readUnit key.1 key.2.1 key.2.2.1 key.2.2.2
  match m.stg.rows.find? (fun r => r.nsid == key.1 && r.zone == key.2.1 && r.row == key.2.2.1) with
  | some r => (match r.acc with
    | some i => m.dramWrite r.acre (poolAddr r.acre (m.port r.acre).cap 3 i) (4096 * (m.ns r.nsid).unitLen) .staging .parity 0
    | none => m)
  | none => m

/-! ## The maps of headland namespaces (03 R164; 07 R343, R365, R368) -/

/-- Acre and port address of the map entry of a logical block: 4 bytes per 4 KiB, in the pool D buffers of its namespace's map. -/
def Mach.mapAddr (m : Mach) (nsid lba : Nat) : Option (Nat × Nat) :=
  match (m.ns nsid).mapBufs[lba / 262144]? with
  | some (a, some i) => some (a, poolAddr a (m.port a).cap 3 i + 4 * (lba % 262144))
  | _ => none

/-- A map entry is written in its acre's DRAM. -/
def Mach.mapWrite (nsid lba : Nat) (m : Mach) : Mach :=
  match m.mapAddr nsid lba with
  | some (a, addr) => m.dramWrite a addr 4 .metadata .headlandMap 0
  | none => m

/-- The map entries of a range are read for a command. -/
def Mach.mapRead (nsid lba n stamp : Nat) (m : Mach) : Mach :=
  (List.range ((lba % 262144 + n + 262143) / 262144)).foldl (fun m i =>
    let lo := Nat.max lba ((lba / 262144 + i) * 262144)
    let hi := Nat.min (lba + n) ((lba / 262144 + i + 1) * 262144)
    match m.mapAddr nsid lo with
    | some (a, addr) => m.dramRead a addr (4 * (hi - lo)) .metadata .headlandMap stamp
    | none => m) m

/-- The map buffers of a headland namespace are taken for the class map, one MiB after another, in the acres that hold its slots in turn; a MiB that finds
no buffer has none (DESIGN CHOICE: notes/assumptions/135). -/
def Mach.takeMaps (nsid : Nat) (m : Mach) : Mach :=
  let n := m.ns nsid
  let acres := (dedup (n.slots.map bedAcre)).filter m.acreUp
  if n.headland = false ∨ acres = [] then m
  else
    let r := (List.range ((n.nsze + 262143) / 262144)).foldl (fun (acc : List (Nat × Option Nat) × Mach) i =>
      let a := acres.getD (i % acres.length) 0
      match acc.2.serveBuf a (internalOwner 4) 3 with
      | .inl r => (acc.1 ++ [(a, if r.1 = 3 then some r.2.1 else none)], r.2.2)
      | .inr _ => (acc.1 ++ [(a, none)], acc.2)) ([], m)
    r.2.updNs nsid fun n => { n with mapBufs := r.1 }

/-- The map buffers of a namespace are freed. -/
def Mach.freeMaps (nsid : Nat) (m : Mach) : Mach :=
  ((m.ns nsid).mapBufs.foldl (fun m e => match e.2 with
    | some i => (m.releaseBuf e.1 3 i).serveWaits e.1 3
    | none => m) m).updNs nsid fun n => { n with mapBufs := [] }

/-- The namespace and logical block of the first map entry in a line of an acre. -/
def Mach.mapLine (m : Mach) (a line : Nat) : Option (Nat × Nat) :=
  m.med.ns.findSome? fun e =>
    (List.range e.2.mapBufs.length).findSome? fun i => match e.2.mapBufs[i]? with
      | some (b, some k) =>
        let base := poolAddr a (m.port a).cap 3 k
        if b = a ∧ base ≤ line * 64 ∧ line * 64 < base + mib then some (e.1, i * 262144 + (line * 64 - base) / 4) else none
      | _ => none

/-! ## Fences (01 R54) -/

/-- Steps 1 and 2 of a fence: the acre takes no task, and its front-end tasks go back to the dispatcher and are placed in
other acres (01 R54); their age begins again there (DESIGN CHOICE: notes/assumptions/113; R54 does not say). Every other task of the acre is
dropped with its acre's work. -/
def Mach.fenceStart (a cause : Nat) (m : Mach) : Mach :=
  if decide (m.nAcres ≤ a) || m.fencedA a || m.fencingA a then m
  else
    let m := m.onHub fun h =>
      { h with cause := Tbl.put 0 a cause h.cause, fencing := Tbl.put false a true h.fencing,
               salv := Tbl.put 0 a 3 h.salv }
    let ts := (List.range 128).map (fun i => 128 * a + i)
    let keep := fun (k : Machine.Task) => k.kind == TaskKind.frontEnd || decide ((if k.kind = TaskKind.media then swathAcre k.scope else k.scope) ≠ a)
    let m := { m with retry := m.retry.filter keep }
    let held := ts.flatMap fun t =>
      let x := m.tine t
      (x.running.toList ++ x.l0 ++ x.l1 ++ x.l2 ++ x.l3).filter (fun k => k.kind = .frontEnd)
    let m := ts.foldl (fun m t =>
      m.setTine t { (m.tine t) with l0 := [], l1 := [], l2 := [], l3 := [], running := none }) m
    let m := held.foldl (fun m k => m.place { k with scope := 4 }) m
    let m := (List.range 16).foldl (fun m i => m.updChan (16 * a + i) fun x => { x with inService := false }) m
    -- drills and pools take no request (01 R56); salvage empties the merge buffer first (06 R330), and the port takes its reads only
    let m := (m.port a).merge.foldl (fun m e => m.mergeRmw a e) m
    let m := m.onHub fun h => { h with xbar := h.xbar.filter fun e => e.1 != a }
    let m := m.updPort a fun p => { p with reqs := [], nref := [], srWanted := false }
    let m := m.onMed fun x => { x with reqs := x.reqs.filter (fun r => dieAcre r.die != a), wants := x.wants.filter (fun r => dieAcre r.die != a) }
    m.stg.rows.foldl (fun m r =>
      if r.acre ≠ a then m
      else (List.range r.slots.length).foldl (fun m col =>
        match m.slotAddr r.nsid r.zone r.row col with
        | some (_, addr) => m.dramRead a addr (4096 * (m.ns r.nsid).unitLen) .staging .salvage 0
        | none => m) m) m

end Sys2Proof.Machine
end

