-- ==== Sys2Proof/Machine/Reads.lean ====
section
/-! DEFINITION. Reads of media: decode ladders (06 R302 to R311), stripe rebuilds and read-around (05 R266 to R271, 06 R299),
read levels (05 R272 to R275), aging by corrected bits (03 R159 to R161), and what a die marked failed hands back (01 R52). -/

namespace Sys2Proof.Machine

def Mach.ladder? (m : Mach) (id : Nat) : Option Ladder := m.med.ladders.find? (fun l => l.id == id)
def Mach.updLadder (id : Nat) (f : Ladder → Ladder) (m : Mach) : Mach :=
  m.onMed fun x => { x with ladders := x.ladders.map fun l => if l.id = id then f l else l }
def Mach.dropLadder (id : Nat) (m : Mach) : Mach :=
  m.onMed fun x => { x with ladders := x.ladders.filter (fun l => l.id != id) }
/-- The first logical block of a ladder, and how many it has. -/
def Ladder.lba (l : Ladder) : Nat := l.lbas.headD 0
def Ladder.nlb (l : Ladder) : Nat := l.lbas.length
/-- A ladder at its first rung for logical blocks of a page. -/
def mkLadder (id stamp nsid : Nat) (lbas : List Nat) (die block group lane : Nat) (input : Option Nat) : Ladder :=
  { id := id, stamp := stamp, nsid := nsid, lbas := lbas, die := die, block := block, group := group, lane := lane, rung := 1, tried := [],
    best := 0, bestUnsat := 0, around := false, turned := false, waiting := 0, input := input, sweep := false, res := none }

/-- A codec task of a ladder is placed: it hands the decode of its rung over at its end (01 R15, R16). -/
def Mach.wantCodec (l : Ladder) (m : Mach) : Mach :=
  m.place { mkTask .codec l.lane (dieAcre l.die) with stamp := l.stamp, die := l.die, req := l.id }

def Mach.driftOf (m : Mach) (key : Nat) : Nat := Tbl.get 8 key m.med.drift

/-- Set a group's drift index, recording a move (05 R283). -/
def Mach.setDrift (die key idx : Nat) (m : Mach) : Mach :=
  if m.driftOf key = idx then m
  else
    let b := key / 8
    (m.onMed fun x =>
      { x with drift := Tbl.put 8 key idx x.drift, driftUnsaved := if x.driftUnsaved.contains b then x.driftUnsaved else x.driftUnsaved ++ [b] }).record 0x050B idx (dieAcre die + 1)

/-! ## Aging (03 R158 to R161) -/

/-- T_ret interpolated linearly between the points of a profile at a mean P/E count: hours as a fraction. -/
def retHours (pe : Nat) : List (Nat × Nat) → Nat × Nat
  | [] => (0, 1)
  | [(_, h)] => (h, 1)
  | (p0, h0) :: (p1, h1) :: t =>
    if pe < p0 then (h0, 1)
    else if pe < p1 then (h0 * (p1 - p0) - (h0 - h1) * (pe - p0), p1 - p0)
    else retHours pe ((p1, h1) :: t)

/-- Retention consumed, in percent, rounded down (03 R158). `retent` counts 2^-20 of 1/60 h. -/
def Zone.consumed (p : Profile) (z : Zone) : Nat :=
  let t := retHours z.meanPe p.retention
  if t.1 = 0 then 0 else z.retent * 100 * t.2 / (t.1 * 60 * 1048576)

/-- Aging level (03 R161). -/
def agingOf (consumed corr : Nat) : Nat :=
  if 100 ≤ consumed ∨ corr = 0xFF then 3
  else if 80 ≤ consumed ∨ 6 ≤ corr then 2
  else if 50 ≤ consumed ∨ 4 ≤ corr then 1
  else 0

/-- Bring a zone's aging level up to date: a raised level is recorded and noticed (03 R134, R170). -/
def Mach.ageZone (nsid zi : Nat) (m : Mach) : Mach :=
  let z := m.zone nsid zi
  let new := agingOf (z.consumed (m.ns nsid).prof) z.maxCorr
  if new = z.aging then m
  else
    let m := m.updZone nsid zi fun z => { z with aging := new }
    let m := if z.aging < new then m.record 0x0307 new (bedAcre z.bed + 1) else m
    m.zoneNotice nsid zi

/-- A host read found a block of a headland namespace weak, where it corrected 5 bits in a grain or more, or needed a sheaf decode: the gleaner is to relocate it
(03 R165). -/
def Mach.noteWeak (nsid lba bits : Nat) (m : Mach) : Mach :=
  match m.locate nsid lba with
  | some (i, o) =>
    let e := (nsid, i, dataCol (m.zone nsid i).a i (rowOf (m.zone nsid i).a (m.ns nsid).unitLen o) (dcolOf (m.zone nsid i).a (m.ns nsid).unitLen o))
    if bits < 5 ∨ m.med.glean.contains e = true then m else m.onMed fun x => { x with glean := x.glean ++ [e] }
  | none => m

/-- Corrected bits of a host read, or of a sweep carried on one, enter byte 34 of the zone's extension (03 R159). -/
def Mach.noteCorr (nsid zi bits : Nat) (m : Mach) : Mach :=
  if (m.ns nsid).headland || (m.zone nsid zi).bound = false then m
  else (m.updZone nsid zi fun z => { z with maxCorr := Nat.max z.maxCorr bits }).ageZone nsid zi

/-! ## Starting a read -/

/-- A row of a zone is still in the seed bins (05 R242). -/
def Mach.inSeedBin (m : Mach) (nsid zi row : Nat) : Bool := !(m.rowUnits nsid zi row).isEmpty

/-- Put a logical block to those of its sheaf. -/
def addToSheaf (k : Option (Nat × Nat)) (b : Nat) : List (Option (Nat × Nat) × List Nat) → List (Option (Nat × Nat) × List Nat)
  | [] => [(k, [b])]
  | e :: t => if e.1 = k then (k, e.2 ++ [b]) :: t else e :: addToSheaf k b t

/-- The logical blocks that one ladder each serves: those of one sheaf, whichever they are (06 R294, R302). -/
def Mach.sheafGroups (m : Mach) (nsid : Nat) (lbas : List Nat) : List (List Nat) :=
  (lbas.foldl (fun acc b => addToSheaf ((m.locate nsid b).map fun p => (p.1, p.2 / 4)) b acc) []).map fun e => e.2

/-- The request lane of a command's reads of a block: lane 0 for a Read or Verify of a Tight zone (01 R17). -/
def Mach.readLane (m : Mach) (c : Cmd) (lba : Nat) : Nat :=
  let n := m.ns c.sqe.nsid.toNat
  if !n.headland && c.sqe.opc != 0x19 && (m.zone c.sqe.nsid.toNat (lba / n.zsze)).ext.tight then 0 else 1

/-- Active columns whose unit of a row was programmed and is not the target (06 R298, R299). -/
def Mach.rebuildCols (m : Mach) (nsid zi row ci : Nat) : List Nat :=
  let z := m.zone nsid zi
  let u := (m.ns nsid).unitLen
  (List.range z.a).filter fun c =>
    c != ci && (c == parityCol z.a zi row ||
      (let k := if c < parityCol z.a zi row then c else c - 1
       decide ((m.ns nsid).headland = true ∨ (row * (z.a - 1) + k) * u < z.dend)))

/-- Ask for a rebuild of a ladder's grains: one request that is granted whole (05 R267). -/
def Mach.wantRebuild (l : Ladder) (plot zi row ci : Nat) (m : Mach) : Mach :=
  let k := (m.rebuildCols l.nsid zi row ci).length
  m.wantAny { (mkReq l.die .read (.rebuild l.stamp l.id ci) l.block l.lane (k * 4 * l.nlb * 1054)) with
              pair := k, plots := if l.stamp = 0 then [] else onePlot plot, stamp := l.stamp }

/-- Where a ladder's page lies: zone, row and column. -/
def Mach.ladderAt (m : Mach) (l : Ladder) : Nat × Nat × Nat :=
  match m.locate l.nsid l.lba with
  | none => (0, 0, 0)
  | some (zi, o) =>
    let z := m.zone l.nsid zi
    let u := (m.ns l.nsid).unitLen
    let row := rowOf z.a u o
    (zi, row, dataCol z.a zi row (dcolOf z.a u o))

def Mach.plotOf (m : Mach) (stamp : Nat) : Nat := match m.cmd? stamp with | some c => c.plot | none => 0

/-- Go to rung 5: rebuild from the other columns, or fail when one of them is unreadable (06 R299, R301). The answer is
false when the rebuild cannot be made. -/
def Mach.startRebuild (l : Ladder) (m : Mach) : Bool × Mach :=
  let (zi, row, ci) := m.ladderAt l
  let z := m.zone l.nsid zi
  let cols := m.rebuildCols l.nsid zi row ci
  if cols.any (fun c => (z.colAt c).carried || m.dieOut (z.dieOf c)) then (false, m)
  else
    let l := { l with rung := 5, waiting := 0, around := false, res := none }
    (true, (m.updLadder l.id fun _ => l).wantRebuild l (m.plotOf l.stamp) zi row ci)

/-- Logical blocks are uncorrectable: event 0x0606 for each, and the channel's count (06 R309, R313, R332). -/
def Mach.uncorrectable (blocks die : Nat) (m : Mach) : Mach :=
  let m := m.updChan (dieChan die) fun c => { c with eccUnc := sat 4 (c.eccUnc + blocks) }
  (List.range blocks).foldl (fun m _ => m.record 0x0606 (dieBed die) (dieAcre die + 1)) m

/-- The Error Information and SMART entries of a command that found blocks uncorrectable; the lowest is named (06 R309). -/
def Mach.lostEntry (nsid : Nat) (lost : List Nat) (m : Mach) : Mach :=
  match lost with
  | [] => m
  | b :: t => m.onMed fun x => { x with errLog := x.errLog ++ [(nsid, t.foldl Nat.min b)], mediaErrs := x.mediaErrs + 1 }

/-- Command opcodes that move read data to the host or only check it. -/
def Cmd.isRead (c : Cmd) : Bool := c.sqe.opc == 0x02 || c.sqe.opc == 0x0C

/-- A ladder ends uncorrectable: its blocks are lost to its command, whose other ladders go on (06 R302, R309). -/
def Mach.ladderLost (l : Ladder) (m : Mach) : Mach :=
  let m := (m.dropLadder l.id).uncorrectable l.nlb l.die
  m.updCmd l.stamp fun c => { c with lostLbas := c.lostLbas ++ l.lbas }

/-- One ladder for the blocks of a sheaf, read from its die: its first read is asked for, or its rebuild when the
column is carried by parity (06 R299). -/
def Mach.dieLadder (stamp nsid lane : Nat) (lbas : List Nat) (m : Mach) : Mach :=
  match m.locate nsid (lbas.headD 0) with
  | none => m
  | some (zi, o) =>
    let z := m.zone nsid zi
    let u := (m.ns nsid).unitLen
    let row := rowOf z.a u o
    let ci := dataCol z.a zi row (dcolOf z.a u o)
    let blk := (z.colAt ci).blockOf row
    let die := z.dieOf ci
    let (i, m) := m.freshId
    let l := mkLadder i stamp nsid lbas die blk.1 (driftKey die blk.1 blk.2) lane none
    let m := m.onMed fun x => { x with ladders := x.ladders ++ [l] }
    if (z.colAt ci).carried || m.dieOut die then
      let r := m.startRebuild l
      if r.1 then r.2 else m.ladderLost l
    else m.want { (mkReq die .read (.host stamp i) blk.1 lane (4 * lbas.length * 1054)) with
                  slc := (m.ns nsid).headland, plots := onePlot (m.plotOf stamp), stamp := stamp }

/-- One ladder for the blocks of a sheaf; a row in the seed bins needs none (06 R311). -/
def Mach.startLadder (stamp nsid lane : Nat) (lbas : List Nat) (m : Mach) : Mach :=
  match m.locate nsid (lbas.headD 0) with
  | none => m
  | some (zi, o) =>
    if m.inSeedBin nsid zi (rowOf (m.zone nsid zi).a (m.ns nsid).unitLen o) then m else m.dieLadder stamp nsid lane lbas

/-- Start the ladders of a command's logical blocks. -/
def Mach.startReads (c : Cmd) (lbas : List Nat) (m : Mach) : Mach :=
  (m.sheafGroups c.sqe.nsid.toNat lbas).foldl (fun m g => m.startLadder c.stamp c.sqe.nsid.toNat (m.readLane c (g.headD 0)) g) m

/-! ## The end of a read -/

/-- A written block of the range: unwritten blocks read as zeros and are not decrypted (03 R150). -/
def Mach.written (m : Mach) (nsid lba : Nat) : Bool :=
  let n := m.ns nsid
  if n.headland then decide (Tbl.get 0 lba n.map ≠ 0)
  else if n.zsze = 0 then false
  else
    let z := m.zone nsid (lba / n.zsze)
    z.bound && decide (lba % n.zsze < z.dend)

def Mach.blk (m : Mach) (nsid lba : Nat) : Blk := Tbl.get Blk.init (bkey nsid lba) m.med.store

/-- Blocks of a range that do not decrypt under the key of the issuing plot (09 R429). -/
def Mach.badKey (m : Mach) (plot nsid lba n : Nat) : List Nat :=
  ((List.range n).map (fun i => lba + i)).filter fun a =>
    m.written nsid a && decide ((m.blk nsid a).key ≠ (m.plot plot).key)

/-- Ranges that a command reads: its own, or the sources of a Copy. -/
def Cmd.sources (c : Cmd) : List (Nat × Nat) :=
  if c.isRead then [(c.sqe.slba, c.sqe.nlb)] else if c.sqe.opc = 0x19 then c.sqe.ranges else []

/-- Bytes that a plot's successful reads moved to host memory (09 R438). -/
def Mach.countRead (plot bytes : Nat) (m : Mach) : Mach :=
  m.updPlot plot fun p => { p with acc := { p.acc with rd := p.acc.rd + bytes } }

/-- A command that reads ends with a status: a Copy as a write. -/
def Mach.failRead (c : Cmd) (st : Status) (m : Mach) : Mach := if c.isRead then m.failWith c.stamp st else m.failWrite c.stamp st

/-- Every ladder of a command has ended, and `bad` blocks failed their CRC-32C twice: it completes (06 R309, R310), a Read once the drill has sealed its
transfer (01 R36). A worker's data go to its manager with their stored grain CRCs, those of a Verify too (10 R475). -/
def Mach.endRead (c : Cmd) (bad : List Nat) (m : Mach) : Mach :=
  let nsid := c.sqe.nsid.toNat
  let m := if bad.isEmpty then m else m.record 0x0609 c.plot 0
  let m := m.lostEntry nsid c.lostLbas
  if !bad.isEmpty || !c.lostLbas.isEmpty then m.failRead c St.unrecovered
  else if !c.isRead then m
  else if c.status ≠ Status.ok then m.failWith c.stamp c.status
  else if c.sqe.opc = 0x02 ∧ m.sealedAll c (4096 * c.sqe.nlb) = false then m
  else if c.sqe.opc = 0x02 ∨ m.hitch.role = 2 then
    let at_ := (List.range c.sqe.nlb).map fun i => if m.written nsid (c.sqe.slba + i) then m.blk nsid (c.sqe.slba + i) else Blk.init
    (m.updCmd c.stamp fun k =>
      { k with outBlocks := at_.map fun b => b.data,
               crcs := if m.hitch.role = 2 then at_.flatMap fun b => (List.range 4).map fun i => b.crcs.getD i 0 else [] }).succeed c.stamp
  else m.succeed c.stamp

/-- All the data of a read are there: the drill decrypts and checks them, runs the read once more from a new sense on a
CRC-32C mismatch, and completes it (06 R310). -/
def Mach.finishRead (c : Cmd) (m : Mach) : Mach :=
  let nsid := c.sqe.nsid.toNat
  let bad := (c.sources.flatMap (fun r => m.badKey c.plot nsid r.1 r.2)).filter (fun b => !c.lostLbas.contains b)
  if bad.isEmpty || c.resensed then m.endRead c bad
  else
    let m := m.updCmd c.stamp fun k => { k with resensed := true, sealed := 0, phaseDone := false }
    let m := m.startReads c bad
    if m.med.ladders.any (fun l => l.stamp == c.stamp) then m
    else match m.cmd? c.stamp with
      | some k => m.endRead k (bad.filter (fun b => !k.lostLbas.contains b))
      | none => m

/-- Nothing of a command is left on media: its read ends. -/
def Mach.readStep (stamp : Nat) (m : Mach) : Mach :=
  match m.cmd? stamp with
  | none => m
  | some c =>
    if m.med.ladders.any (fun l => l.stamp == stamp) || m.liveDescs stamp || decide (c.reloads ≠ 0) then m
    else if c.isRead && c.stage == .media && !c.caught then m.finishRead c
    else if c.sqe.opc == 0x19 && c.stage != .done && c.stage != .finished then m.finishRead c
    else m

/-- An entry that a command waited for has been reloaded. -/
def Mach.reloadEnds (stamp : Nat) (m : Mach) : Mach := (m.updCmd stamp fun k => { k with reloads := k.reloads - 1 }).readStep stamp

/-- Ask for the read of the headland journal that holds a map entry; the spec does not say on which die of the bed it lies, and the model takes the lowest that is
in service (DESIGN CHOICE: notes/assumptions/135). -/
def Mach.wantReload (stamp key : Nat) (m : Mach) : Mach :=
  match (bedDies (m.zone (key / 2 ^ 44) 0).bed).find? m.dieUp with
  | some die => m.want { (mkReq die .read (.mapReload stamp key) 0 1 16384) with slc := true, plots := [(1024, 1)] }
  | none => m.reloadEnds stamp

/-- A ladder ends uncorrectable, and the read goes on to its end. -/
def Mach.ladderFails (l : Ladder) (m : Mach) : Mach := (m.ladderLost l).readStep l.stamp

/-- An input of a rebuild cannot deliver: a read-around is abandoned and its read goes back to the target die (05 R270);
a rung-5 rebuild fails (06 R299). -/
def Mach.inputFailed (parent failed : Nat) (m : Mach) : Mach :=
  let m := m.onMed fun x => { x with ladders := x.ladders.filter (fun l => l.input != some parent) }
  match m.ladder? parent with
  | none => m
  | some p =>
    if p.around then
      let m := m.record 0x050A failed (dieAcre p.die + 1)
      let p := { p with around := false, turned := true, rung := 1, waiting := 0, res := none }
      let m := m.updLadder p.id fun _ => p
      if m.dieOut p.die then
        let r := m.startRebuild p
        if r.1 then r.2 else m.ladderFails p
      else m.post { (mkReq p.die .read (.host p.stamp p.id) p.block p.lane (4 * p.nlb * 1054)) with
                    plots := onePlot (m.plotOf p.stamp), stamp := p.stamp }
    else m.ladderFails p

/-- A ladder delivers every grain it needs: an input hands them to its rebuild, whose codec task follows the last one; any other ends its part of
the read. -/
def Mach.ladderGood (l : Ladder) (m : Mach) : Mach :=
  let m := m.dropLadder l.id
  match l.input with
  | some p =>
    let m := m.updLadder p fun x => { x with waiting := x.waiting - 1 }
    (match m.ladder? p with
     | some q => if q.waiting = 0 then m.wantCodec q else m
     | none => m)
  | none => m.readStep l.stamp

/-! ## Read levels (05 R274, R275) -/

/-- The group's index moves by the errors of a host read (05 R274). -/
def driftStep (idx : Nat) (r : DecodeResult) : Nat :=
  let n := r.corr.length
  let bits := sumBy (fun b => b) r.corr
  if n ≠ 0 ∧ 2 * n ≤ bits then
    if 2 * r.high ≤ r.low then Nat.min (idx + 1) 63 else if 2 * r.low ≤ r.high then idx - 1 else idx
  else idx

/-- A delivered host read of a native-mode page moves its group's index (05 R274). -/
def Mach.noteLevels (l : Ladder) (r : DecodeResult) (m : Mach) : Mach :=
  if (m.ns l.nsid).headland then m else m.setDrift l.die l.group (driftStep (m.driftOf l.group) r)

/-- Bits that a read corrected and the grains among which they lay: those of the grains that the inner code decoded, or of the whole sheaf. -/
def bitsOf (r : DecodeResult) : Nat × Nat :=
  if r.corr.isEmpty || decide (r.failed ≠ 0) then (r.sheafBits, 16) else (sumBy (fun b => b) r.corr, r.corr.length)

/-- Drift indices of a sweep's level reads: those two and one below and above the present one, within 0 to 63, with their positions (05 R275). -/
def sweepIdx (cur : Nat) : List (Nat × Nat) :=
  ([(cur + 64 - 2, 0), (cur + 64 - 1, 1), (cur + 64 + 1, 2), (cur + 64 + 2, 3)].filter (fun e => decide (64 ≤ e.1) && decide (e.1 ≤ 127))).map
    fun e => (e.1 - 64, e.2)

/-- A host read of a group triggers a level sweep, granted after its command has finished (05 R275). -/
def Mach.noteSweep (l : Ladder) (r : DecodeResult) (m : Mach) : Mach :=
  let last := Tbl.get 0 l.group m.med.lastSweep
  let old := decide (last = 0 ∨ last + 86400 < m.lifeSec + 1)
  if (old || decide (4 * (bitsOf r).2 ≤ (bitsOf r).1)) && !m.med.sweepDue.contains l.group then
    let k := (sweepIdx (m.driftOf l.group)).length
    (m.onMed fun x => { x with sweepDue := x.sweepDue ++ [l.group] }).want
      { (mkReq l.die .levelRead (.sweep l.group l.stamp) l.block 3 (k * 18432)) with
        pair := k, slc := (m.ns l.nsid).headland, plots := onePlot (m.plotOf l.stamp) }
  else m

/-! ## Rungs (06 R302 to R307) -/

/-- Drift indices that rung 3 tries: within 0 to 63 and not tried already (06 R303). -/
def Mach.nextLevel (m : Mach) (l : Ladder) : Option Nat :=
  let i := m.driftOf l.group
  ([i + 1] ++ (if i = 0 then [] else [i - 1]) ++ [i + 2]).find? (fun j => decide (j ≤ 63) && !l.tried.contains j)

/-- Ask for a re-read pair of rung 3, or both pairs of rung 4 (06 R303, R304). -/
def Mach.wantLevels (l : Ladder) (pairs : Nat) (m : Mach) : Mach :=
  m.want { (mkReq l.die .levelRead (.host l.stamp l.id) l.block l.lane (pairs * 18432)) with
           pair := pairs, slc := (m.ns l.nsid).headland, plots := onePlot (m.plotOf l.stamp), stamp := l.stamp }

/-- The end of the table: the stripe rebuild, or uncorrectable. An input goes no further (06 R299). -/
def Mach.climbFive (l : Ladder) (m : Mach) : Mach :=
  match l.input with
  | some p => m.inputFailed p 1
  | none =>
    let r := m.startRebuild l
    if r.1 then r.2 else m.ladderFails l

/-- The rung after rung 2 or a re-read of rung 3. -/
def Mach.climbThree (l : Ladder) (m : Mach) : Mach :=
  if l.input.isSome then m.climbFive l
  else if m.dieOut l.die then m.climbFive l
  else match (if l.tried.length < 3 then m.nextLevel l else none) with
    | some j =>
      let l := { l with rung := 3, tried := l.tried ++ [j] }
      (m.updLadder l.id fun _ => l).wantLevels l 1
    | none =>
      let l := { l with rung := 4 }
      (m.updLadder l.id fun _ => l).wantLevels l 2

/-- The die is held for its page register (06 R305). -/
def Mach.heldPage (m : Mach) (d : Die) : Bool := decide (d.holdFor ≠ 0) && (m.ladder? d.holdFor).isSome

/-- Twice the drift indices whose levels the reads of a grant use, in order (05 R273, R275; 06 R303, R304). Those of rung 4 lie midway between the best
re-read's index and its neighbours; at either end of the table the missing neighbour is the end itself (DESIGN CHOICE: notes/assumptions/124). -/
def Mach.levelSeq (m : Mach) (r : SlotReq) : List Nat :=
  match r.purp with
  | .host _ id =>
    (match m.ladder? id with
     | none => []
     | some l =>
       if r.op = .read then [2 * m.driftOf l.group]
       else if l.rung = 4 then [2 * l.best - 1, Nat.min 126 (2 * l.best + 1)]
       else [2 * l.tried.getLastD (m.driftOf l.group)])
  | .sweep g _ => (sweepIdx (m.driftOf g)).map fun e => 2 * e.1
  | _ => []

/-- The levels that a read uses: its group's index and the temperature of its channel group (05 R273). -/
def Mach.setLevels (die : Nat) (r : SlotReq) (m : Mach) : Mach :=
  let seq := m.levelSeq r
  match seq[seq.length - (r.left / 2 + 1)]? with
  | none => m
  | some i2 =>
    let ls := (m.bed (dieBed die)).prof.shifts i2 (m.senseAt (chanGroup (dieChan die))).temp
    m.updDie die fun d => { d with lvl2 := i2, levels := ls }

/-- Start the next read granted behind the one that ended (05 R265), unless the die is held or its channel retrains (01 R49). -/
def Mach.nextQueued (die : Nat) (m : Mach) : Mach :=
  let d := m.die die
  match d.queued with
  | [] => m
  | r :: t =>
    if m.heldPage d || d.op.isSome || d.timedOut.isSome || (m.chan (dieChan die)).training || !(d.st == .idle || d.st == .suspended) then m
    else (m.updDie die fun d =>
      { d with queued := t, op := some r, issuedAt := m.clk.now, polledAt := none, slc := r.slc,
               st := if d.st = .suspended then .suspReading else .reading }).setLevels die r

/-- Release the die that a ladder holds for its page register (06 R305); a sense granted behind it starts (05 R265). -/
def Mach.releaseDie (die ladder : Nat) (m : Mach) : Mach :=
  if (m.die die).holdFor = ladder then (m.updDie die fun d => { d with holdFor := 0 }).nextQueued die else m

/-- Rungs of a channel's common ladder that its VCCQ allows, highest first (05 R226 to R228). -/
def Chan.allowed (c : Chan) : List (Nat × Nat) := c.ladder.filter fun r => modeAllows c.vccq12 r.1 r.2
/-- The allowed rung next below a rung. -/
def Chan.under (c : Chan) (r : Nat × Nat) : Option (Nat × Nat) := ((c.allowed.dropWhile fun k => k != r).drop 1).head?
/-- The next lower allowed rung, or none at the safe rate (05 R228). -/
def Chan.lower (c : Chan) : Option (Nat × Nat) := c.under (c.mode, c.rate)

/-- The channel takes no grant: it is being retrained (01 R49), or its pattern check after PS4 is still to come (11 R503). -/
def Chan.shut (c : Chan) : Bool := c.training || c.unchecked

/-- Interface errors counted within the 1,000 passes that end now (05 R233). -/
def Chan.errsIn (c : Chan) (pass : Nat) : List Nat := c.errPasses.filter fun p => decide (pass < p + 1000)

/-- A channel interface error is counted; the fourth within 1,000 consecutive passes starts a retrain (05 R233, 01 R49), for which NFcc_WP_N goes
low at the safe rate (05 R231). -/
def Mach.ifError (c : Cfg) (ch kind : Nat) (m : Mach) : Mach :=
  let x := m.chan ch
  if x.training || x.failed then m
  else
    let l := x.errsIn m.grid.passes ++ [m.grid.passes]
    let m := (m.updChan ch fun x => { x with errPasses := l }).record 0x0500 kind (chanAcre ch + 1)
    if 4 ≤ l.length then
      let m := m.updChan ch fun x =>
        { x with errPasses := [], training := true, retrains := sat 8 (x.retrains + 1), inService := x.inService && x.lower.isSome }
      (List.range 32).foldl (fun m b => m.updWd c (32 * chanAcre ch + b)) m
    else m

/-- What the corrected bits of a host read mean for the zone or the headland block read (03 R159, R165). -/
def Mach.noteRead (l : Ladder) (zi bits : Nat) (m : Mach) : Mach :=
  if (m.ns l.nsid).headland then m.noteWeak l.nsid l.lba bits else m.noteCorr l.nsid zi bits

/-- Rung 1 of a ladder has its result (06 R302, R305, R332). -/
def Mach.rungOne (c : Cfg) (l : Ladder) (r : DecodeResult) (m : Mach) : Mach :=
  let src := dieAcre l.die + 1
  let m := r.corr.foldl (fun m b => if b = 0 then m else m.record 0x0600 b src) m
  let m := m.updChan (dieChan l.die) fun x =>
    { x with eccBits := sat 32 (x.eccBits + sumBy (fun b => b) r.corr),
             eccMax := Nat.max x.eccMax (r.corr.foldl Nat.max 0) }
  let m := if r.failed = 0 then m else m.record 0x0601 r.failed src
  let m := if l.input.isSome then m else r.metas.foldl (fun m k => m.record 0x0607 k src) m
  let m := if 8 ≤ r.failed ∧ r.rereadOk = true then m.ifError c (dieChan l.die) 3 else m
  let (zi, _, _) := m.ladderAt l
  if r.erased then
    ((m.record 0x0608 (dieBed l.die) src).releaseDie l.die l.id).climbFive l
  else if r.failed = 0 ∧ (r.metas = [] ∨ l.input.isSome = true) then
    let m := m.releaseDie l.die l.id
    let m := if l.input.isSome then m else ((m.noteLevels l r).noteSweep l r).noteRead l zi (r.corr.foldl Nat.max 0)
    m.ladderGood l
  else
    match l.input, (match l.input with | some p => (m.ladder? p).map (fun q => q.around) | none => none) with
    | some p, some true => (m.releaseDie l.die l.id).inputFailed p r.failed
    | _, _ => (m.updLadder l.id fun x => { x with rung := 2 }).wantCodec l

/-- Rung 2, a re-read of rung 3 or the soft decode of rung 4 has its result. -/
def Mach.rungSheaf (l : Ladder) (r : DecodeResult) (m : Mach) : Mach :=
  let src := dieAcre l.die + 1
  let (zi, _, _) := m.ladderAt l
  let m := m.releaseDie l.die l.id
  let m := if l.input.isSome then m else m.noteRead l zi 0xFF
  let m := if l.input.isSome then m else r.metas.foldl (fun m k => m.record 0x0607 k src) m
  let good := (r.sheaf || (l.rung = 3 && r.failed = 0)) && !r.erased && (r.metas.isEmpty || l.input.isSome)
  if good then
    let m := m.updChan (dieChan l.die) fun x => { x with eccSheaf := sat 12 (x.eccSheaf + 1) }
    let m := if l.input.isSome then m else m.noteSweep l r
    if l.rung = 2 then
      let m := m.record 0x0602 r.sheafBits src
      (if l.input.isSome then m else m.noteLevels l r).ladderGood l
    else if l.rung = 3 then
      ((m.record 0x0603 l.tried.length src).setDrift l.die l.group (l.tried.getLastD (m.driftOf l.group))).ladderGood l
    else ((m.record 0x0604 r.sheafBits src).setDrift l.die l.group l.best).ladderGood l
  else if l.rung = 4 ∨ r.erased = true then m.climbFive l
  else if l.rung = 3 then
    let j := l.tried.getLastD 0
    let better := decide (l.tried.length = 1) || decide (r.unsat < l.bestUnsat) ||
      (decide (r.unsat = l.bestUnsat) && decide (j < l.best))
    let l := if better then { l with best := j, bestUnsat := r.unsat } else l
    (m.updLadder l.id fun _ => l).climbThree l
  else
    let l := { l with best := m.driftOf l.group }
    (m.updLadder l.id fun _ => l).climbThree l

/-- The XOR of a rebuild is known (06 R300): it delivers, or the read-around is abandoned, or the blocks are uncorrectable. -/
def Mach.rungRebuild (l : Ladder) (r : DecodeResult) (m : Mach) : Mach :=
  let src := dieAcre l.die + 1
  let m := r.metas.foldl (fun m k => m.record 0x0607 k src) m
  if r.failed = 0 ∧ r.metas = [] then
    if l.around then
      let (zi, _, _) := m.ladderAt l
      let us := match m.cmd? l.stamp with | some c => m.usSince c.fetchedAt | none => 0
      let m := m.updBed (dieBed l.die) fun b => { b with arounds := b.arounds + 1 }
      ((m.updZone l.nsid zi fun z => { z with around := true }).record 0x0509 us src).ladderGood l
    else
      let m := m.updChan (dieChan l.die) fun x => { x with eccRebuild := sat 12 (x.eccRebuild + 1) }
      (m.record 0x0605 (4 * l.nlb) src).ladderGood l
  else if l.around then m.inputFailed l.id r.failed
  else m.ladderFails l

/-- A decode result of a rung is known (06 R302). -/
def Mach.decodeDone (c : Cfg) (id : Nat) (r : DecodeResult) (m : Mach) : Mach :=
  match m.ladder? id with
  | none => m
  | some l =>
    if l.waiting ≠ 0 then m
    else if l.rung = 5 ∨ l.around = true then m.rungRebuild l r
    else if l.rung = 1 then m.rungOne c l r
    else m.rungSheaf l r

/-! ## Dies marked failed (01 R52) -/

/-- Dies of the other columns of a ladder's row. -/
def Mach.rebuildDies (m : Mach) (l : Ladder) : List Nat :=
  let (zi, row, ci) := m.ladderAt l
  (m.rebuildCols l.nsid zi row ci).map (m.zone l.nsid zi).dieOf

/-- What becomes of a read request of a die that is marked failed: a read of the die climbs to the rebuild, and a rebuild that would read it ends as
failed (01 R52; 06 R299). -/
def Mach.handBack (r : SlotReq) (m : Mach) : Mach :=
  match r.purp with
  | .host _ id =>
    match m.ladder? id with
    | some l =>
      (match l.input with
       | some p => m.inputFailed p 0
       | none => m.climbFive l)
    | none => m
  | .rebuild _ id _ =>
    (match m.ladder? id with
     | some l => m.ladderFails l
     | none => m)
  | .mapReload st key => m.wantReload st key
  | _ => m

/-- A die is marked failed (01 R51, R52). -/
def Mach.markFailed (c : Cfg) (die : Nat) (m : Mach) : Mach :=
  if (m.die die).failed then m
  else
    let d := m.die die
    let isRead := fun (r : SlotReq) => match r.purp with
      | .host _ _ => r.die == die
      | .rebuild _ id _ => (match m.ladder? id with | some l => (m.rebuildDies l).contains die | none => false)
      | .mapReload _ _ => r.die == die
      | _ => false
    let posted := (m.med.reqs ++ m.med.wants).filter isRead
    let running := d.op.toList ++ d.queued ++ d.timedOut.toList
    let m := m.onMed fun x => { x with reqs := x.reqs.filter (fun r => !isRead r), wants := x.wants.filter (fun r => !isRead r) }
    let m := m.dieFailedMedia c die
    (posted ++ running).foldl (fun m r => m.handBack r) m

/-- Codec tasks of a ladder that wait or run. -/
def Mach.codecWaits (m : Mach) (id : Nat) : Bool :=
  let mine := fun (k : Task) => k.kind == .codec && k.unit_.isNone && k.req == id
  m.retry.any mine || m.tines.any fun (e : Nat × Tine) => (e.2.l0 ++ e.2.l1 ++ e.2.l2 ++ e.2.l3 ++ e.2.running.toList).any mine

/-- The tine that runs a ladder's codec task. -/
def Mach.codecTine (m : Mach) (id : Nat) : Option Nat :=
  (m.tines.find? fun (e : Nat × Tine) => e.2.running.any fun k => k.kind == .codec && k.unit_.isNone && k.req == id).map (fun e => e.1)

/-- The end of a ladder's codec task hands over the decode of its rung (01 R15). -/
def Mach.codecEnd (c : Cfg) (id : Nat) (m : Mach) : Mach :=
  match (m.ladder? id).bind (fun l => l.res) with
  | some r => (m.updLadder id fun l => { l with res := none }).decodeDone c id r
  | none => m

/-- The page register is wanted no more: every needed grain has decoded, or none will be decoded from the page, or the rung-2 transfer has ended (06 R292,
R305). -/
def Ladder.pageDone (l : Ladder) (r : DecodeResult) : Bool :=
  decide (2 ≤ l.rung) || r.erased || (decide (r.failed = 0) && (r.metas.isEmpty || l.input.isSome))

/-- DECODE_DONE (06 R302): the result of a rung is known and releases the die where the page is wanted no more. A codec task that runs for the ladder ends
with it, and hands it over; a task that waits hands it over at its end (01 R15). -/
def execDecodeDone (ladder : Nat) (result : DecodeResult) (s : State) : Host.Outcome State Fault Refusal :=
  .next (s.on fun c m =>
    match m.ladder? ladder with
    | none => m
    | some l =>
      if l.waiting ≠ 0 ∨ m.codecWaits ladder = false then m
      else
        let m := m.updLadder ladder fun l => { l with res := some result }
        let m := if l.pageDone result then m.releaseDie l.die l.id else m
        match m.codecTine ladder with
        | some t => (m.setTine t { m.tine t with running := none }).codecEnd c ladder
        | none => m)

/-- The zone that holds a block of a die. -/
def Mach.zoneOfBlock (m : Mach) (die block : Nat) : Option (Nat × Nat) :=
  ((m.zonesOn (dieBed die)).find? fun e =>
    match e.2.2.colOn die with
    | some ci => (e.2.2.colAt ci).blocks.any fun b => b.1 == block
    | none => false).map fun e => (e.1, e.2.1)

/-- The index with the fewest corrected bits of a sweep's level reads: nearer the present index on a tie, then lower
(05 R275). -/
def sweepBest (cur : Nat) (l : List (Nat × Nat)) : Option Nat :=
  (l.foldl (fun (best : Option (Nat × Nat)) e =>
    let dist := fun (i : Nat) => if i < cur then cur - i else i - cur
    match best with
    | none => some e
    | some b =>
      if e.2 < b.2 ∨ (e.2 = b.2 ∧ (dist e.1 < dist b.1 ∨ (dist e.1 = dist b.1 ∧ e.1 < b.1))) then some e else some b) none).map
    (fun b => b.1)

/-- LEVEL_SWEEP (05 R275): the four level reads of a sweep that is due have ended and give their corrected bits, at idx - 2, idx - 1, idx + 1
and idx + 2; those outside 0 to 63 are not made. `maxBits` is the largest number of bits that they corrected in one grain, which enters the maximum of the
block's zone (03 R159). -/
def execLevelSweep (die block group : Nat) (bitsAtIdx : List Nat) (maxBits : Nat) (s : State) : Host.Outcome State Fault Refusal :=
  .next (s.on fun _ m =>
    let key := (die * 8192 + block) * 8 + group
    if m.med.sweepRead.contains key && decide (group < 8) && decide (block < 8192) then
      let cur := m.driftOf key
      let levels := (sweepIdx cur).map fun e => (e.1, bitsAtIdx.getD e.2 0)
      let new := (sweepBest cur levels).getD cur
      let m := m.onMed fun x =>
        { x with sweepDue := x.sweepDue.filter (fun k => k != key), sweepRead := x.sweepRead.filter (fun k => k != key),
                 lastSweep := Tbl.put 0 key (m.lifeSec + 1) x.lastSweep }
      let m := m.updDie die fun d => { d with sweeps := sat 16 (d.sweeps + 1) }
      let m := match m.zoneOfBlock die block with
        | some z => m.noteCorr z.1 z.2 maxBits
        | none => m
      ((m.setDrift die key new).controlWrite (dieAcre die)).record 0x050C (if new < cur then cur - new else new - cur) (dieAcre die + 1)
    else m)

end Sys2Proof.Machine
end

