-- ==== Sys2Proof/Machine/DieOps.lean ====
section
/-! DEFINITION. Die operations (05 R243 to R263): issue, status polls, ready, time-outs and recovery, erase suspend and resume, channel
retrains (01 R49) and the controller's Finish (03 R151). -/

namespace Sys2Proof.Machine

/-! ## States -/

def DieState.isSusp : DieState → Bool
  | .suspended | .suspReading | .suspProgramming => true
  | _ => false

/-- State entered when an operation is issued (05 R243). -/
def issuedState (st : DieState) : DieOp → DieState
  | .read | .levelRead | .setFeatures | .getFeatures | .readId | .readParam => if st = .suspended then .suspReading else .reading
  | .program => if st = .suspended then .suspProgramming else .programming
  | .erase | .resume => .erasing
  | .suspend => .suspending
  | .reset => .resetting

/-- Running time at an edge of the operation in progress, in edges; an erase counts its earlier slices (05 R246). -/
def Die.ranAt (d : Die) (edge : Nat) : Nat :=
  (edge - d.issuedAt) + (match d.op with | some r => (if r.op = .erase ∨ r.op = .resume then d.ranFor else 0) | none => 0)
def Mach.ranEdges (m : Mach) (d : Die) : Nat := d.ranAt m.clk.now

/-- Profile Min and time-out of a die's operation in datapath edges (05 R236, R245, R246). -/
def Mach.minEdges (m : Mach) (die : Nat) (r : SlotReq) : Nat := ((m.bed (dieBed die)).prof.figure r.op r.slc).min2 * Config.edgesPerUs / 2
def Mach.timeoutEdges (m : Mach) (die : Nat) (r : SlotReq) : Nat := ((m.bed (dieBed die)).prof.figure r.op r.slc).timeout * Config.edgesPerUs

/-! ## Media Guard (05 R278 to R282) -/

/-- The sector's write-protect bit is 1; no bit is cleared but by a window. -/
def Mach.guarded (m : Mach) (boot : Bool) (sector : Nat) : Bool :=
  if boot then ((Tbl.get 0xFFFFFFFF#32 (sector / 32) m.med.bootWp).getLsbD (sector % 32))
  else ((Tbl.get 0xFF#8 (sector / 8) m.med.wp).getLsbD (sector % 8))

/-- Set a sector's write-protect bit and close its window. -/
def Mach.protect (boot : Bool) (sector : Nat) (m : Mach) : Mach :=
  let m := m.onMed fun x => { x with windows := x.windows.filter (fun w => !(w.boot == boot && w.sector == sector)) }
  if boot then m.onMed fun x => { x with bootWp := Tbl.upd 0xFFFFFFFF#32 (sector / 32) (fun b => b ||| (1#32 <<< (sector % 32))) x.bootWp }
  else m.onMed fun x => { x with wp := Tbl.upd 0xFF#8 (sector / 8) (fun b => b ||| (1#8 <<< (sector % 8))) x.wp }

/-- Media Guard refuses a program or erase (05 R278, R282). -/
def Mach.guardRefuse (boot : Bool) (sector : Nat) (m : Mach) : Mach :=
  ((m.onMed fun x => { x with refused := sat 16 (x.refused + 1), refBoot := boot, refLast := sector % 32768 }).hubInt 12).record
    0x050D (sector % 32768) (if boot then 0 else dieAcre (sector / 8) + 1)

/-- A program or erase on a headland sector: refused while the sector is protected, otherwise it uses up one operation of the
sector's window (05 R279). The answer says whether it goes on. -/
def Mach.guardUse (boot : Bool) (sector : Nat) (m : Mach) : Bool × Mach :=
  if m.guarded boot sector then (false, m.guardRefuse boot sector)
  else
    let m := m.onMed fun x =>
      { x with windows := x.windows.map fun w => if w.boot = boot ∧ w.sector = sector then { w with ops := w.ops - 1 } else w }
    if m.med.windows.any (fun w => w.boot == boot && w.sector == sector && w.ops == 0) then (true, m.protect boot sector)
    else (true, m)

/-- A management core opens a window of `ops` operations and 250 ms on a sector (05 R279). -/
def Mach.openWindow (boot : Bool) (sector ops : Nat) (m : Mach) : Mach :=
  let m := m.onMed fun x =>
    { x with windows := x.windows.filter (fun w => !(w.boot == boot && w.sector == sector)) ++
               [{ boot := boot, sector := sector, ops := ops, closes := m.clk.now + 250 * Config.edgesPerMs }] }
  if boot then m.onMed fun x =>
    { x with bootWp := Tbl.upd 0xFFFFFFFF#32 (sector / 32) (fun b => b &&& ~~~(1#32 <<< (sector % 32))) x.bootWp }
  else m.onMed fun x => { x with wp := Tbl.upd 0xFF#8 (sector / 8) (fun b => b &&& ~~~(1#8 <<< (sector % 8))) x.wp }

/-! ## The Yield Book journal (14 R608) -/

/-- A program or an erase of a headland block of a die is asked for, its window open (05 R278, R279). -/
def Mach.headWrite (die block : Nat) (op : DieOp) (unit : Bool) (m : Mach) : Mach :=
  let sector := 8 * die + block
  (m.openWindow false sector 1).want { (mkReq die op (.headland sector unit) block 2 73728) with slc := true, plots := [(1024, 1)] }

/-- Journal units of 64 KiB of a block: its pSLC pages on every plane (05 R238). The journal's dies are of bed 0 of their acres. -/
def Mach.journalBlockUnits (m : Mach) : Nat := (m.bed 0).prof.planes * ((m.bed 0).prof.pages / (m.bed 0).prof.bits) / 4

/-- The four blocks of a copy, taken one after another: headland blocks 2 and 3 of the dies at position 0 on local channels 0 and 1 of its acre (14 R608). -/
def journalDie (acre k : Nat) : Nat := 32 * (16 * acre + k / 2 % 2)
def journalBlock (k : Nat) : Nat := 2 + k % 2

/-- Dies on which the next journal unit is programmed: one in acre 0 and one in acre 1 (14 R608). -/
def Mach.journalDies (m : Mach) : List Nat :=
  ([0, 1].map fun a => journalDie a (m.ybk.unitsDone / m.journalBlockUnits)).filter m.dieUp

/-- A unit is in the journal. -/
def Mach.journalUnit (images : List (Nat × Rec)) (m : Mach) : Mach :=
  let newBlock := decide (m.ybk.unitsDone % m.journalBlockUnits = 0)
  m.onYbk fun y =>
    { y with unitsDone := y.unitsDone + 1, journalFree := y.journalFree - (if newBlock then 1 else 0),
             journalOld := images.foldl (fun t e => Tbl.put Rec.init e.1 (Tbl.get Rec.init e.1 y.journal) t) y.journalOld,
             journal := images.foldl (fun t e => Tbl.put Rec.init e.1 e.2 t) y.journal }

/-- With one free block left the last images are written again and each copy's oldest block is erased (14 R608). -/
def Mach.compact (m : Mach) : Mach :=
  if m.ybk.journalFree ≠ 1 then m
  else
    let n := m.ybk.journal.length
    let k := m.ybk.unitsDone / m.journalBlockUnits
    let m := m.journalDies.foldl (fun m d =>
      (List.range (ceilDiv n 256)).foldl (fun m _ => m.headWrite d (journalBlock k) .program false) m) m
    let m := ([0, 1].filter m.acreUp).foldl (fun m a => m.headWrite (journalDie a (k + 1)) (journalBlock (k + 1)) .erase false) m
    (m.onYbk fun y => { y with unitsDone := y.unitsDone + ceilDiv n 256, journalFree := y.journalFree + 1 }).record 0x0E02 n 0

/-- A copy of the unit that is being programmed is in the journal; the last one ends the unit. -/
def Mach.journalDone (die : Nat) (m : Mach) : Mach :=
  if !m.ybk.copies.contains die then m
  else
    let left := m.ybk.copies.erase die
    let unit := m.ybk.unit
    if left.isEmpty then ((m.onYbk fun y => { y with unit := [], copies := [], unitSafe := false }).journalUnit unit).compact
    else m.onYbk fun y => { y with copies := left, unitSafe := true }

/-! ## Issue (02 R97) -/

/-- The first operation of a grant: the level reads of re-reads and sweeps each follow a Set Features of their levels (05 R237; 06 R303, R304). -/
def SlotReq.first (r : SlotReq) : SlotReq := if r.op = .levelRead then { r with op := .setFeatures, left := 2 * r.pair - 1 } else r

/-- A granted operation is issued to its die on its issue edge: the unit or the erase it carries out is marked, the levels of a read are set, and the state is
entered. -/
def Mach.issueOp (die : Nat) (r : SlotReq) (m : Mach) : Mach :=
  let m := (m.updChan (dieChan die) fun x => { x with ce := posCe (diePos die), lun := posLun (diePos die) }).setLevels die r.first
  let m := m.updDie die fun d =>
    { d with st := issuedState d.st r.op, op := some r.first, issuedAt := d.issueAt, granted := false, polledAt := none, slc := r.slc,
             ranFor := if r.op = .erase then 0 else d.ranFor, suspends := if r.op = .erase then 0 else d.suspends,
             susp := if r.op = .resume then none else d.susp }
  match r.purp with
  | .unit nsid zi row col =>
    let m := (m.updUnit nsid zi row col fun u => { u with issued := true }).readUnit nsid zi row col
    let m := m.updZone nsid zi fun z => z.updCol (unitCol z.a zi row col) fun c => { c with next := row + 1 }
    m.updBed (dieBed die) fun b => { b with programs := b.programs + 1 }
  | .till _ =>
    if r.op = .erase ∨ r.op = .resume then m.updBed (dieBed die) fun b => { b with slices := b.slices + 1 } else m
  | _ => m

/-- Suspend the erase that runs on a die: the suspend is issued on an edge (05 R259, R246). -/
def Mach.suspendDie (die edge : Nat) (m : Mach) : Mach :=
  match (m.die die).op with
  | some r => m.updDie die fun d =>
      { d with st := .suspending, ranFor := d.ranAt edge, susp := some r, suspGranted := false, issuedAt := edge, polledAt := none,
               op := some { r with op := .suspend } }
  | none => m

/-- OP_ISSUE (02 R97): on its issue edge, the suspend granted on an erasing die, or the granted operation; Media Guard refuses a headland write
outside a window (05 R278), which opens a further one (R279). Nothing is issued on a channel that is being retrained (01 R49). -/
def execOpIssue (die at_ : Nat) (s : State) : Host.Outcome State Fault Refusal :=
  .next (s.on fun _ m =>
    let d := m.die die
    let m := m.advance (if d.granted || d.suspGranted then Nat.max at_ d.issueAt else at_)
    if !m.acreUp (dieAcre die) || !decide (die < m.nDies) || (m.chan (dieChan die)).training then m
    else if d.suspGranted then m.suspendDie die d.issueAt
    else if !d.granted then m
    else match d.op with
      | none => m
      | some r =>
        match r.purp with
        | .headland sector unit =>
          if r.op = .program ∨ r.op = .erase then
            let g := m.guardUse false sector
            if g.1 then g.2.issueOp die r
            else (g.2.updDie die fun d => { d with granted := false, op := none }).headWrite die r.block r.op unit
          else m.issueOp die r
        | _ => m.issueOp die r)

/-! ## Ready (05 R245) -/

/-- The block of a to-till entry is erased and the entry journalled: its drift indices are 8 again, and a column that binding
gave the block can be programmed (05 R254, R257, R273). -/
def Mach.eraseDone (die block : Nat) (m : Mach) : Mach :=
  let m := m.onMed fun x =>
    { x with till := x.till.filter (fun t => !(t.die == die && t.block == block)),
             drift := x.drift.filter (fun e => e.1 / 8 != die * 8192 + block) }
  (m.zonesOn (dieBed die)).foldl (fun m e =>
    match e.2.2.colOn die with
    | some ci =>
      if (e.2.2.colAt ci).blocks.head?.map (fun b => b.1) = some block then
        m.updZone e.1 e.2.1 fun z => z.updCol ci fun c => { c with erased := true }
      else m
    | none => m) m

/-- An erase reports failure (05 R253): the block is retired and leaves the list. A column that binding had given it takes
another block; a free block of a die with no spare retires one unbound half slot of its half (05 R252). -/
def Mach.eraseFailed (die block : Nat) (m : Mach) : Mach :=
  let bed := dieBed die
  let noSpare := decide ((m.die die).spares = 0)
  let m := m.onMed fun x => { x with till := x.till.filter (fun t => !(t.die == die && t.block == block)) }
  let owner := (m.zonesOn bed).find? fun e =>
    match e.2.2.colOn die with
    | some ci => (e.2.2.colAt ci).blocks.head?.map (fun b => b.1) = some block
    | none => false
  let m := (m.retireBlock die block).record 0x0503 bed (dieAcre die + 1)
  match owner with
  | some (nsid, zi, z) =>
    let ci := (z.colOn die).getD 0
    if noSpare then (m.carry nsid zi ci).wearBed bed
    else match m.takeBlock die z.ext.life with
      | none => m.carry nsid zi ci
      | some (b, erased, m) =>
        let fix := fun (r : SlotReq) => match r.purp with
          | .unit a b2 row2 col2 => if a = nsid ∧ b2 = zi ∧ unitCol z.a zi row2 col2 = ci then { r with block := b } else r
          | _ => r
        let m := m.updZone nsid zi fun z => z.updCol ci fun c =>
          { c with blocks := (match c.blocks with | [] => [(b, 0)] | (_, f) :: t => (b, f) :: t), erased := erased }
        m.onMed fun x => { x with reqs := x.reqs.map fix, wants := x.wants.map fix }
  | none =>
    if noSpare then
      let h := dieHalf die
      let m := (m.updBed bed fun x => x.addRetired 8 h).record 0x0304 bed (bedAcre bed + 1)
      let m := (stripeChans 8 h).foldl (fun m ch =>
        let d := bedDie bed ch
        if d = die ∨ m.dieOut d = true then m else m.updDie d fun x => { x with spares := x.spares + 1 }) m
      m.noteBed bed
    else m

/-- A program or an erase of a headland block reports failure (05 R253): the block is retired, one of the die's spares takes
its place, and the sector keeps its number; the write is asked for again there. -/
def Mach.headlandFailed (die code : Nat) (r : SlotReq) (unit : Bool) (m : Mach) : Mach :=
  (((m.updDie die fun d => { d with retired := d.retired + 1, spares := d.spares - 1 }).noteBed (dieBed die)).record code (dieBed die)
    (dieAcre die + 1)).headWrite die r.block r.op unit

/-- Valid units of a slot of a headland namespace. -/
def Mach.slotValid (m : Mach) (nsid i : Nat) : Nat :=
  ((m.ns nsid).map.filter (fun e => (e.2 - 1) / (m.ns nsid).slotBlocks == i)).length

/-- A slot that is written to its end and holds no valid unit is given back: its blocks go to the to-till list and it takes
new blocks of its bed (03 R165). -/
def Mach.recycleSlot (nsid i : Nat) (m : Mach) : Mach :=
  if decide ((m.ns nsid).slotBlocks ≤ (m.zone nsid i).wp) && decide (m.slotValid nsid i = 0) && (m.unitsOf nsid i).isEmpty then
    (m.onMed fun x => { x with glean := x.glean.filter fun e => !(e.1 == nsid && e.2.1 == i) }).renewSlot nsid i 1024
  else m

/-- Recycle every slot of a headland namespace that can be (03 R165). -/
def Mach.recycleAll (nsid : Nat) (m : Mach) : Mach :=
  (List.range (m.ns nsid).slots.length).foldl (fun m i => m.recycleSlot nsid i) m

/-- Map a block of a headland namespace to a position, in its DRAM map too (03 R164); a copy that the gleaner was making of it is dropped (R165). -/
def Mach.mapBlock (nsid lba pos : Nat) (m : Mach) : Mach :=
  ((m.updNs nsid fun n => { n with map := Tbl.put 0 lba (pos + 1) n.map }).onMed fun x =>
    { x with copies := x.copies.filter fun e => !(e.1 == nsid && e.2.1 == lba) }).mapWrite nsid lba

/-- The gleaner's copies that lie in a unit are programmed: the mapping of each block that is still where it was copied from changes (03 R165). -/
def Mach.copiesDone (nsid i row col : Nat) (m : Mach) : Mach :=
  let n := m.ns nsid
  let here := m.med.copies.filter fun e =>
    e.1 == nsid && decide (e.2.2.2 / n.slotBlocks = i) && decide (rowOf (m.zone nsid i).a n.unitLen (e.2.2.2 % n.slotBlocks) = row) &&
      decide (dcolOf (m.zone nsid i).a n.unitLen (e.2.2.2 % n.slotBlocks) = col)
  if here.isEmpty then m else (here.foldl (fun m e => m.mapBlock nsid e.2.1 e.2.2.2) m).recycleAll nsid

/-- A die-program unit reports done: its bytes stop counting as dirty, and its row goes on to its parity or closes (07 R380,
05 R241, R242). -/
def Mach.unitDone (nsid zi row col : Nat) (m : Mach) : Mach :=
  let z := m.zone nsid zi
  match m.med.units.find? (fun u => u.is nsid zi row col) with
  | none => m
  | some u =>
    if u.col + 1 = z.a then m.closeRow nsid zi row
    else
      let m := m.onStg fun g => { g with dirty := g.dirty - u.bytes }
      ((m.updUnit nsid zi row col fun u => { u with done := true }).copiesDone nsid zi row col).tryParity nsid zi row

/-- A suspended erase that is lost to a reset is erased again in full, with its suspend count at zero (05 R247, R255, R263). -/
def Mach.eraseLost (die : Nat) (r : SlotReq) (m : Mach) : Mach :=
  match r.purp with
  | .till b => (m.record 0x0508 (m.die die).suspends (dieAcre die + 1)).eraseAgain die b
  | _ => m

/-- A program for no zone has ended: its block, which holds a page, goes to the to-till list, unless it is retired (03 R129, R141). -/
def Mach.orphanEnd (die block bytes plot : Nat) (slc : Bool) (m : Mach) : Mach :=
  let m := m.onStg fun g => { g with dirty := g.dirty - bytes }
  if (m.die die).bad.contains block then m else m.tillBlock die block plot slc

/-- A granted read that timed out is asked for again, a re-read with the pairs that it has left (05 R247; 06 R303). -/
def SlotReq.again (r : SlotReq) : SlotReq :=
  if r.op = .setFeatures ∨ r.op = .levelRead then { r with op := .levelRead, pair := r.left / 2 + 1, kib := (r.left / 2 + 1) * 18432, left := 0 } else r

/-- After the recovery reset of a die reports ready: what becomes of the operation that timed out (05 R247). -/
def Mach.recovered (die : Nat) (r : SlotReq) (m : Mach) : Mach :=
  match r.op with
  | .program =>
    (match r.purp with
     | .unit nsid zi row col => (m.unitFailed nsid zi row col false).controlWrite (dieAcre die)
     | .orphan bytes plot => m.orphanEnd die r.block bytes plot r.slc
     | .headland _ unit => m.headWrite die r.block .program unit
     | _ => m)
  | .erase | .resume =>
    (match r.purp with
     | .headland _ unit => m.headWrite die r.block .erase unit
     | _ => m.post { r with op := .erase })
  | .suspend | .reset => m
  | _ =>
    (match r.purp with
     | .host _ id =>
       (match m.ladder? id with
        | some _ => m.post r.again
        | none => m)
     | _ => m.post r.again)

/-- A status reply showing ready ends the operation of a die (05 R245): tokens are returned and success or failure is
handled. -/
def Mach.dieReady (die : Nat) (failed : Bool) (m : Mach) : Mach :=
  let d := m.die die
  match d.op with
  | none => m
  | some r =>
    let back : DieState := if d.st = .suspReading ∨ d.st = .suspProgramming then .suspended else .idle
    let freeTok := fun (m : Mach) => m.updBed (dieBed die) fun b => { b with held := b.held.filter (fun x => x != die) }
    match r.op with
    | .setFeatures | .levelRead | .read | .getFeatures | .readId | .readParam =>
      if r.left ≠ 0 then
        let next := { r with op := if r.op = .setFeatures then .levelRead else .setFeatures, left := r.left - 1 }
        (m.updDie die fun d => { d with op := some next, timeouts := 0, issuedAt := m.clk.now + 1, polledAt := none }).setLevels die next
      else
      let hold := match r.purp with
        | .host _ id => if (m.ladder? id).isSome then id else 0
        | _ => 0
      let m := m.updDie die fun d => { d with st := back, op := none, timeouts := 0, holdFor := hold }
      let m := match r.purp with
        | .host st id =>
          if hold = 0 then m
          else m.place { mkTask .codec r.lane (dieAcre die) with stamp := st, die := die, req := id }
        | .sweep g _ => m.onMed fun x => { x with sweepRead := x.sweepRead ++ [g] }
        | .mapReload st key => (m.mapWrite (key / 2 ^ 44) (key % 2 ^ 44)).reloadEnds st
        | _ => m
      m.nextQueued die
    | .program =>
      let m := freeTok (m.updDie die fun d => { d with st := back, op := none, timeouts := 0 })
      (match r.purp with
       | .unit nsid zi row col =>
         if failed then (m.unitFailed nsid zi row col true).controlWrite (dieAcre die) else m.unitDone nsid zi row col
       | .orphan bytes plot =>
         (if failed then (m.retireBlock die r.block).record 0x0502 (dieBed die) (dieAcre die + 1) else m).orphanEnd die r.block bytes plot r.slc
       | .headland _ unit => if failed then m.headlandFailed die 0x0502 r unit else if unit then m.journalDone die else m
       | _ => m)
    | .erase | .resume =>
      let total := m.ranEdges d / Config.edgesPerUs
      let m := freeTok (m.updDie die fun d =>
        { d with st := .idle, op := none, timeouts := 0, susp := none, suspGranted := false, ranFor := 0 })
      (match r.purp with
       | .till b =>
         let m := if 64 ≤ d.suspends then m.record 0x0507 total (dieAcre die + 1) else m
         if failed then m.eraseFailed die b else m.place { mkTask .zone 2 (dieAcre die) with die := die, req := b + 1 }
       | .headland _ unit => if failed then m.headlandFailed die 0x0503 { r with op := .erase } unit else m
       | _ => m)
    | .suspend =>
      let m := m.updDie die fun d =>
        { d with st := .suspended, op := none, timeouts := 0, suspends := d.suspends + 1, suspAt := m.grid.ticks }
      (freeTok m).record 0x0506 (d.ranFor / Config.edgesPerUs) (dieAcre die + 1)
    | .reset =>
      let us := (m.clk.now - d.timedAt) / Config.edgesPerUs
      let m := m.updDie die fun d => { d with st := .idle, op := none, timedOut := none, susp := none, suspGranted := false }
      let m := match d.susp with
        | some e => m.eraseLost die e
        | none => m
      let m := freeTok (m.record 0x0501 us (dieAcre die + 1))
      (match d.timedOut with
       | some t => m.recovered die t
       | none => m).nextQueued die

/-- The operation of a die is running, its acre in service. -/
def Mach.dieRuns (m : Mach) (die : Nat) : Bool :=
  let d := m.die die
  decide (die < m.nDies) && m.acreUp (dieAcre die) && d.op.isSome && !d.granted && !d.failed

/-- The operation's time-out has passed (05 R246); on its own edge a ready wins (01 R69). -/
def Mach.opLate (m : Mach) (die : Nat) : Bool :=
  let d := m.die die
  match d.op with
  | some r => decide (m.timeoutEdges die r < m.ranEdges d)
  | none => false

/-- An arrival after its time-out: discarded and recorded (01 R70). -/
def Mach.lateReady (die : Nat) (m : Mach) : Mach :=
  let d := m.die die
  match d.op with
  | some r => m.record 0x0120 ((m.ranEdges d - m.timeoutEdges die r) * 5 / 16) (dieAcre die + 1)
  | none => m

/-- Edges between the polls of an operation (05 R245). -/
def DieOp.pollEdges (o : DieOp) : Nat := pollStep2 o * Config.edgesPerUs / 2

/-- Edges from now to the next poll of a die: polls fall where the operation has run for its Min time and then for every poll interval more. An erase
resumed beyond its Min time is polled on the same count of its running time (05 R245; DESIGN CHOICE: notes/assumptions/123). -/
def Mach.toPoll (m : Mach) (die : Nat) (r : SlotReq) : Nat :=
  let ran := m.ranEdges (m.die die)
  let min := m.minEdges die r
  if ran ≤ min then min - ran else (r.op.pollEdges - (ran - min) % r.op.pollEdges) % r.op.pollEdges

/-- A poll of a die falls now (05 R245). -/
def Mach.pollFalls (m : Mach) (die : Nat) : Bool :=
  match (m.die die).op with
  | none => false
  | some r => decide (m.toPoll die r = 0)

/-- DIE_STATUS_POLL (05 R245, R232): the first poll falls at the Min time of the operation, the others at its poll time. A reply with a reserved bit set or
that reports ready and busy together is an interface error; a reply showing ready ends the operation. -/
def execDieStatusPoll (die : Nat) (reply : StatusReply) (at_ : Nat) (s : State) : Host.Outcome State Fault Refusal :=
  .next (s.on fun c m =>
    let m := m.advance at_
    if !m.dieRuns die then m
    else
      if !m.pollFalls die then m
      else
        let m := m.updDie die fun d => { d with polledAt := some m.clk.now }
        if reply.reserved || (reply.ready && reply.busy) then m.ifError c (dieChan die) 1
        else if !reply.ready then m
        else if m.opLate die then m.lateReady die
        else (m.dieReady die reply.failed).beginClosing)

/-- DIE_READY (05 R245): a die becomes ready, which is seen at the poll that falls then or next. `mismatch`: a Get Features reply differs from the value
that Set Features has just set, a channel interface error (05 R232 item 2). -/
def execDieReady (die : Nat) (failed mismatch : Bool) (at_ : Nat) (s : State) : Host.Outcome State Fault Refusal :=
  .next (s.on fun c m =>
    let m := m.advance at_
    match (m.die die).op with
    | none => m
    | some r =>
      if !m.dieRuns die then m
      else
        let m := m.advance (m.clk.now + m.toPoll die r)
        if m.opLate die then m.lateReady die
        else
          let m := if mismatch && (r.op == .setFeatures || r.op == .getFeatures) then m.ifError c (dieChan die) 2 else m
          (m.dieReady die failed).beginClosing)

/-- A read of a read-around timed out: the read-around is abandoned (05 R270). -/
def Mach.aroundLate (id : Nat) (m : Mach) : Mach :=
  match (m.ladder? id).bind (fun l => l.input) with
  | some p => if ((m.ladder? p).map (fun q => q.around)).getD false then m.inputFailed p 0 else m
  | none => m

/-- DIE_OP_TIMEOUT (05 R247, R248; 01 R51): a die reset follows as a recovery operation. A third time-out in a row, or one of
the reset itself, marks the die failed. -/
def execDieOpTimeout (die at_ : Nat) (s : State) : Host.Outcome State Fault Refusal :=
  .next (s.on fun c m =>
    let m := m.advance at_
    let d := m.die die
    match d.op with
    | none => m
    | some r =>
      if !m.dieRuns die || decide (m.ranEdges d < m.timeoutEdges die r) then m
      else if r.op = .reset then (m.record 0x0501 0 (dieAcre die + 1)).markFailed c die
      else if 3 ≤ d.timeouts + 1 then
        let m := match r.purp with
          | .unit nsid zi row col => m.updUnit nsid zi row col fun u => { u with issued := false }
          | _ => m
        (m.record 0x0501 0 (dieAcre die + 1)).markFailed c die
      else
        let m := m.updDie die fun d =>
          { d with timeouts := d.timeouts + 1, timedOut := some r, timedAt := m.clk.now, op := none, suspGranted := false }
        let m := m.post (mkReq die .reset (.recovery r.op) r.block 0 0)
        match r.purp with
        | .host _ id => m.aroundLate id
        | _ => m)

/-! ## Channels (01 R49, 05 R226 to R233) -/

/-- Mark every die of a channel failed, with the channel (01 R49). -/
def Mach.failChannel (c : Cfg) (ch : Nat) (m : Mach) : Mach :=
  let m := m.updChan ch fun x => { x with failed := true, training := false, inService := false }
  let m := (List.range 32).foldl (fun m p =>
    let d := 32 * ch + p
    if (m.die d).populated then m.markFailed c d else m) m
  (List.range 32).foldl (fun m b => m.updWd c (32 * chanAcre ch + b)) m

/-- A retrain has ended well: what was granted before it is issued from now on, and the senses behind reads that ended meanwhile start (01 R49). -/
def Mach.chanResume (ch : Nat) (m : Mach) : Mach :=
  (List.range 32).foldl (fun m p =>
    (m.updDie (32 * ch + p) fun d => if d.granted || d.suspGranted then { d with issueAt := Nat.max d.issueAt m.clk.now } else d).nextQueued (32 * ch + p)) m

/-- CHANNEL_RETRAIN_DONE (01 R49): `us` is the time it took. A failure retrains one rate step lower; at the safe rate the channel
fails. A retrain at the safe rate holds NFcc_WP_N low (05 R231). -/
def execChannelRetrainDone (ch : Nat) (result : TrainEnd) (us : Nat) (s : State) : Host.Outcome State Fault Refusal :=
  .next (s.on fun c m =>
    let x := m.chan ch
    if !decide (ch < m.nChans) || !m.acreUp (chanAcre ch) || !m.inService || !x.training then m
    else
      let m := m.record 0x0130 us (chanAcre ch + 1)
      match result with
      | .passed =>
        let m := m.updChan ch fun x =>
          { x with training := false, inService := true, errPasses := [] }
        ((List.range 32).foldl (fun m b => m.updWd c (32 * chanAcre ch + b)) m).chanResume ch
      | .failed =>
        match x.lower with
        | some r =>
          (m.updChan ch fun x => { x with mode := r.1, rate := r.2, inService := ({ x with mode := r.1, rate := r.2 } : Chan).lower.isSome }).record
            0x0131 (10 * r.2) (chanAcre ch + 1)
        | none => m.failChannel c ch)

/-- PATTERN_CHECK (05 R232 item 4): once every 1,000 passes, and before the first grant after PS4 (11 R503), of every chip enable of the channel. -/
def execPatternCheck (ch : Nat) (matched : Bool) (s : State) : Host.Outcome State Fault Refusal :=
  .next (s.on fun c m =>
    let x := m.chan ch
    if !decide (ch < m.nChans) || !m.acreUp (chanAcre ch) || !m.inService || x.training ||
        !(x.unchecked || decide (x.checkAt + 1000 ≤ m.grid.passes)) then m
    else
      let m := m.updChan ch fun x => { x with checkAt := m.grid.passes, unchecked := false }
      if matched then m else m.ifError c ch 4)

/-- ZONE_FINISH_BY_CONTROLLER (03 R151): placed behind every command that the zone has admitted. -/
def execZoneFinishByController (nsid zone : Nat) (s : State) : Host.Outcome State Fault Refusal :=
  .next (s.on fun _ m =>
    let z := m.zone nsid zone
    if z.bound && z.st.isActive && z.cols.any (fun c => c.carried) && !m.zoneBusy nsid zone && m.acreUp (bedAcre z.bed) then
      m.finishZone nsid zone
    else m)

/-! ## The gleaner (03 R163 to R165) -/

/-- The next free position of a headland namespace: the first slot, in slot order, with room; positions count blocks over
the slots. -/
def Mach.headRoom (m : Mach) (nsid : Nat) : Option (Nat × Nat) :=
  let n := m.ns nsid
  ((List.range n.slots.length).find? (fun i => decide ((m.zone nsid i).wp < n.slotBlocks) && m.acreUp (bedAcre (m.zone nsid i).bed))).map fun i => (i, (m.zone nsid i).wp)

/-- Take the next free position of a headland namespace for a block, its stripe row reserved (07 R377), and put the block into its unit. -/
def Mach.headPut (nsid plot : Nat) (m : Mach) : Option (Nat × Mach) :=
  match m.headRoom nsid with
  | none => none
  | some (i, o) =>
    let n := m.ns nsid
    let row := rowOf (m.zone nsid i).a n.unitLen o
    (if m.rowHeld nsid i row then some m else m.reserveRow nsid i row (if plot = 1024 then internalOwner 5 else plot)).map fun m =>
      (i * n.slotBlocks + o,
       (m.updZone nsid i fun z => { z with wp := o + 1, dend := o + 1 }).addUnits nsid i plot n.unitLen (m.zone nsid i).a 2 o 1)

/-- Free positions of a headland namespace in percent of its positions (03 R165, R170). -/
def Mach.headFreePct (m : Mach) (nsid : Nat) : Nat :=
  let n := m.ns nsid
  let all := n.slots.length * n.slotBlocks
  let used := sumBy (fun i => Nat.min n.slotBlocks (m.zone nsid i).wp) (List.range n.slots.length)
  if all = 0 then 0 else (all - used) * 100 / all

/-- Record a namespace that fell below its free floor of 2% since it had `before` percent free (03 R165, R170). -/
def Mach.noteFloor (nsid before : Nat) (m : Mach) : Mach :=
  if 2 ≤ before ∧ m.headFreePct nsid < 2 then m.record 0x0311 (m.headFreePct nsid) 0 else m

/-- Append a block that the host writes: it is mapped at once, its data being in a seed bin (03 R164). -/
def Mach.headAppend (nsid lba plot : Nat) (m : Mach) : Mach :=
  match m.headPut nsid plot with
  | some (pos, m) => m.mapBlock nsid lba pos
  | none => m

/-- Valid blocks of a headland namespace that lie in a data column of a slot and are not being copied. -/
def Mach.colValid (m : Mach) (nsid i col : Nat) : List Nat :=
  let n := m.ns nsid
  let a := (m.zone nsid i).a
  (n.map.filter fun e =>
    let p := e.2 - 1
    decide (p / n.slotBlocks = i) &&
      decide (dataCol a i (rowOf a n.unitLen (p % n.slotBlocks)) (dcolOf a n.unitLen (p % n.slotBlocks)) = col) &&
      !(m.blk nsid e.1).lost && !m.med.copies.any (fun c => c.1 == nsid && c.2.1 == e.1)).map fun e => e.1

/-- The block that the gleaner relocates: one that a host read found weak, or, while the namespace is below its free floor, the one with the fewest valid units
among the written slots' that has some (03 R165). A block is the part of a slot on one of its dies. -/
def Mach.gleanBlock (m : Mach) (nsid : Nat) : Option (Nat × Nat) :=
  match m.med.glean.find? (fun e => e.1 == nsid) with
  | some e => some e.2
  | none =>
    let n := m.ns nsid
    if 2 ≤ m.headFreePct nsid then none
    else (argMin (fun e => (m.colValid nsid (e / 32) (e % 32)).length)
      (((List.range n.slots.length).filter fun i => decide (n.slotBlocks ≤ (m.zone nsid i).wp)).flatMap fun i =>
        ((List.range (m.zone nsid i).a).filter fun c => !(m.colValid nsid i c).isEmpty).map fun c => 32 * i + c)).map
      fun e => (e / 32, e % 32)

/-- GLEANER_RELOCATE (03 R165): each valid unit of the block is copied to a new location, as overhead (09 R437); the mapping changes when the copy is
programmed. What is left uncopied for want of room waits for another such command. -/
def execGleanerRelocate (nsid : Nat) (s : State) : Host.Outcome State Fault Refusal :=
  .next (s.on fun _ m =>
    let n := m.ns nsid
    if !n.exists_ || !n.headland || !m.tinesRun then m
    else match m.gleanBlock nsid with
      | none => m
      | some b =>
        let before := m.headFreePct nsid
        let valid := if m.acreUp (bedAcre (m.zone nsid b.1).bed) then m.colValid nsid b.1 b.2 else []
        let r := valid.foldl (fun (acc : Nat × Mach) l =>
          match acc.2.headPut nsid 1024 with
          | some (pos, m) => (acc.1 + 1, m.onMed fun x => { x with copies := x.copies ++ [(nsid, l, Tbl.get 0 l n.map - 1, pos)] })
          | none => acc) (0, m)
        let m := r.2.onMed fun x => { x with glean := if r.1 = valid.length then x.glean.filter (fun e => e != (nsid, b)) else x.glean }
        ((m.record 0x0310 r.1 (bedAcre (m.zone nsid b.1).bed + 1)).noteFloor nsid before).recycleAll nsid)

end Sys2Proof.Machine
end

