-- ==== Sys2Proof/Machine/Bus.lean ====
section
/-! DEFINITION. BAR2 access rules (15 R624 to R637): reachability, byte enables, the guard, and dropped writes. -/

namespace Sys2Proof.Machine

/-- Offset of an acre block and of a swath block in BAR2 (15 R624). -/
def acreBase (a : Nat) : Nat := 0x01000000 * (a + 1)
def swathBase (s : Nat) : Nat := acreBase (s / 8) + 0x00100000 * (s % 8 + 1)
def plotBase (p : Nat) : Nat := 0x08000000 + p * 0x1000

/-- The acre's blocks answer: enabled, not fenced with cause 0x3 or 0x5, not gated (15 R627). -/
def Mach.reachable (m : Mach) (a : Nat) : Bool :=
  decide (a < m.nAcres) && !(m.fencedA a && (Tbl.get 0 a m.hub.cause == 3 || Tbl.get 0 a m.hub.cause == 5)) &&
    decide (m.power.ps < 3) && !m.heat.gated

/-- A BAR2 write is dropped and counted (15 R637). -/
def Mach.wrDrop (cause addr : Nat) (m : Mach) : Mach :=
  (m.onHub fun h => { h with drops := sat 16 (h.drops + 1), dropCause := cause, dropAddr := addr }).hubInt 20

/-- A BAR2 write to a named register at `addr`: it must reach its block, carry all four byte enables, and, on a guarded
register, find WR_GUARD clear (15 R625, R627, R635). -/
def State.barWrite (addr : Nat) (reach : Bool) (guarded : Bool) (be : BitVec 4) (f : State → State) (s : State) : State :=
  if !s.m.deviceUp then s
  else if !reach then s.on fun _ m => m.wrDrop 3 addr
  else if be ≠ 15 then s.on fun _ m => m.wrDrop 1 addr
  else if guarded && s.cfg.wrGuard then s.on fun _ m => m.wrDrop 2 addr
  else f s

end Sys2Proof.Machine
end

