-- ==== Sys2Proof/Machine/Grid.lean ====
section
/-! DEFINITION. The furrow grid (02): boundaries and slot grants (R93 to R105), lock to host time (R78 to R92), the correction factor
K (R103), and writes of FUR_CFG and FUR_CTRL (R89, R111). -/

namespace Sys2Proof.Machine

/-! ## Boundaries -/

/-- Bring grid time to `target` units if it is not there yet, with the datapath edges that takes (02 R74). -/
def Mach.gridTo (target : Nat) (m : Mach) : Mach :=
  if target ≤ m.grid.time then m
  else
    let u := m.grid.edgeUnits
    let n := if u = 0 then 0 else ceilDiv (target - m.grid.time) u
    { (m.onGrid fun g => { g with time := Nat.max target (g.time + n * u) }) with
        clk := { m.clk with now := m.clk.now + n, tineQ := m.clk.tineQ + n * m.tineRate } }

/-- Units of grid time at the beginning of furrow `f` and of pass `k` (02 R73). -/
def furrowStart (f : Nat) : Nat := 8000 * f * Config.gridNs
def passStart (k : Nat) : Nat := 1000000 * k * Config.gridNs
def minuteStart (k : Nat) : Nat := 60000000000 * k * Config.gridNs

/-! ## What a die can take (05 R243, R239, R257; 01 R49) -/

/-- The rules of order of a program unit: units of a block ascend, each after the one before has reported done, and its block
has been erased and journalled (05 R239, R257). -/
def Mach.unitInOrder (m : Mach) (r : SlotReq) : Bool :=
  match r.purp with
  | .unit nsid zi row col =>
    let z := m.zone nsid zi
    let c := z.colAt (unitCol z.a zi row col)
    c.erased && decide (c.next = row) && !c.carried
  | _ => true

/-- The die of a request can take its operation now (02 R94 condition 1). -/
def Mach.canTake (m : Mach) (r : SlotReq) : Bool :=
  let d := m.die r.die
  let train := (m.chan (dieChan r.die)).shut
  let free := d.op.isNone && !d.failed && d.populated && !m.heldPage d && d.queued.isEmpty && !train
  match r.op with
  | .reset => d.op.isNone && !d.failed && !train
  | .readId | .readParam => free && d.timedOut.isNone && d.st == .idle && decide (m.boot.phase = 3)
  | .read | .levelRead | .setFeatures | .getFeatures => free && d.timedOut.isNone && (d.st == .idle || d.st == .suspended)
  | .program =>
    free && d.timedOut.isNone && m.unitInOrder r &&
      (d.st == .idle || (d.st == .suspended && (d.susp.map (fun e => e.block)) != some r.block))
  | .erase => free && d.timedOut.isNone && d.st == .idle
  | .resume => free && d.timedOut.isNone && d.st == .suspended
  | .suspend => false

/-- A stripe die is readable for a rebuild (05 R265). -/
def Mach.stripeReadable (m : Mach) (die : Nat) : Bool :=
  let d := m.die die
  !m.dieOut die && d.timedOut.isNone && !(m.chan (dieChan die)).shut &&
    (((d.st == .idle || d.st == .suspended) && d.op.isNone && !m.heldPage d) || d.st == .reading || d.st == .suspReading)

/-- A request needs a program token of its bed (01 R38, 02 R105). -/
def Mach.needsToken (m : Mach) (r : SlotReq) : Bool :=
  match r.op with
  | .program => true
  | .erase | .resume => (m.bed (dieBed r.die)).pForce == 1
  | _ => false

/-! ## Request classes (02 R95) -/

def isRecovery (p : Purpose) : Bool := match p with | .recovery _ => true | _ => false

/-- Furrow boundaries that a request has waited. -/
def Mach.waited (m : Mach) (r : SlotReq) : Nat := m.grid.ticks - r.furrow

def Mach.reqClass (m : Mach) (r : SlotReq) : Nat :=
  match r.op with
  | .reset | .setFeatures | .getFeatures | .readId | .readParam => 1
  | .read | .levelRead =>
    (match r.purp with
     | .rebuild _ _ _ => 2
     | _ => if r.lane = 0 then 2 else if r.lane = 1 then 4 else 7)
  | .program => if 125 ≤ m.waited r then 3 else 5
  | .erase => if 125 ≤ m.waited r then 3 else 6
  | .resume => if m.grid.ticks - (m.die r.die).suspAt ≥ 125 then 3 else 6
  | .suspend => 7

/-- The order of 02 R95 as one key: class, age, die number. -/
def Mach.before (m : Mach) (a b : SlotReq) : Bool :=
  let ca := m.reqClass a
  let cb := m.reqClass b
  decide (ca < cb) || (decide (ca = cb) && (decide (a.posted < b.posted) || (decide (a.posted = b.posted) && decide (a.die < b.die))))

/-- Insert a request into a list kept in the order of 02 R95; an equal one stays behind. -/
def Mach.sortIn (m : Mach) (r : SlotReq) : List SlotReq → List SlotReq
  | [] => [r]
  | x :: t => if m.before r x then r :: x :: t else x :: m.sortIn r t

/-- A read waits for a die: a host read posted and not granted. -/
def Mach.readWaits (m : Mach) (die : Nat) : Bool :=
  m.med.reqs.any fun r => r.die == die && (r.op == .read || r.op == .levelRead) &&
    (match r.purp with | .rebuild _ _ _ => false | _ => true) && decide (r.lane ≤ 1)

/-- The resume of a suspended erase at this boundary, if one is made (05 R262). Its age in its class runs from the issue edge of the die's
last operation, the suspend or what ran during the suspension (DESIGN CHOICE: notes/assumptions/118; R95 gives a resume no time of posting);
its waits are its own. -/
def Mach.resumeOf (m : Mach) (die : Nat) (d : Die) : Option SlotReq :=
  match d.susp with
  | some e =>
    let waiting := m.med.reqs.any (fun r => r.die == die && (r.op == .read || r.op == .levelRead || r.op == .program) &&
      (match r.purp with | .rebuild _ _ _ => false | _ => true))
    if d.st = .suspended ∧ d.op.isNone = true ∧ (waiting = false ∨ 125 ≤ m.grid.ticks - d.suspAt) then
      some { e with op := .resume, posted := d.issuedAt, furrow := d.suspAt, ewait := d.resWait }
    else none
  | none => none

/-- Requests that a swath considers at a boundary, in the order of 02 R95: those posted before the hub edge of the boundary, and
resumes (02 R93). -/
def Mach.swathReqs (m : Mach) (s : Nat) : List SlotReq :=
  let own := m.med.reqs.filter (fun r => dieSwath r.die == s && decide (r.posted < m.grid.boundaryAt))
  let res := (m.med.dies.filter (fun e => dieSwath e.1 == s)).filterMap (fun e => m.resumeOf e.1 e.2)
  (own ++ res).foldl (fun l r => m.sortIn r l) []

/-! ## Energy (02 R99, 09 R422) -/

/-- Charge of a request in nJ: the profile energy times K (02 R99). -/
def Mach.chargeOf (m : Mach) (r : SlotReq) : Nat := (m.bed (dieBed r.die)).prof.energy r.op r.pair r.kib * m.grid.k / 4096

/-- A lane-0 read, its read-arounds and re-reads included (02 R99, R267). -/
def SlotReq.fromReserve (r : SlotReq) : Bool :=
  (r.op == .read || r.op == .levelRead) && (r.lane == 0 || (match r.purp with | .rebuild _ _ _ => true | _ => false))

def SlotReq.weight (r : SlotReq) : Nat := sumBy (fun p => p.2) r.plots
/-- The plot's part of a charge (09 R437). -/
def partOf (charge w total : Nat) : Nat := if total = 0 then 0 else charge * w / total

/-- A plot is uncapped, or has allowance left for its part in the operation (09 R422). -/
def Mach.allowedFor (m : Mach) (r : SlotReq) (p : Nat × Nat) : Bool :=
  let s := (m.plot p.1).quota.energy
  decide (1024 ≤ p.1) || decide (s = 0) ||
    decide (Tbl.get 0 p.1 m.grid.allow + partOf (m.chargeOf r) p.2 r.weight ≤ m.grid.budget * 10 * s)

/-- Every capped plot with a part in the operation has allowance left for it (09 R422). -/
def Mach.allowed (m : Mach) (r : SlotReq) : Bool := r.fromReserve || r.plots.all fun p => m.allowedFor r p

/-- Where a charge can be drawn: 0 the read reserve, 1 the swath's base share, 2 the hub pool (02 R99). -/
def Mach.source (m : Mach) (r : SlotReq) : Option Nat :=
  let q := m.chargeOf r
  if r.fromReserve && decide (q ≤ m.grid.reserve) then some 0
  else if q ≤ Tbl.get 0 (dieSwath r.die) m.grid.base then some 1
  else if q ≤ m.grid.pool then some 2
  else none

/-- Draw a charge and attribute it (02 R99, 09 R437, R422). -/
def Mach.draw (src : Nat) (r : SlotReq) (m : Mach) : Mach :=
  let q := m.chargeOf r
  let s := dieSwath r.die
  let m := m.onGrid fun g =>
    { g with reserve := if src = 0 then g.reserve - q else g.reserve,
             base := if src = 1 then Tbl.upd 0 s (fun b => b - q) g.base else g.base,
             pool := if src = 2 then g.pool - q else g.pool,
             passCharge := g.passCharge + q, charges := g.charges + q,
             grpCharge := Tbl.upd 0 (chanGroup (dieChan r.die)) (fun x => x + q) g.grpCharge,
             fromReserve := if src = 0 ∧ r.lane = 0 then g.fromReserve + 1 else g.fromReserve }
  let m := m.onPlots fun p => { p with minuteOps := p.minuteOps + 1 }
  if r.weight = 0 then m.onPlots fun p => { p with overhead := p.overhead + q }
  else r.plots.foldl (fun m p =>
    let part := partOf q p.2 r.weight
    if 1024 ≤ p.1 then m.onPlots fun x => { x with overhead := x.overhead + part }
    else
      let m := m.onGrid fun g =>
        if (m.plot p.1).quota.energy = 0 then g else { g with allow := Tbl.upd 0 p.1 (fun x => x + part) g.allow }
      m.updPlot p.1 fun x => { x with acc := { x.acc with charge := x.acc.charge + part, ops := x.acc.ops + 1 } }) m

/-! ## Grants (02 R94 to R97) -/

/-- Operations granted at this boundary on a channel (02 R94 condition 3), rebuild reads behind a running read among them. -/
def Mach.starts (m : Mach) (ch : Nat) : Nat :=
  (m.med.dies.filter (fun e => dieChan e.1 == ch && e.2.grantF == m.grid.ticks)).length

/-- The die has had no operation granted at this boundary (02 R94 condition 2). -/
def Mach.firstGrant (m : Mach) (die : Nat) : Bool := decide ((m.die die).grantF ≠ m.grid.ticks)

/-- A grant that has waited for energy is recorded (02 R117). -/
def Mach.noteWaited (r : SlotReq) (m : Mach) : Mach := if 0 < r.ewait then m.record 0x0213 r.ewait (dieAcre r.die + 1) else m

/-- Journal the erase of a block as in progress: its P/E count rises by one (05 R254 to R256). -/
def Mach.startErase (die block : Nat) (m : Mach) : Mach :=
  let m := m.onMed fun x =>
    { x with till := x.till.map fun t => if t.die = die ∧ t.block = block then { t with inProgress := true } else t }
  m.updDie die fun d => { d with pe := Tbl.upd 0 block (fun n => n + 1) d.pe }

/-- Grant a request: it leaves the swath's list, takes its token, and waits for its issue edge. -/
def Mach.grant (r : SlotReq) (m : Mach) : Mach :=
  let m := m.onMed fun x => { x with reqs := x.reqs.filter (fun q => !(decide (q.id = r.id) && q.op == r.op && q.die == r.die && q.purp == r.purp)) }
  let m := if m.needsToken r then m.updBed (dieBed r.die) fun b => { b with held := b.held ++ [r.die] } else m
  let m := match r.purp with
    | .till b => if r.op = DieOp.erase then m.startErase r.die b else m
    | _ => m
  (m.noteWaited r).updDie r.die fun d =>
    { d with op := some { r with ewait := 0 }, granted := true, grantF := m.grid.ticks, resWait := if r.op = .resume ∨ r.op = .erase then 0 else d.resWait }

/-- Grant the reads of a rebuild together: one on every other column of the row (05 R266, R267). A die that is reading serves
its read after that operation. -/
def Mach.grantRebuild (l : Ladder) (around : Bool) (cols : List Nat) (m : Mach) : Mach :=
  let (zi, row, _) := m.ladderAt l
  let z := m.zone l.nsid zi
  let m := m.updLadder l.id fun x => { x with around := around, waiting := cols.length }
  cols.foldl (fun m ci =>
    let die := z.dieOf ci
    let blk := (z.colAt ci).blockOf row
    let (i, m) := m.freshId
    let input := mkLadder i l.stamp l.nsid l.lbas die blk.1 (driftKey die blk.1 blk.2) l.lane (some l.id)
    let m := m.onMed fun x => { x with ladders := x.ladders ++ [input] }
    let r := { (mkReq die .read (.host l.stamp i) blk.1 l.lane (4 * l.nlb * 1054)) with
               slc := (m.ns l.nsid).headland, stamp := l.stamp }
    m.updDie die fun d =>
      if d.op.isNone then { d with op := some r, granted := true, grantF := m.grid.ticks }
      else { d with queued := d.queued ++ [r], grantF := m.grid.ticks }) m

/-- Every other column of a ladder's row is readable now (05 R265). -/
def Mach.rebuildReadable (m : Mach) (l : Ladder) : Bool :=
  let (zi, row, ci) := m.ladderAt l
  let z := m.zone l.nsid zi
  (m.rebuildCols l.nsid zi row ci).all fun c => !(z.colAt c).carried && m.stripeReadable (z.dieOf c)

/-- No die of a rebuild has been granted an operation at this boundary (02 R94 condition 2). -/
def Mach.rebuildFirst (m : Mach) (l : Ladder) : Bool := (m.rebuildDies l).all m.firstGrant
/-- A start is left on each channel of a rebuild (02 R94 condition 3). -/
def Mach.rebuildStarts (m : Mach) (l : Ladder) : Bool := (m.rebuildDies l).all fun d => decide (m.starts (dieChan d) < 8)

/-- A lane-0 read of a busy die in a Tight bed uses read-around (05 R268; 01 R50; 13 R588 while its swath switches), once (05 R270). -/
def Mach.wantsAround (m : Mach) (r : SlotReq) : Option Ladder :=
  match r.purp with
  | .host _ id =>
    let d := m.die r.die
    let busy := d.st == .programming || d.st == .suspProgramming || d.st == .erasing || d.st == .suspending ||
      (m.chan (dieChan r.die)).training || m.switching == some (dieSwath r.die)
    if r.op = .read ∧ r.lane = 0 ∧ (m.bed (dieBed r.die)).pForce = 1 ∧ busy = true then
      match m.ladder? id with
      | some l => if l.rung = 1 ∧ l.input.isNone = true ∧ l.turned = false ∧ (m.ns l.nsid).headland = false ∧ m.rebuildReadable l = true then some l else none
      | none => none
    else none
  | _ => none

/-- The slice rule lets a suspend be issued on an erasing die for a waiting read (05 R259). -/
def Mach.maySuspend (c : Cfg) (m : Mach) (r : SlotReq) : Bool :=
  let d := m.die r.die
  (r.op == .read || r.op == .levelRead) && decide (r.lane ≤ 1) && d.st == .erasing && d.op.isSome && !d.granted && !d.suspGranted && !(m.chan (dieChan r.die)).shut &&
    decide (Tbl.get 0x258 (dieSwath r.die) c.minSlice * Config.edgesPerUs ≤ m.clk.now - d.issuedAt) && decide (d.suspends < 64) &&
    d.timedOut.isNone && (match r.purp with | .rebuild _ _ _ => false | _ => true)

/-- A request that waits for energy (02 R96); a resume, which is not posted, counts its waits on its die. -/
def Mach.waitEnergy (r : SlotReq) (m : Mach) : Mach :=
  let m := m.onGrid fun g => { g with waitEnergy := g.waitEnergy + 1 }
  if r.op = .resume then m.updDie r.die fun d => { d with resWait := d.resWait + 1 }
  else m.onMed fun x =>
    { x with reqs := x.reqs.map fun q => if q.id = r.id ∧ q.die = r.die ∧ q.op = r.op then { q with ewait := q.ewait + 1 } else q }
/-- A request that waits for a start on a channel (02 R96). -/
def Mach.waitStart (m : Mach) : Mach := m.onGrid fun g => { g with waitStarts := g.waitStarts + 1 }

/-- The capped plots with a part in the operation that have no allowance left for it (09 R422). -/
def Mach.spentPlots (m : Mach) (r : SlotReq) : List Nat := (r.plots.filter (fun p => !m.allowedFor r p)).map (fun p => p.1)

/-- The first operation of a pass that a plot's allowance holds records that the allowance is reached (09 R451; DEDUCED:
notes/assumptions/38). -/
def Mach.noteAllowance (r : SlotReq) (m : Mach) : Mach :=
  (m.spentPlots r).foldl (fun m p =>
    if m.grid.allowHit.contains p then m
    else (m.onGrid fun g => { g with allowHit := g.allowHit ++ [p] }).record 0x0906 p (dieAcre r.die + 1)) m

/-- What a request had of the hub pool when it was considered (02 R102). -/
inductive Asked where
  | no | refused | served
deriving DecidableEq, Repr

/-- Draw for a request and grant it by `g`, or count its wait for energy. -/
def Mach.drawOr (r : SlotReq) (g : Mach → Mach) (m : Mach) : Asked × Mach :=
  if !m.allowed r then (.no, (m.noteAllowance r).waitEnergy r)
  else match m.source r with
    | none => (.refused, m.waitEnergy r)
    | some src => (if src = 2 then .served else .no, g (m.draw src r))

/-- The reads of a rebuild are granted whole, wait for a channel start, or wait with none of its dies counted (02 R94, R96). `rr` is what it
draws. -/
def Mach.considerRebuild (l : Ladder) (around : Bool) (r rr : SlotReq) (m : Mach) : Asked × Mach :=
  let (zi, row, ci) := m.ladderAt l
  if !m.rebuildStarts l then (.no, m.waitStart)
  else if !m.rebuildFirst l then (.no, m)
  else m.drawOr rr (fun m =>
    ((m.onMed fun x => { x with reqs := x.reqs.filter (fun q => q.id != r.id) }).noteWaited r).grantRebuild l around (m.rebuildCols l.nsid zi row ci))

/-- Consider one request at a boundary (02 R94). `win` holds the dies whose requests have a token. -/
def Mach.consider (c : Cfg) (win : List Nat) (r : SlotReq) (m : Mach) : Asked × Mach :=
  if !m.firstGrant r.die && (match r.purp with | .rebuild _ _ _ => false | _ => true) then (.no, m)
  else match m.wantsAround r with
  | some l =>
    let k := (m.rebuildDies l).length
    m.considerRebuild l true r { r with pair := k, kib := k * 4 * l.nlb * 1054, purp := .rebuild l.stamp l.id (m.ladderAt l).2.2 }
  | none =>
    match r.purp with
    | .rebuild _ id _ =>
      (match m.ladder? id with
       | none => (.no, m.onMed fun x => { x with reqs := x.reqs.filter (fun q => q.id != r.id) })
       | some l => if m.rebuildReadable l then m.considerRebuild l false r r else (.no, m))
    | _ =>
      if m.maySuspend c r then
        if m.starts (dieChan r.die) < 8 then
          (.no, m.updDie r.die fun d => { d with suspGranted := true, grantF := m.grid.ticks })
        else (.no, m.waitStart)
      else if !m.canTake r then (.no, m)
      else if 8 ≤ m.starts (dieChan r.die) then (.no, m.waitStart)
      else if m.needsToken r && !win.contains r.die then (.no, m.onGrid fun g => { g with waitTokens := g.waitTokens + 1 })
      else m.drawOr r (fun m => m.grant r)

/-! ## Token contests (01 R38, R39) -/

/-- For one bed: the dies that get its free tokens at this boundary, swath by swath from the one after the last winner of a
contested token, and the swath that wins a contest. Before any swath has won one the order starts at swath 0, and a winner that is then refused
its slot for want of energy has won all the same (DESIGN CHOICE: notes/assumptions/119; R39 names neither). -/
def Mach.tokenWinners (m : Mach) (b : Nat) (dies : List Nat) : List Nat × Option Nat :=
  let x := m.bed b
  let free := x.pForce - x.held.length
  let from_ := if x.lastWon = 8 then 0 else x.lastWon + 1
  let turn := fun d => (dieSwath d % 8 + 8 - from_ % 8) % 8
  let order := (List.range 8).flatMap (fun t => dies.filter (fun d => turn d == t))
  let won := order.take free
  (won, if dies.length ≤ free then none else won.getLast?.map (fun d => dieSwath d % 8))

/-- Token winners of every bed with requests, and the beds with their contested winner noted. -/
def Mach.contests (reqs : List SlotReq) (m : Mach) : List Nat × Mach :=
  let want := reqs.filter (fun r => m.needsToken r && m.canTake r && m.firstGrant r.die)
  let beds := dedup (want.map (fun r => dieBed r.die))
  beds.foldl (fun acc b =>
    let w := m.tokenWinners b (dedup ((want.filter (fun r => dieBed r.die == b)).map (fun r => r.die)))
    (acc.1 ++ w.1, match w.2 with
      | some s => acc.2.updBed b fun x => { x with lastWon := s }
      | none => acc.2)) ([], m)

/-! ## The boundary -/

/-- The swaths grant media operations: the controller is in service or programming for a fatal status, in an operational
state, and neither tripped nor dumping (11 R499, R520, R524). -/
def Mach.granting (m : Mach) : Bool :=
  m.inService && !m.power.closing && decide (m.power.ps < 3) && !m.heat.active && !m.power.dumping

/-- One swath's turn: requests are considered in order until one has asked the hub pool (02 R102). The answer says whether it was served.
Lane-0 reads draw the hub's read reserve as their swath's turn reaches them, so where the reserve cannot cover all of one boundary the swaths
draw it in the visiting order of R102 (DESIGN CHOICE: notes/assumptions/120; R99 gives no order among swaths). -/
def Mach.swathTurn (c : Cfg) (win : List Nat) : List SlotReq → Mach → List SlotReq × Bool × Mach
  | [], m => ([], false, m)
  | r :: t, m =>
    match m.consider c win r with
    | (.no, m) => Mach.swathTurn c win t m
    | (a, m) => (t, a == .served, m)

/-- Turns over the swaths in visiting order until every request has been considered (02 R102). -/
def Mach.turns (c : Cfg) (win : List Nat) : Nat → List (Nat × List SlotReq) → Option Nat → Mach → Option Nat × Mach
  | 0, _, first, m => (first, m)
  | fuel + 1, qs, first, m =>
    let r := qs.foldl (fun (acc : List (Nat × List SlotReq) × Option Nat × Mach) q =>
      let a := Mach.swathTurn c win q.2 acc.2.2
      (if a.1.isEmpty then acc.1 else acc.1 ++ [(q.1, a.1)],
       if a.2.1 && acc.2.1.isNone then some q.1 else acc.2.1, a.2.2)) ([], first, m)
    if r.1.isEmpty then (r.2.1, r.2.2) else Mach.turns c win fuel r.1 r.2.1 r.2.2

/-- The operation that a die was granted at this boundary and that is issued at its issue edge. -/
def Mach.grantedOp (m : Mach) (d : Die) : Option SlotReq :=
  if d.grantF ≠ m.grid.ticks then none
  else if d.suspGranted then d.op.map fun r => { r with op := .suspend }
  else if d.granted then d.op else none

/-- Issue edges of the operations granted at this boundary: on each channel one per datapath edge in the order of 02 R95, the k-th k + 127
edges after the boundary action (02 R97). -/
def Mach.setIssueEdges (m : Mach) : Mach :=
  let got := m.med.dies.filterMap fun e => (m.grantedOp e.2).map fun r => { r with die := e.1 }
  (dedup (got.map fun r => dieChan r.die)).foldl (fun m ch =>
    let l := (got.filter (fun r => dieChan r.die == ch)).foldl (fun l r => m.sortIn r l) []
    ((List.range l.length).zip l).foldl (fun m e => m.updDie e.2.die fun d => { d with issueAt := m.grid.actionAt + e.1 + 128 }) m) m

/-- Every swath acts on a furrow boundary (02 R75, R93 to R102). The turns start after the swath that the hub served first at the previous
boundary; where it served none there, after the one of the last boundary at which it served (DESIGN CHOICE: notes/assumptions/121). -/
def Mach.boundaryGrants (c : Cfg) (m : Mach) : Mach :=
  let n := m.nSwaths
  let order := (List.range n).map (fun i => (m.grid.firstServed + 1 + i) % n)
  let qs := ((order.filter (fun s => m.acreUp (swathAcre s))).map (fun s => (s, m.swathReqs s))).filter (fun q => !q.2.isEmpty)
  let all := qs.flatMap (fun q => q.2)
  let w := m.contests all
  let r := Mach.turns c w.1 (all.length + 1) qs none w.2
  (match r.1 with
   | some s => r.2.onGrid fun g => { g with firstServed := s }
   | none => r.2).setIssueEdges

/-- The hub edge of the boundary that lies at `target` units, once grid time has reached it (02 R74). -/
def Mach.edgeOf (m : Mach) (target : Nat) : Nat :=
  let u := m.grid.edgeUnits
  m.clk.now - (if u = 0 then 0 else (m.grid.time - target) / u)

/-- FURROW_BOUNDARY (02 R73 to R75, R93 to R102): grid time reaches the next furrow; every swath acts and grants on the same edge, 16
datapath edges after the hub's. `sramUe` names acres whose token table or to-till list shows an uncorrectable error, which fences them
(01 R53 cause 0x2). -/
def execFurrowBoundary (sramUe : List Nat) (s : State) : Host.Outcome State Fault Refusal :=
  .next (s.on fun c m =>
    if !m.awake then m
    else
      let start := furrowStart (m.grid.furrow + 1)
      let m := m.gridTo start
      let e := m.edgeOf start
      let m := (m.advance (e + 16)).onGrid fun g =>
        { g with furrow := g.furrow + 1, ticks := g.ticks + 1, boundaryAt := e, actionAt := e + 16 }
      let m := (dedup sramUe).foldl (fun m a => m.fenceStart a 2) m
      if m.granting then m.boundaryGrants c else m)

/-! ## Lock to host time (02 R78 to R92) -/

/-- The host port whose PTM the grid follows (02 R78). -/
def Mach.ptmPort (c : Cfg) (m : Mach) : Nat := if m.boot.straps.portMode && c.ptmPort then 1 else 0
/-- The grid follows PTM; a worker's follows its manager's TIME frames instead (10 R471). -/
def Mach.ptmOn (c : Cfg) (m : Mach) : Bool :=
  m.hitch.role == 2 || c.ptmUse && Tbl.get false (m.ptmPort c) m.grid.ptmEn && Tbl.get false (m.ptmPort c) m.grid.linkUp

/-- The grid enters a state; the slew of the pass in progress goes on to its end (02 R83). Leaving LOCKED sets HUB_INT_STS.GRID and marks the minute (15 R638, 09 R438). -/
def Mach.setGrid (st : GridState) (m : Mach) : Mach :=
  let was := m.grid.st
  let m := m.onGrid fun g =>
    { g with st := st, leftLocked := g.leftLocked || st != .locked, inRow := 0, bigRow := 0,
             slewPasses := if st = .slew ∧ was ≠ .slew then 0 else g.slewPasses,
             freshSlew := if st = .slew ∧ (was = .free ∨ was = .adopt) then true else g.freshSlew }
  if was = .locked ∧ st ≠ .locked then m.hubInt 9 else m

/-- A lock loss is counted and recorded (02 R82, R90, R117). -/
def Mach.lockLoss (mag : Nat) (m : Mach) : Mach :=
  (m.onGrid fun g => { g with losses := sat 32 (g.losses + 1) }).record 0x0201 mag 0

/-- PTM is disabled or its link is down: FREE, the epoch kept (02 R82). -/
def Mach.toFree (m : Mach) : Mach := (m.setGrid .free).onGrid fun g => { g with awaiting := none, lastE := none }

/-- The port in use changes: LOCKED and SLEW go to ADOPT with an epoch break, and adoption waits for the new port (02 R82,
R85). -/
def Mach.portChanged (m : Mach) : Mach :=
  let m := m.onGrid fun g => { g with adoptReady := false, awaiting := none, lastE := none }
  if m.grid.st = .locked ∨ m.grid.st = .slew then (m.setGrid .adopt).onGrid fun g => { g with adoptBreak := g.epoch }
  else m

/-- A dialogue fails, by time-out (0) or malformed (1) (02 R79, R82). -/
def Mach.dialogueFails (kind : Nat) (m : Mach) : Mach :=
  let m := m.onGrid fun g =>
    { g with awaiting := none, badDlg := g.badDlg + 1, miss := Nat.min 4 (g.miss + 1), inRow := 0, bigRow := 0 }
  let m := m.record 0x0203 kind 0
  if m.grid.miss < 4 then m
  else if m.grid.st = .locked then (m.toFree).lockLoss 4
  else if m.grid.st = .slew then m.toFree
  else m

/-- Slew of the pass in progress that has been applied by now: it is spread evenly over the pass (02 R87). -/
def Grid.applied (g : Grid) : Int := g.slew * ((g.time : Int) - (1000000 * g.pass * Config.gridNs : Nat)) / ((1000000 * Config.gridNs : Nat) : Int)
/-- Slew applied since the previous successful dialogue (02 R83). -/
def Grid.sinceDlgSlew (g : Grid) : Int := g.slewSince + g.applied

/-- The rate trim after a successful dialogue in LOCKED or SLEW: the change of e, less the slew between the two dialogues,
over the host time between them, filtered by 1/8, whole for the first in a SLEW entered from FREE or ADOPT (02 R83). -/
def Grid.newTrim (g : Grid) (e host : Int) : Int :=
  match g.lastE with
  | some (e0, h0) =>
    if host ≤ h0 then g.nextTrim
    else
      let rate := (e - e0 + g.sinceDlgSlew) * 1000000000 / (host - h0)
      let t := if g.freshSlew then g.nextTrim + rate else g.nextTrim + rate / 8
      if t > 200000 then 200000 else if t < -200000 then -200000 else t
  | none => g.nextTrim

/-- A dialogue succeeds with offset `e` at host time `host` (02 R82, R83, R85). -/
def Mach.dialogueOk (e host : Int) (m : Mach) : Mach :=
  let small := decide (e.natAbs ≤ 200)
  let g0 := m.grid
  let measured := (g0.st == .locked || g0.st == .slew) && g0.lastE.isSome
  let m := m.onGrid fun g =>
    { g with awaiting := none, okDlg := g.okDlg + 1, miss := 0, offset := e, nextTrim := if measured then g.newTrim e host else g.nextTrim,
             freshSlew := if measured then false else g.freshSlew, lastE := some (e, host), slewSince := - g.applied,
             inRow := if small then g.inRow + 1 else 0, bigRow := if 2000 < e.natAbs then g.bigRow + 1 else 0 }
  match g0.st with
  | .free =>
    let m := m.onGrid fun g => { g with firstDlgPass := g.passes }
    if g0.epoch = false then (m.setGrid .adopt).onGrid fun g => { g with adoptReady := true, adoptBreak := false }
    else if e.natAbs ≤ 10000000000 then m.setGrid .slew
    else (m.setGrid .adopt).onGrid fun g => { g with adoptReady := true, adoptBreak := true }
  | .adopt => m.onGrid fun g => { g with adoptReady := true }
  | .slew =>
    if 4 ≤ m.grid.inRow then
      let passes := m.grid.slewPasses
      ((m.setGrid .locked).record 0x0200 (m.grid.passes - m.grid.firstDlgPass) 0).record 0x0204 passes 0
    else m
  | .locked => if 2 ≤ m.grid.bigRow then (m.setGrid .slew).lockLoss 0 else m

/-- PTM_RESPONSE (02 R79): within 100 µs of its request; a later one is discarded and recorded (01 R70). -/
def execPtmResponse (t1 t2 t3 t4 : Int) (malformed : Bool) (at_ : Nat) (s : State) : Host.Outcome State Fault Refusal :=
  .next (s.on fun _ m =>
    let m := m.advance at_
    if m.hitch.role = 2 then m
    else match m.grid.awaiting with
    | none => m
    | some sent =>
      let late := m.clk.now - sent - 100 * Config.edgesPerUs
      if 0 < late then m.record 0x0120 (late * 5 / 16) 0
      else if malformed then m.dialogueFails 1
      else m.dialogueOk (((t2 - t1) + (t3 - t4)) / 2) t2)

/-- PTM_TIMEOUT (02 R79). -/
def execPtmTimeout (at_ : Nat) (s : State) : Host.Outcome State Fault Refusal :=
  .next (s.on fun _ m =>
    let m := m.advance at_
    if m.hitch.role = 2 then m
    else match m.grid.awaiting with
    | some sent => if 100 * Config.edgesPerUs ≤ m.clk.now - sent then m.dialogueFails 0 else m
    | none => m)

/-- PTM_ENABLE_CHANGE (02 R78, R82): the PTM Enable bit and the link of a port as they now are. -/
def execPtmEnableChange (port : Nat) (enable linkUp : Bool) (s : State) : Host.Outcome State Fault Refusal :=
  .next (s.on fun c m =>
    if 2 ≤ port then m
    else
      let m := m.onGrid fun g => { g with ptmEn := Tbl.put false port enable g.ptmEn, linkUp := Tbl.put false port linkUp g.linkUp }
      if m.ptmOn c then m else m.toFree)

/-- K_UPDATE (02 R103): once 1,000 passes are complete, K moves by one eighth of the distance of their ratio from 1, within 0.5 to 2.0. -/
def execKUpdate (s : State) : Host.Outcome State Fault Refusal :=
  .next (s.on fun _ m => m.onGrid fun g =>
    match g.kDue with
    | none => g
    | some (charges, measured) =>
      let k : Int := (g.k : Int) + 4096 * ((measured : Int) - charges) / (8 * charges)
      { g with k := if charges = 0 then g.k else if k < 2048 then 2048 else if 8192 < k then 8192 else k.toNat, kDue := none })

/-! ## FUR_CFG and FUR_CTRL -/

/-- Values of FUR_CFG's fields are within their ranges (02 R89). -/
def furCfgOk (ptmInt rdRes : Nat) : Bool := decide (1 ≤ ptmInt) && decide (ptmInt ≤ 64) && decide (rdRes ≤ 50)

/-- Apply FUR_CFG, by a register write or feature 0xC0 (02 R89, R82): values out of range change nothing. -/
def State.setFurCfg (ptmInt rdRes : Nat) (port use : Bool) (s : State) : State :=
  if furCfgOk ptmInt rdRes = false then s
  else
  let c := { s.cfg with ptmInt := ptmInt, rdRes := rdRes, ptmPort := port, ptmUse := use }
  let m := s.m
  let m := if m.ptmPort s.cfg ≠ m.ptmPort c then m.portChanged else m
  let m := if m.ptmOn c then m else m.toFree
  { s with cfg := c, m := m.updWdAll c }

/-- A BAR2 write of FUR_CFG (02 R89): a value out of range in any field is ignored as a whole. -/
def State.furCfgWrite (value : Word) (be : BitVec 4) (s : State) : State :=
  s.barWrite 0x500 true true be fun s =>
    let i := Word.bits value 23 16
    let r := Word.bits value 15 8
    s.setFurCfg i r (value.getLsbD 1) (value.getLsbD 0)

/-- FUR_CFG_WRITE (02 R89). -/
def execFurCfgWrite (value : Word) (be : BitVec 4) (s : State) : Host.Outcome State Fault Refusal :=
  .next (s.furCfgWrite value be)

/-- Set the program concurrency of a bed; it takes effect at the next pass boundary (01 R40, 02 R111). -/
def State.setBedP (b p : Nat) (s : State) : State :=
  if 1 ≤ p ∧ p ≤ 16 then { s with cfg := { s.cfg with bedP := Tbl.put 1 b p s.cfg.bedP } } else s

/-- A BAR2 write of FUR_CTRL of local bed `bed` of an acre (02 R111). -/
def State.furCtrlWrite (acre bed : Nat) (value : Word) (be : BitVec 4) (s : State) : State :=
  if bed < 32 ∧ acre < 4 then
    s.barWrite (acreBase acre + 0x800 + 4 * bed) (s.m.reachable acre) true be
      fun s => s.setBedP (32 * acre + bed) (Word.bits value 4 0)
  else s

/-- FUR_CTRL_WRITE (02 R111). -/
def execFurCtrlWrite (acre bed : Nat) (value : Word) (be : BitVec 4) (s : State) : Host.Outcome State Fault Refusal :=
  .next (s.furCtrlWrite acre bed value be)

end Sys2Proof.Machine
end

