-- ==== Sys2Proof/Machine/Tiers.lean ====
section
/-! DEFINITION. Tines (01): the owner's take, age promotion, steals (R19 to R28), faults and quarantine (R41 to R46), the end of a
fence's salvage (R54 to R59), management-core watchdogs (R61) and late arrivals (R70). -/

namespace Sys2Proof.Machine

/-! ## Taking tasks -/

/-- A tine starts a task, which leaves its lane. -/
def Mach.startTask (t : Nat) (k : Task) (m : Mach) : Mach :=
  m.setTine t { (m.tine t) with running := some (k.leave m.clk.now), startAt := m.clk.now, startQ := m.clk.tineQ }

/-- The highest non-empty lane of a tine (01 R19). -/
def Tine.topLane (x : Tine) : Option Nat := (List.range 4).find? (fun l => !(x.lane l).isEmpty)

/-- TAKE_TASK (01 R19): a tine that runs no task takes the head of its highest non-empty lane. A deque in which the acre's SRAM shows an
uncorrectable error (`sramUe`) fences the acre (01 R53 cause 0x2). -/
def execTakeTask (tine : Nat) (sramUe : Bool) (at_ : Nat) (s : State) : Host.Outcome State Fault Refusal :=
  .next (s.on fun _ m =>
    let m := (m.advanceOn .tine at_).offerRetries
    let x := m.tine tine
    if sramUe && decide (tine < m.nTines) && m.awake then m.fenceStart (tineAcre tine) 2
    else if !decide (tine < m.nTines) || !m.tinesRun || !m.tineOk tine || x.running.isSome then m
    else match x.topLane with
      | none => m
      | some l =>
        match x.lane l with
        | [] => m
        | k :: rest => (m.setTine tine (x.setLane l rest)).startTask tine k)

/-- Age bound of a lane in microseconds (01 R17). -/
def ageBound : Nat → Nat
  | 1 => 100
  | 2 => 500
  | _ => 5000

/-- Insert a task into a list ordered by the edge on which its age bound passed. -/
def ageInsert (k : Task) : List Task → List Task
  | [] => [k]
  | x :: t =>
    if k.since + ageBound k.lane * Config.edgesPerUs < x.since + ageBound x.lane * Config.edgesPerUs then k :: x :: t
    else x :: ageInsert k t

/-- Move the over-age tasks of a tine to the tail of lane 0, in the order in which they passed their bounds (01 R20). -/
def Tine.promote (now : Nat) (x : Tine) : Tine :=
  let old := fun (k : Task) => decide (k.since + ageBound k.lane * Config.edgesPerUs < now)
  let up := ((x.l1 ++ x.l2 ++ x.l3).filter old).foldl (fun l k => ageInsert k l) []
  { x with l0 := x.l0 ++ up.map (fun k => { k with lane := 0 }), l1 := x.l1.filter (fun k => !old k),
           l2 := x.l2.filter (fun k => !old k), l3 := x.l3.filter (fun k => !old k) }

/-- AGE_PROMOTION (01 R20). -/
def execAgePromotion (at_ : Nat) (s : State) : Host.Outcome State Fault Refusal :=
  .next (s.on fun _ m =>
    let m := m.advanceOn .tine at_
    m.tines.foldl (fun m e => m.setTine e.1 (e.2.promote m.clk.now)) m)

/-! ## Steals (01 R23 to R28) -/

/-- The thief may take the task directly: media within its swath, every other kind within its acre (01 R23). -/
def maySteal (k : Task) (thief victim : Nat) : Bool :=
  match k.kind with
  | .media => tineSwath thief == tineSwath victim
  | _ => tineAcre thief == tineAcre victim

/-- The lane whose tail the thief takes at one victim (01 R25). -/
def Tine.stealLane (x : Tine) (ok : Task → Bool) : Option (Nat × Task) :=
  (List.range 4).findSome? fun l =>
    match (x.lane l).getLast? with
    | some k => if ok k then some (l, k) else none
    | none => none

/-- Victims in the order of 01 R24 items 1 and 2. R24 gives the order of the other swaths only: within one, the thief searches its tines 0
to 15 (DESIGN CHOICE: notes/assumptions/114). -/
def victims (thief : Nat) : List Nat :=
  let sw := tineSwath thief
  let own := (List.range 15).map (fun i => 16 * sw + (thief % 16 + 1 + i) % 16)
  let others := (List.range 7).flatMap fun j =>
    let s := 8 * (sw / 8) + (sw % 8 + 1 + j) % 8
    (List.range 16).map (fun i => 16 * s + i)
  own ++ others

/-- The first task that a thief may take, with its victim and lane. -/
def Mach.stealFrom (m : Mach) (thief : Nat) : Option (Nat × Nat × Task) :=
  (victims thief).findSome? fun v =>
    if !m.tineOk v then none
    else ((m.tine v).stealLane (fun k => maySteal k thief v)).map (fun e => (v, e.1, e.2))

/-- The tine of the chip with the most entries, the lower number on a tie (01 R26). -/
def Mach.mostLoaded (m : Mach) : Option Nat :=
  (List.range m.nTines).foldl (fun best t =>
    if !m.tineOk t || decide ((m.tine t).load = 0) then best
    else match best with
      | none => some t
      | some b => if (m.tine b).load < (m.tine t).load then some t else best) none

/-- Take the tail of a victim's lane and start it on the thief, keeping lane, kind, age and order (01 R28); the tail has served its steal of
this tine cycle (01 R27). -/
def Mach.takeTail (thief victim lane : Nat) (k : Task) (m : Mach) : Mach :=
  (m.setTine victim { (m.tine victim).setLane lane ((m.tine victim).lane lane).dropLast with stolenAt := m.clk.now + 1 }).startTask thief k

/-- A tine that may steal: it runs, it is healthy, and it is idle. -/
def Mach.mayThieve (m : Mach) (t : Nat) : Bool :=
  decide (t < m.nTines) && m.tinesRun && m.tineOk t && (m.tine t).running.isNone && (m.tine t).idle

/-- A waiting command of this edge comes before a thief at a victim's tail (01 R27): a thief with a lower number that reaches the same tail,
or the owner, which takes the only task of the lane. -/
def Mach.rival (m : Mach) (thief victim lane : Nat) : Instr → Bool
  | .steal t a => decide (a ≤ m.clk.now) && decide (t < thief) && m.mayThieve t && (m.stealFrom t).map (fun e => e.1) == some victim
  | .takeTask t _ a =>
    decide (a ≤ m.clk.now) && decide (t = victim) && (m.tine t).running.isNone && (m.tine t).topLane == some lane &&
      decide (((m.tine t).lane lane).length = 1)
  | _ => false

/-- Take the tail of a victim, unless it has served a steal in this tine cycle or a rival comes first: then the thief gets nothing on this
edge, and is served by its next STEAL (01 R27). -/
def Mach.serveSteal (queue : List Instr) (thief victim lane : Nat) (k : Task) (m : Mach) : Mach :=
  if (m.tine victim).stolenAt = m.clk.now + 1 ∨ queue.any (m.rival thief victim lane) = true then m
  else m.takeTail thief victim lane k

/-- STEAL (01 R24 to R27). The dispatcher gives the front-end task that it has held longest (DEDUCED: notes/assumptions/22). -/
def execSteal (tine at_ : Nat) (s : State) : Host.Outcome State Fault Refusal :=
  .next (s.on fun _ m =>
    let m := m.advanceOn .tine at_
    if !m.mayThieve tine then m
    else match m.stealFrom tine with
      | some (v, l, k) => m.serveSteal s.pending tine v l k
      | none =>
        match m.disp with
        | k :: rest => ({ m with disp := rest }).startTask tine (k.enter m.clk.now)
        | [] =>
          match m.mostLoaded with
          | none => m
          | some v =>
            match (m.tine v).stealLane (fun k => k.kind = .frontEnd) with
            | some (l, k) => m.serveSteal s.pending tine v l k
            | none => m)

/-! ## Faults (01 R41 to R46) -/

def TaskKind.code : TaskKind → Nat
  | .frontEnd => 0 | .zone => 1 | .media => 2 | .codec => 3

/-- A rung's result counts as uncorrectable: the ladder goes on to the next rung (01 R43). -/
def Mach.rungFailed (id : Nat) (m : Mach) : Mach :=
  match m.ladder? id with
  | none => m
  | some l =>
    let m := m.updLadder id fun l => { l with res := none }
    let l := { l with res := none }
    if l.waiting ≠ 0 then m
    else if l.around then m.inputFailed l.id 0
    else if l.rung = 5 then m.ladderFails l
    else if l.rung = 1 then
      match l.input, (match l.input with | some p => (m.ladder? p).map (fun q => q.around) | none => none) with
      | some p, some true => (m.releaseDie l.die l.id).inputFailed p 0
      | _, _ => (m.updLadder l.id fun x => { x with rung := 2 }).wantCodec l
    else
      let m := m.releaseDie l.die l.id
      if l.rung = 4 then m.climbFive l else m.climbThree l

/-- A failed task is handed to its owner (01 R43). The update of a zone task is not made: its command ends with Internal Error, for which
R43 names no status (DESIGN CHOICE: notes/assumptions/115), and a to-till entry that was to leave the list stays there, its block to be
erased again. -/
def Mach.taskFailed (k : Task) (m : Mach) : Mach :=
  let a := if k.kind = .media then swathAcre k.scope else k.scope
  let m := m.record 0x0112 k.kind.code (if a < 4 then a + 1 else 0)
  match k.kind with
  | .frontEnd => m.failWith k.stamp St.internal
  | .zone => if k.stamp ≠ 0 then m.failWith k.stamp St.internal else m.eraseAgain k.die (k.req - 1)
  | .media => m.postWant k.req
  | .codec =>
    match k.unit_ with
    | none => m.rungFailed k.req
    | some key => (m.med.units.filter fun u => u.key == key).foldl (fun m u => m.wantFold u) m

/-- Retry a faulted task at the head of its lane on a sibling; full siblings leave it to be offered there again (01 R42, R43). -/
def Mach.retryTask (tine : Nat) (k : Task) (m : Mach) : Mach :=
  if k.retried.isSome || (m.siblings tine k).isEmpty then m.taskFailed k
  else m.placeRetry { k with retried := some (tine, (m.tine tine).fltCount) }

/-- Healthy tines of a swath. -/
def Mach.healthy (m : Mach) (sw : Nat) : Nat := ((List.range 16).filter (fun i => !(m.tine (16 * sw + i)).quar)).length

/-- A tine quarantines itself: its deque goes to healthy tines by the producer rule (01 R44), and a swath with fewer than two
healthy tines fences its acre (01 R46). -/
def Mach.quarantine (tine : Nat) (m : Mach) : Mach :=
  let x := m.tine tine
  let ts := x.l0 ++ x.l1 ++ x.l2 ++ x.l3
  let m := m.setTine tine { x with quar := true, l0 := [], l1 := [], l2 := [], l3 := [] }
  let left := m.healthy (tineSwath tine)
  let m := (m.record 0x0111 left (tineAcre tine + 1)).hubInt 4
  let m := ts.foldl (fun m k => m.placeAged (k.leave m.clk.now)) m
  if left < 2 then m.fenceStart (tineAcre tine) 4 else m

/-- A tine faults while it runs a task (01 R41, R42, R44). -/
def Mach.tineFault (tine code : Nat) (m : Mach) : Mach :=
  let x := m.tine tine
  match x.running with
  | none => m
  | some k =>
    let now := m.lifeSec
    let at_ := (x.faultsAt ++ [now]).drop (x.faultsAt.length - 2)
    let m := m.setTine tine
      { x with running := none, fltCount := x.fltCount + 1, lastCode := code, lastKind := k.kind.code, retryOk := false,
               faultsAt := at_ }
    let m := m.record 0x0110 code (tineAcre tine + 1)
    let m := m.retryTask tine k
    if at_.length = 3 ∧ now - at_.headD 0 ≤ 3600 then m.quarantine tine else m

/-- The task of a tine has run for 320,000 tine clock edges, whatever power states the controller was in (01 R41, 02 R77). -/
def Mach.taskOverdue (m : Mach) (tine : Nat) : Bool := decide ((m.tine tine).startQ + 4 * 320000 ≤ m.clk.tineQ)

/-- TASK_WATCHDOG (01 R41 code 0x1): evaluated on a tine clock edge (01 R68). -/
def execTaskWatchdog (tine at_ : Nat) (s : State) : Host.Outcome State Fault Refusal :=
  .next (s.on fun _ m =>
    let m := m.advanceOn .tine at_
    if decide (tine < m.nTines) && m.tineOk tine && m.taskOverdue tine then
      m.tineFault tine 1
    else m)

/-- TINE_FAULT (01 R41, R42): a fault of one of the codes of R41. -/
def execTineFault (tine code : Nat) (s : State) : Host.Outcome State Fault Refusal :=
  .next (s.on fun _ m =>
    if decide (tine < m.nTines) && m.tineOk tine && decide (1 ≤ code) && decide (code ≤ 5) then m.tineFault tine code else m)

/-! ## The end of a fence (01 R54 to R59) -/

/-- A command addresses a zone on an acre, or reads one there: the zone that it was admitted to, the zone of its starting block while it is a
write or a Zone Management Send of one zone, or the zones that it reads. -/
def Mach.cmdOnAcre (m : Mach) (c : Cmd) (a : Nat) : Bool :=
  let n := c.sqe.nsid.toNat
  let onZone := fun (z : Nat) => (m.zone n z).bound && bedAcre (m.zone n z).bed == a
  let target := c.sq != 0 && !(m.ns n).headland && (m.ns n).zsze != 0 &&
    (c.sqe.opc == 0x01 || c.sqe.opc == 0x08 || c.sqe.opc == 0x7D || c.sqe.opc == 0x19 || (c.sqe.opc == 0x79 && !c.sqe.selectAll))
  (match c.zone with | some z => onZone z | none => target && onZone (c.sqe.slba / (m.ns n).zsze)) ||
    c.sources.any fun r =>
      (List.range r.2).any fun i =>
        match m.locate n (r.1 + i) with
        | some (z, _) => onZone z
        | none => false

/-- Commands that wait for the beds of an acre end with Zone Is Offline, reads of a headland namespace with Namespace Not
Ready (01 R55, R56). -/
def Mach.failOnAcre (a : Nat) (m : Mach) : Mach :=
  (m.front.inflight.filter (fun c =>
      !c.committed && c.stage != .done && c.stage != .finished && c.stage != .fetched && m.cmdOnAcre c a)).foldl
    (fun m c =>
      let st := if (m.ns c.sqe.nsid.toNat).headland then St.nsNotReady else St.zoneOffline
      if c.sqe.opc == 0x02 || c.sqe.opc == 0x0C then (m.dropWork c.stamp).failWith c.stamp st
      else ((m.dropWork c.stamp).squashDescs c.stamp).failWrite c.stamp st) m

/-- The seed-bin data of an acre's zones as salvage leaves it: what was programmed to the headland waits for the next replay,
and the blocks of the units named are lost (01 R54 step 3, R59). -/
def Mach.salvageUnits (a : Nat) (lost : List (Nat × Nat × Nat × Nat)) (m : Mach) : Mach :=
  let onAcre := fun (u : PUnit) => bedAcre (m.zone u.nsid u.zone).bed == a
  let mine := m.med.units.filter onAcre
  let gone := fun (u : PUnit) => lost.contains u.key && !u.done
  let lostKey := fun (k : Nat) => mine.any fun u => gone u && decide (k / 2 ^ 44 = u.nsid) &&
    (match m.locate u.nsid (k % 2 ^ 44) with
     | some (z, o) =>
       let x := m.zone u.nsid z
       let n := m.ns u.nsid
       decide (z = u.zone) && decide (rowOf x.a n.unitLen o = u.row) && decide (dcolOf x.a n.unitLen o = u.col)
     | none => false)
  let m := m.onMed fun x =>
    { x with units := x.units.filter (fun u => !onAcre u),
             store := x.store.map fun e => if lostKey e.1 then (e.1, { e.2 with lost := true }) else e }
  let m := m.onBoot fun b => { b with dumpUnits := b.dumpUnits ++ mine.filter (fun u => !gone u) }
  m.onStg fun g => { g with dirty := g.dirty - sumBy (fun (u : PUnit) => if u.done && u.issued then 0 else u.bytes) mine }

/-- Committed seed-bin data of an acre that has not been programmed. -/
def Mach.unsalvaged (m : Mach) (a : Nat) : List (Nat × Nat × Nat × Nat) :=
  (m.med.units.filter fun u => bedAcre (m.zone u.nsid u.zone).bed == a && !u.done).map PUnit.key

/-- Steps 4 and 5 of a fence: the acre's beds go offline and the fence is reported (01 R54). With it every enabled acre may be fenced, those
that came up fenced at start-up among them (DEDUCED: notes/assumptions/116; R62 does not say whether they count beside one that fences in
service). -/
def Mach.fenceEnd (c : Cfg) (a salv : Nat) (m : Mach) : Mach :=
  let m := m.onHub fun h =>
    { h with fencing := Tbl.put false a false h.fencing, fenced := Tbl.put false a true h.fenced,
             salv := Tbl.put 0 a salv h.salv }
  let m := m.failOnAcre a
  let m := (m.hubInt 0).record 0x0140 (Tbl.get 0 a m.hub.cause) 0
  let m := (List.range 32).foldl (fun m i => m.noteBed (32 * a + i)) m
  let m := m.updWdAcre c a
  if m.inService && m.allFenced then m.enterFatal 2 else m

/-- The salvage of a fencing acre ends (01 R54, R59) without the units named; `ran` is false where it could not run or did not finish. -/
def Mach.salvageEnds (c : Cfg) (acre : Nat) (lost : List (Nat × Nat × Nat × Nat)) (ran : Bool) (m : Mach) : Mach :=
  let gone := m.med.units.filter fun u => lost.contains u.key && !u.done && bedAcre (m.zone u.nsid u.zone).bed == acre
  let good := ran && gone.isEmpty
  let m := m.salvageUnits acre lost
  let m := gone.foldl (fun m u => m.onHub fun h =>
    { h with lostAfter := if h.lostAfter.contains (u.nsid, u.zone) then h.lostAfter else h.lostAfter ++ [(u.nsid, u.zone)] }) m
  let m := m.onHub fun h => { h with salvLost := h.salvLost.filter fun k => !lost.contains k }
  let m := if good then m else m.record 0x0141 (sumBy (fun (u : PUnit) => u.bytes) gone / 1024) 0
  m.fenceEnd c acre (if good then 1 else 2)

/-- SALVAGE_DONE (01 R54 to R59): `lost` are the units that could not be salvaged, and so are those in whose lines the port found
uncorrectable errors (R56); `ran` is false where salvage could not run or did not finish, and then nothing more was salvaged. -/
def execSalvageDone (acre : Nat) (lost : List (Nat × Nat × Nat × Nat)) (ran : Bool) (s : State) : Host.Outcome State Fault Refusal :=
  .next (s.on fun c m =>
    if !m.fencingA acre then m
    else m.salvageEnds c acre (if ran then lost ++ m.hub.salvLost else m.unsalvaged acre) ran)

/-! ## Cores and late arrivals -/

/-- MCORE_WATCHDOG (01 R61): the core restarts; the second expiry within 60 powered seconds is fatal. -/
def execMcoreWatchdog (core at_ : Nat) (s : State) : Host.Outcome State Fault Refusal :=
  .next (s.on fun _ m =>
    let m := m.advance at_
    if 4 ≤ core ∨ m.awake = false then m
    else
      let near := m.hub.mcoreAt.any (fun t => decide (m.clk.now - t ≤ 60 * Config.edgesPerSec))
      let m := (m.onHub fun h => { h with mcoreAt := [m.clk.now], restarts := h.restarts + 1 }).record 0x0150 core 0
      if near then m.enterFatal 1 else m)

/-- LATE_ARRIVAL (01 R70): it completes nothing. -/
def execLateArrival (latenessNs : Nat) (s : State) : Host.Outcome State Fault Refusal :=
  .next (s.on fun _ m => m.record 0x0120 latenessNs 0)

end Sys2Proof.Machine
end

