-- ==== Sys2Proof/Machine/Queue.lean ====
section
/-! DEFINITION. Queues (04): fetch (R178 to R182), the end of a command and its completion (01 R30 to R36), doorbells (15 R622), and
asynchronous events of the hub (15 R640). -/

namespace Sys2Proof.Machine

/-! ## Queues -/

def Sq.entries (q : Sq) : Nat := if q.size = 0 then 0 else (q.tail + q.size - q.head) % q.size
/-- The completion queue has a free entry (04 R175). -/
def Cq.hasRoom (q : Cq) : Bool := decide (q.size ≠ 0) && decide ((q.tail + 1) % q.size ≠ q.head)

/-- The hub serves hosts: in service, in an operational state, and neither fatal, tripped nor dumping (01 R63; 11 R499,
R520, R524). -/
def Mach.hubServes (m : Mach) : Bool :=
  m.inService && !m.hub.fatal && !m.heat.active && !m.power.dumping && decide (m.power.ps < 3)

/-- Fetch runs for a plot: Ready, CSTS.RDY set, no shutdown (04 R178, R202; 09 R417). -/
def Mach.plotServes (m : Mach) (p : Nat) : Bool :=
  m.hubServes && (m.plot p).st == .ready && (m.bar0 p).rdy && (m.bar0 p).shst == 0

/-- Free held-completion entries and dispatcher places (01 R22, R35). -/
def Mach.fetchRoom (m : Mach) : Nat := Nat.min (131072 - m.front.inflight.length) (4096 - m.disp.length)

/-- A submission queue is fetchable (04 R178). -/
def Mach.sqFetchable (m : Mach) (p q : Nat) : Bool :=
  let x := m.sq p q
  m.plotServes p && decide (0 < x.entries) && !x.deleting && decide (x.flushStamp = 0) && (m.cq p x.cq).hasRoom &&
    decide (0 < m.fetchRoom)

/-- Keys of the fetchable I/O submission queues. -/
def Mach.ioFetchable (m : Mach) : List Nat :=
  (m.front.sqs.map (fun e => e.1)).filter (fun k => decide (k % 1024 ≠ 0) && m.sqFetchable (k / 1024) (k % 1024))
/-- Plots whose admin queue is fetchable. -/
def Mach.admFetchable (m : Mach) : List Nat :=
  (m.front.sqs.map (fun e => e.1)).filterMap (fun k =>
    if k % 1024 = 0 ∧ m.sqFetchable (k / 1024) 0 = true then some (k / 1024) else none)

/-- The next plot in ascending order after `last`, wrapping. -/
def nextPlot (last : Nat) (l : List Nat) : Option Nat := argMin (fun p => (p + 1024 - (last % 1024 + 1)) % 1024) l

/-! ## Fetch -/

/-- Blocks of the range that a command's front-end task is placed by: the ranges of a Dataset Management, any other range from its starting
block on. -/
def placeBlocks (e : Sqe) : List Nat :=
  (if e.opc == 0x09 then e.ranges else [(e.slba, if e.opc == 0x19 then sumBy (fun r => r.2) e.ranges else e.nlb)]).flatMap fun r =>
    (List.range r.2).map fun i => r.1 + i

/-- Lane and scope of a command's front-end task (01 R16, R17; 04 "Fetch"): reads of Tight zones lane 0, other reads and admin commands
lane 1, writes lane 2; R17 names no lane for Flush, Dataset Management, Zone Management Send (here lane 2, with the writes) and zone reports
(lane 1, with the reads) (DESIGN CHOICE: notes/assumptions/117). In the acre of the zone's bed, or of the headland blocks of the range,
where one is known, otherwise anywhere. -/
def Mach.frontLane (m : Mach) (admin : Bool) (e : Sqe) : Nat × Nat :=
  let n := m.ns e.nsid.toNat
  let at_ := if admin || !n.exists_ then none
    else ((placeBlocks e).findSome? fun b => m.locate e.nsid.toNat b).map (fun p => m.zone e.nsid.toNat p.1)
  let scope := match at_ with
    | some z => if z.bound then bedAcre z.bed else 4
    | none => 4
  let tight := match at_ with
    | some z => !n.headland && (if z.bound || z.zdev then z.ext else n.dflt).tight
    | none => false
  (if admin then 1 else if e.opc == 0x02 || e.opc == 0x0C then (if tight then 0 else 1) else if e.opc == 0x7A then 1 else 2, scope)

/-- A command as it is fetched. -/
def newCmd (stamp plot sq cq seq now : Nat) (e : Sqe) : Cmd :=
  { stamp := stamp, plot := plot, sq := sq, cq := cq, seq := seq, sqe := e, fetchedAt := now, stage := .fetched,
    committed := false, lba := e.slba, nlb := 0, zone := none, status := Status.ok, dw0 := 0, dw1 := 0, outData := [],
    outBlocks := [], since := now, caught := false, cover := [], resensed := false, lostLbas := [], sealed := 0,
    phaseDone := false, flushKib := 0, reloads := 0, crcs := [] }

/-- Namespaces attached to a plot. -/
def Mach.attachedTo (m : Mach) (p : Nat) : List Nat :=
  (m.med.ns.filter (fun e => e.2.exists_ && e.2.attached.contains p)).map (fun e => e.1)

/-- The command is a Flush of an I/O queue. -/
def Cmd.isFlush (c : Cmd) : Bool := c.sq != 0 && c.sqe.opc == 0x00

/-- Namespaces that a Flush covers. -/
def Mach.flushNs (m : Mach) (c : Cmd) : List Nat :=
  if c.sqe.nsid = 0xFFFFFFFF then m.attachedTo c.plot else [c.sqe.nsid.toNat]

/-- Units of committed data that are not programmed yet. -/
def Mach.flushCover (m : Mach) (nss : List Nat) : List (Nat × Nat) :=
  (m.med.units.filter (fun u => nss.contains u.nsid && !u.done)).map fun u => (zkey u.nsid u.zone, u.row * 32 + u.col)

/-- A Flush covers what is committed when it is fetched (04 R197). -/
def Mach.flushMark (m : Mach) (c : Cmd) : Cmd :=
  if c.isFlush && m.power.vwc then
    let nss := m.flushNs c
    { c with cover := m.flushCover nss,
             flushKib := sumBy (fun (u : PUnit) => if nss.contains u.nsid && !u.done then u.bytes / 1024 else 0) m.med.units }
  else c

/-- Put a fetched command in flight with its front-end task. -/
def Mach.launch (c : Cmd) (m : Mach) : Mach :=
  let c := m.flushMark c
  let m := if c.isFlush && m.power.vwc then m.updSq c.plot c.sq fun q => { q with flushStamp := c.stamp } else m
  let l := m.frontLane (c.sq = 0) c.sqe
  (m.onFront fun f => { f with inflight := f.inflight ++ [c] }).place
    { mkTask .frontEnd l.1 l.2 with stamp := c.stamp }

/-- Fetch one entry: it gets the next stamp and the next sequence number of its queue (04 R182, 01 R31). A command identifier
in use ends it with Command ID Conflict (04 R177). An entry to a non-operational state is refused (11 R499). -/
def Mach.fetchOne (p q : Nat) (e : Sqe) (m : Mach) : Mach :=
  let x := m.sq p q
  let c := newCmd m.front.nextStamp p q x.cq x.nextSeq m.clk.now e
  let clash := m.front.inflight.any (fun k => k.plot == p && k.sq == q && k.sqe.cid == e.cid)
  let m := m.updSq p q fun x => { x with head := (x.head + 1) % x.size, nextSeq := x.nextSeq + 1 }
  let m := (m.onFront fun f => { f with nextStamp := f.nextStamp + 1 }).refuseEntry 3
  if clash then
    (m.onFront fun f => { f with inflight := f.inflight ++ [{ c with stage := .done, status := St.idConflict }] }).record 0x0408 p 0
  else m.launch c

/-- Fetch up to `n` consecutive entries of a queue, taking them from the list of what the entries hold; a position that the list
does not give reads as zeros. A Flush that holds the queue ends the burst (04 R198). The answer ends with the number of entries fetched. -/
def Mach.fetchN (p q : Nat) : Nat → List Sqe → Mach → List Sqe × Mach × Nat
  | 0, es, m => (es, m, 0)
  | n + 1, es, m =>
    let m := m.fetchOne p q (es.headD Sqe.zero)
    if (m.sq p q).flushStamp ≠ 0 then (es.tail, m, 1)
    else
      let r := Mach.fetchN p q n es.tail m
      (r.1, r.2.1, r.2.2 + 1)

/-- One visit of the I/O arbiter to a plot (04 R179). -/
def Mach.visit (c : Cfg) (p : Nat) : Nat → List Sqe → Mach → Mach
  | 0, _, m => m
  | fuel + 1, es, m =>
    let credit := Tbl.get 0 p m.front.credit
    let qs := (m.ioFetchable.filter (fun k => k / 1024 == p)).map (fun k => k % 1024)
    let last := Tbl.get 0 p m.front.lastSq
    match argMin (fun q => (q + 512 - (last % 512 + 1)) % 512) qs with
    | none => m
    | some q =>
      if credit = 0 then m
      else
        let n := Nat.min (Nat.min c.burst credit) (Nat.min (m.sq p q).entries m.fetchRoom)
        let r := m.fetchN p q n es
        Mach.visit c p fuel r.1 (r.2.1.onFront fun f =>
          { f with credit := Tbl.put 0 p (credit - r.2.2) f.credit, lastSq := Tbl.put 0 p q f.lastSq })

/-- Admin commands in flight (04 R180); outstanding event requests are not counted as in flight (09 R443). -/
def Mach.adminCount (m : Mach) : Nat := (m.front.inflight.filter (fun c => c.sq == 0 && c.stage != .held)).length
/-- An admin fetch is ready: it comes before an I/O fetch (04 R181). -/
def Mach.adminReady (c : Cfg) (m : Mach) : Bool := decide (m.adminCount < c.admMax) && !m.admFetchable.isEmpty

/-- IO_FETCH (04 R179), while no admin fetch is ready (R181). -/
def execIoFetch (entries : List Sqe) (s : State) : Host.Outcome State Fault Refusal :=
  .next (s.on fun c m =>
    if m.adminReady c then m
    else match nextPlot m.front.lastIo (m.ioFetchable.map (fun k => k / 1024)) with
    | none => m
    | some p =>
      let credit := Tbl.get 0 p m.front.credit + (m.plot p).quota.fetchW
      let m := m.onFront fun f => { f with lastIo := p, credit := Tbl.put 0 p credit f.credit }
      let m := Mach.visit c p credit entries m
      if m.ioFetchable.any (fun k => k / 1024 == p) then m
      else m.onFront fun f => { f with credit := Tbl.put 0 p 0 f.credit })

/-- ADMIN_FETCH (04 R180). -/
def execAdminFetch (entry : Sqe) (s : State) : Host.Outcome State Fault Refusal :=
  .next (s.on fun c m =>
    if c.admMax ≤ m.adminCount then m
    else match nextPlot m.front.lastAdm m.admFetchable with
      | none => m
      | some p => (m.onFront fun f => { f with lastAdm := p }).fetchOne p 0 entry)

/-! ## The end of a command -/

/-- A block from 4,096 bytes, and the blocks that bytes fill, padded with zeros. -/
def blockOf (bs : List Byte) : Block := BitVec.ofNat 32768 (bs.foldr (fun b n => b.toNat + 256 * n) 0)
def blocksOf (bs : List Byte) : List Block := (List.range (ceilDiv bs.length 4096)).map fun i => blockOf ((bs.drop (4096 * i)).take 4096)

/-- Bytes of a block. -/
def blockBytes (b : Block) : List Byte := (List.range 4096).map fun i => b.extractLsb' (8 * i) 8

/-- The status field of a completion in a CPL frame: code, type and Do Not Retry as they lie in a completion entry (10 R459; DESIGN CHOICE:
notes/assumptions/140). -/
def Status.field (s : Status) : Nat := s.sc + 256 * s.sct + (if s.dnr then 16384 else 0)

/-- Send the read data of a worker's command from its offset on, a block with its stored grain CRCs in each DATA_R frame, and its CPL (10 R475, R476). -/
def Mach.sendResult (tag : Nat) (m : Mach) : Mach :=
  match m.recv? tag with
  | none => m
  | some r =>
    let m := (List.range r.out.length).foldl (fun m i =>
      if 4096 * i < r.rdFrom then m else m.sendPart 0x12 (if i + 1 = r.out.length then 1 else 0) 0 m.backPort tag (4096 * i)
        ((r.crcs.drop (4 * i)).take 4) (blockBytes (r.out.getD i 0))) m
    m.sendBack 0x13 tag (le 4 r.dw0.toNat ++ le 4 r.dw1.toNat ++ le 4 r.status.field)

/-- The bed that serves a Tight read with its bound in force (02 R107): a Read of one logical block, which is 4 KiB, that has moved its
block or met a media status, in a zone of latency class Tight (DEDUCED: notes/assumptions/39). -/
def Mach.tightBed (m : Mach) (c : Cmd) : Option Nat :=
  let n := m.ns c.sqe.nsid.toNat
  if decide (c.sq ≠ 0) && c.sqe.opc == 0x02 && decide (c.sqe.nlb = 1) && (c.status == Status.ok || decide (c.status.sct = 2)) && !n.headland then
    match m.locate c.sqe.nsid.toNat c.sqe.slba with
    | some e =>
      let z := m.zone c.sqe.nsid.toNat e.1
      if z.bound && z.ext.tight && (m.bed z.bed).bound then some z.bed else none
    | none => none
  else none

/-- Count a Tight read, from the fetch of its command (a worker: from its CMD) to the posting of its completion (its CPL) (10 R478; 02 R107, R110, R116, R117). -/
def Bed.countTight (edges : Nat) (x : Bed) : Bed :=
  let us := edges / Config.edgesPerUs
  { x with tightReads := x.tightReads + 1,
           tightOver := if 160 * Config.edgesPerUs < edges then x.tightOver + 1 else x.tightOver,
           longest := Nat.max x.longest (edges * 1000 / Config.edgesPerUs),
           histo := (List.range 16).map fun i => x.histo.getD i 0 + (if i = Nat.min 15 (us / 10) then 1 else 0) }

def Mach.noteTight (c : Cmd) (m : Mach) : Mach :=
  match m.tightBed c with
  | none => m
  | some b =>
    let edges := m.clk.now - c.fetchedAt
    let m := m.updBed b fun x => x.countTight edges
    if 160 * Config.edgesPerUs < edges then m.record 0x0210 (edges / Config.edgesPerUs) (bedAcre b + 1) else m

/-- A worker's forwarded command has finished: it leaves the worker, and its CPL is kept until an ACK (10 R476). A Tight read is measured
here, from its CMD to its CPL (10 R478). -/
def Mach.workerDone (c : Cmd) (m : Mach) : Mach :=
  let m := m.noteTight c
  let m := (m.releaseLocks c.stamp).onFront fun f => { f with inflight := f.inflight.filter (fun k => k.stamp != c.stamp) }
  let m := m.updSq c.plot c.sq fun x => { x with flushStamp := if x.flushStamp = c.stamp then 0 else x.flushStamp }
  (m.updRecv c.stamp fun r =>
    { r with st := 2, status := c.status, dw0 := c.dw0, dw1 := c.dw1, out := c.outBlocks ++ blocksOf c.outData, crcs := c.crcs }).sendResult c.stamp

/-- COMMAND_FINISHED (01 R36, 04 R191): the sequencer has the result of the command's last task; its locks are released. A
Flush lets its queue be fetched again (04 R198). A completion whose number was never given or has been posted is an order
check failure (01 R62); a worker's commands have their numbers from its manager (10 R474), and go back to it. -/
def execCommandFinished (stamp : Nat) (s : State) : Host.Outcome State Fault Refusal :=
  .next (s.on fun _ m =>
    match m.cmd? stamp with
    | none =>
      if m.awake && m.hitch.role != 2 &&
          (decide (stamp = 0) || decide (m.front.nextStamp ≤ stamp) || m.front.out.any (fun x => x.stamp == stamp)) then
        m.enterFatal 3
      else m
    | some c =>
      let m := if c.stage = .done ∧ c.status = Status.ok ∧ c.sq ≠ 0 ∧ c.sqe.opc = 0x02 ∧ (m.recv? stamp).isNone then m.countRead c.plot (4096 * c.sqe.nlb) else m
      if c.stage ≠ .done then m
      else if (m.recv? stamp).isSome then m.workerDone c
      else
        let m := (m.releaseLocks stamp).updCmd stamp fun k => { k with stage := .finished }
        let m := m.updSq c.plot c.sq fun x => { x with flushStamp := if x.flushStamp = stamp then 0 else x.flushStamp }
        if (m.plot c.plot).st = .freezing ∧ c.caught = false then
          m.updPlot c.plot fun p => { p with frzDone := p.frzDone + 1 }
        else m)

/-- A Delete I/O Submission Queue completes once every completion of its queue has been posted (04 R204). -/
def Mach.tryDeleteSq (p q : Nat) (m : Mach) : Mach :=
  if (m.sq p q).deleting && !m.front.inflight.any (fun c => c.plot == p && c.sq == q) then
    let m := m.updSq p q fun _ => Sq.init
    match m.front.inflight.find? (fun c => c.plot == p && c.sq == 0 && c.sqe.opc == 0x00 && c.sqe.qid == q && c.stage == .media) with
    | some d => m.succeed d.stamp
    | none => m
  else m

/-- Every complete unit of some namespaces has been programmed (04 R197). -/
def Mach.unitsFlushed (m : Mach) (nss : List Nat) : Bool :=
  m.med.units.all fun u => !nss.contains u.nsid || u.done || !u.full

/-- Keep the incomplete units of some namespaces in the headland by the power-fail dump path; they stay in their seed bins
(04 R197). -/
def Mach.dumpOpen (nss : List Nat) (m : Mach) : Mach :=
  let mine := m.med.units.filter (fun u => nss.contains u.nsid && !u.full)
  let same := fun (u v : PUnit) => u.nsid == v.nsid && u.zone == v.zone && u.row == v.row && u.col == v.col
  m.onBoot fun b => { b with dumpUnits := b.dumpUnits.filter (fun u => !mine.any (same u)) ++ mine }

/-- A shutdown in progress is complete once the plot's commands have been posted and the data of its namespaces are
programmed or dumped (04 R202), and a clean-shutdown mark is written (12 R556). Outstanding event requests do not count. -/
def Mach.shutdownStep (p : Nat) (m : Mach) : Mach :=
  let nss := m.attachedTo p
  if (m.bar0 p).shst = 1 ∧ m.front.inflight.all (fun c => c.plot != p || c.stage == .held) = true ∧ m.unitsFlushed nss = true then
    (((m.dumpOpen nss).onBoot fun b => { b with lastEnd := 1 }).saveHub 0x14).updBar0 p fun b => { b with shst := 2 }
  else m

/-- Shutdowns of every plot. -/
def Mach.shutdownSteps (m : Mach) : Mach := (m.front.bar0.map (fun e => e.1)).foldl (fun m p => m.shutdownStep p) m

/-- An MSI-X entry that nothing has written: its vector is masked, as PCI Express has it after a reset (PRESUMED: notes/assumptions/142). -/
def msixInit : Nat := 2 ^ 96

/-- A completion queue raises its vector: a message is sent, or the pending bit of a masked vector is set (15 R623). -/
def Mach.raise (plot : Nat) (q : Cq) (m : Mach) : Mach :=
  let k := qkey plot q.iv
  if !q.ien then m
  else if (Tbl.get msixInit k m.front.msix).testBit 96 then m.onFront fun f => { f with pba := if f.pba.contains k then f.pba else f.pba ++ [k] }
  else if m.plots.bmeOff.contains plot then m else m.onFront fun f => { f with msgs := f.msgs ++ [(plot, q.iv)] }

/-- The sequencer writes a completion to its completion queue (01 R32, R33), and a Tight read is counted. -/
def Mach.postCpl (c : Cmd) (m : Mach) : Mach :=
  let q := m.cq c.plot c.cq
  let cpl : Cpl := { stamp := c.stamp, plot := c.plot, sq := c.sq, cq := c.cq, cid := c.sqe.cid, status := c.status, dw0 := c.dw0, dw1 := c.dw1,
                     sqhd := (m.sq c.plot c.sq).head, phase := q.phase, data := c.outData, blocks := c.outBlocks }
  let t := (q.tail + 1) % q.size
  let m := m.onFront fun f => { f with out := f.out ++ [cpl], inflight := f.inflight.filter (fun k => k.stamp != c.stamp) }
  let m := m.updSq c.plot c.sq fun x => { x with posted := x.posted + 1, nextPost := m.clk.now + 1 }
  let m := m.updCq c.plot c.cq fun x =>
    { x with tail := t, phase := if t = 0 then !x.phase else x.phase,
             fullAt := if (t + 1) % x.size = x.head then some m.clk.now else none }
  let m := ((m.raise c.plot q).noteTight c).onPower fun p => { p with idleAt := m.clk.now }
  (m.tryDeleteSq c.plot c.sq).shutdownStep c.plot

/-- COMPLETION_POST (01 R32, R33): the next completion of a submission queue, while the plot's completions are posted and its
completion queue has room (04 R175), on an edge after that of the queue's completion before it. With Bus Master Enable clear the write fails,
a plot error (09 R431). An uncorrectable error in the queue or sequencer state that is read is fatal (01 R62). -/
def execCompletionPost (plot qid : Nat) (sramUe : Bool) (at_ : Nat) (s : State) : Host.Outcome State Fault Refusal :=
  .next (s.on fun _ m =>
    let m := m.advance at_
    let x := m.sq plot qid
    let st := (m.plot plot).st
    if sramUe && m.awake then m.enterFatal 0
    else if m.hub.fatal || !(st == .ready || st == .freezing || st == .frozen) || decide (x.size = 0) then m
    else match m.front.inflight.find? (fun c => c.plot == plot && c.sq == qid && c.seq == x.posted && c.stage == .finished) with
      | none => m
      | some c =>
        if m.plots.bmeOff.contains plot then m.plotError plot 4
        else if (m.cq plot c.cq).hasRoom then (m.advance x.nextPost).postCpl c
        else m)

/-! ## Doorbells (15 R622, 04 R175, R176) -/

/-- A doorbell write that is ignored, with an event if a request is outstanding (04 R176). -/
def Mach.badDoorbell (plot : Nat) (m : Mach) : Mach :=
  let m := m.record 0x0407 plot 0
  match m.heldAer plot with
  | some _ => m.event plot 0 1 0x01
  | none => m

/-- The port of a plot: port 0 in the x16 mode (09 R413). -/
def Mach.plotPort (m : Mach) (p : Nat) : Nat := if m.boot.straps.portMode && (m.plot p).port && decide (p ≠ 0) then 1 else 0

/-- The function of a plot is there: the controller is awake, and the function is enabled (09 R417). -/
def Mach.fnUp (m : Mach) (plot : Nat) : Bool := m.awake && decide (plot < 1024) && (m.plot plot).st != .absent

/-- The plot's windows answer: Memory Space Enable of its function is set (15 R619). -/
def Mach.barUp (m : Mach) (plot : Nat) : Bool := m.fnUp plot && !m.plots.mseOff.contains plot

/-- The function of this number on the port is the plot, and its BAR0 takes writes: a parked function ignores them (09 R413, R415). -/
def Mach.barTakes (m : Mach) (port plot : Nat) : Bool := m.barUp plot && m.plotPort plot == port

/-- The function of this number on the port is parked: in the 2 × x8 mode, an enabled virtual function whose plot is on the other
port (09 R413). -/
def Mach.parkedFn (m : Mach) (port n : Nat) : Bool :=
  m.boot.straps.portMode && decide (port < 2) && decide (1 ≤ n) && decide (n ≤ Tbl.get 0 port m.plots.vfEn) && m.plotPort n != port

/-- A doorbell write ends the idle time of APST, and makes the controller leave a non-operational state (11 R503, R504). -/
def Mach.doorbell (m : Mach) : Mach :=
  m.onPower fun p => { p with idleAt := m.clk.now, want := if 3 ≤ p.ps ∧ p.want = none then some p.lastOp else p.want }

/-- SQ_TAIL_DOORBELL (15 R622). -/
def execSqTailDoorbell (port plot qid value : Nat) (be : BitVec 4) (s : State) : Host.Outcome State Fault Refusal :=
  .next (s.on fun _ m =>
    if !m.barTakes port plot || !m.inService || decide (512 < qid) then m
    else if be = 15 ∧ (m.sq plot qid).size ≠ 0 ∧ value < (m.sq plot qid).size then
      (m.updSq plot qid fun q => { q with tail := value }).doorbell
    else m.badDoorbell plot)

/-- CQ_HEAD_DOORBELL (15 R622, 04 R175): entries are freed, and a stall of a full queue ends. -/
def execCqHeadDoorbell (port plot qid value : Nat) (be : BitVec 4) (s : State) : Host.Outcome State Fault Refusal :=
  .next (s.on fun _ m =>
    if !m.barTakes port plot || !m.inService || decide (512 < qid) then m
    else if be = 15 ∧ (m.cq plot qid).size ≠ 0 ∧ value < (m.cq plot qid).size then
      let q := m.cq plot qid
      let q' := { q with head := value }
      let m := match q.fullAt with
        | some t => if q'.hasRoom then m.record 0x0405 (m.usSince t) 0 else m
        | none => m
      (m.updCq plot qid fun _ => { q' with fullAt := if q'.hasRoom then none else q.fullAt }).doorbell
    else m.badDoorbell plot)

/-! ## Events of the hub (15 R640) -/

/-- Lowest bit set of a word. -/
def lowBit (w : Word) : Nat := ((List.range 32).find? (fun i => w.getLsbD i)).getD 0

/-- VENDOR_EVENT_POST (15 R640). -/
def execVendorEventPost (s : State) : Host.Outcome State Fault Refusal :=
  .next (s.on fun c m =>
    let w := m.hub.intSts &&& c.intEn
    match m.heldAer 0 with
    | some a =>
      if w ≠ 0 ∧ m.maskedType 0 7 = false ∧ m.hub.fatal = false then
        m.postEvent { plot := 0, type := 7, info := lowBit w, lid := 0xC0 } a
      else m
    | none => m)

end Sys2Proof.Machine
end

