-- ==== Sys2Proof/Machine/Zones.lean ====
section
/-! DEFINITION. Zones (03): states as they are reported (R56 of 01, R131, R554 of 12), resources (R136 to R139), binding on a command (R143),
Zone Management Send (R132, R133, R141, R142, R146) and the zone reports (R135, R145). -/

namespace Sys2Proof.Machine

/-! ## States -/

/-- The state of a zone as commands and reports see it: Offline while its acre is fenced (01 R56), Read Only or Offline in the
safe state (12 R554), otherwise its journalled state. -/
def Mach.zst (m : Mach) (nsid zi : Nat) : ZState :=
  let z := m.zone nsid zi
  if (m.ns nsid).safe then (if z.bound then .readOnly else .offline)
  else if z.bound && m.fencedA (bedAcre z.bed) then .offline
  else z.st

/-- The placement that binding would use for a zone: its extension while ZDEV is set, otherwise the namespace's defaults
(03 R145, R146). -/
def Mach.extOf (m : Mach) (nsid zi : Nat) : Ext :=
  let z := m.zone nsid zi
  if z.zdev then z.ext else (m.ns nsid).dflt

/-- A bound zone with a carried column waits for the controller's Finish (03 R151). -/
def Zone.toFinish (z : Zone) : Bool := z.st.isActive && z.cols.any (fun c => c.carried)

/-! ## Resources (03 R136 to R138) -/

def Mach.activeCount (m : Mach) (p : Nat) : Nat :=
  (m.med.zones.filter (fun e => e.2.st.isActive && e.2.actPlot == p && !(m.ns (e.1 / 2 ^ 20)).headland)).length
def Mach.openCount (m : Mach) (p : Nat) : Nat :=
  (m.med.zones.filter (fun e => e.2.st.isOpen && e.2.openPlot == p && !(m.ns (e.1 / 2 ^ 20)).headland)).length
def Mach.activeAll (m : Mach) : Nat := (m.med.zones.filter (fun e => e.2.st.isActive)).length
def Mach.openAll (m : Mach) : Nat := (m.med.zones.filter (fun e => e.2.st.isOpen)).length

/-- The plot has an active resource left. -/
def Mach.activeOk (m : Mach) (p : Nat) : Bool :=
  decide (m.activeCount p < (m.plot p).quota.active) && decide (m.activeAll < 8192)

/-- Close an open zone: Closed, or Empty when the write pointer is at its start and no extension is set (03 R132). Writes that an implicit close then
finds admitted and not committed lose their zone and fail with Zone Invalid Write (DESIGN CHOICE: notes/assumptions/46). -/
def Mach.closeZone (nsid zi : Nat) (m : Mach) : Mach :=
  let z := m.zone nsid zi
  if z.wp = 0 ∧ z.zdev = false then
    let m := (m.front.inflight.filter fun c => c.admitted && c.sqe.nsid.toNat == nsid && c.zone == some zi).foldl (fun m c =>
      ((m.unstage c.stamp).squashDescs c.stamp).failWith c.stamp St.zoneInvalidWrite) m
    (m.unbind nsid zi z.actPlot .empty).updZone nsid zi fun x => { x with resets := z.resets }
  else m.updZone nsid zi fun x => { x with st := .closed }

/-- The Implicitly Opened zone of a plot that has gone longest without a write or Append admitted, the lower identifier on a tie (03 R138). -/
def Mach.implVictim (m : Mach) (p : Nat) : Option Nat :=
  ((m.med.zones.filter (fun e => e.2.st == .implOpen && e.2.openPlot == p)).foldl (fun (best : Option (Nat × Nat)) e =>
    match best with
    | none => some (e.1, e.2.lastAdm)
    | some b => if e.2.lastAdm < b.2 then some (e.1, e.2.lastAdm) else some b) none).map (fun b => b.1)

/-- Obtain an open resource for a plot, closing one of its Implicitly Opened zones where it is at its quota (03 R138); none
where it has no such zone. -/
def Mach.getOpen (p : Nat) (m : Mach) : Option Mach :=
  if m.openCount p < (m.plot p).quota.open_ ∧ m.openAll < 8192 then some m
  else match m.implVictim p with
    | some k => some ((m.closeZone (k / 2 ^ 20) (k % 2 ^ 20)).record 0x0306 (m.openCount p)
        (bedAcre (m.zone (k / 2 ^ 20) (k % 2 ^ 20)).bed + 1))
    | none => none

/-! ## Transitions that need resources -/

/-- How an accepted command leaves its zone. -/
inductive OpenKind where
  | implicit | explicit | closed
deriving DecidableEq, Repr

def OpenKind.state : OpenKind → ZState
  | .implicit => .implOpen | .explicit => .explOpen | .closed => .closed

/-- Put an Empty zone into an active state for a plot: the binding has been worked out; the quotas are checked, the binding
made and the transition taken (03 R143 items 3 and 4). -/
def Mach.activate (nsid zi p : Nat) (k : OpenKind) (e : Ext) (b : Nat × Nat × List Nat) (m : Mach) : Sum Status Mach :=
  if !m.activeOk p then .inl St.tooManyActive
  else
    let got := if k = .closed then some m else m.getOpen p
    match got with
    | none => .inl St.tooManyOpen
    | some m =>
      .inr ((m.makeBind nsid zi e b).updZone nsid zi fun z => { z with st := k.state, actPlot := p, openPlot := p })

/-- Open an active zone that is not open, or make an open one explicit (03 R132). -/
def Mach.reopen (nsid zi p : Nat) (k : OpenKind) (m : Mach) : Sum Status Mach :=
  let z := m.zone nsid zi
  if z.st.isOpen then
    .inr (m.updZone nsid zi fun x => { x with st := if k = .explicit then .explOpen else x.st })
  else match m.getOpen p with
    | none => .inl St.tooManyOpen
    | some m => .inr (m.updZone nsid zi fun x => { x with st := k.state, openPlot := p })

/-- The binding of an Empty zone fails for lack of a slot (03 R146). -/
def Mach.noSlot (nsid : Nat) (m : Mach) : Mach := m.record 0x0305 nsid 0

/-! ## Zone Management Send -/

inductive ZAction where
  | close | finish | open_ | reset | offline
deriving DecidableEq, Repr

/-- One action on one zone (03 R132): a status, or the machine after it. A binding that fails may have retired slots, so the
machine is answered beside the status. -/
def Mach.zoneAct (nsid zi plot : Nat) (a : ZAction) (m : Mach) : Option Status × Mach :=
  let z := m.zone nsid zi
  let bad : Option Status × Mach := (some St.invalidTransition, m)
  let ok : Option Status × Mach := (none, m)
  match a, m.zst nsid zi with
  | .close, .implOpen | .close, .explOpen => (none, m.closeZone nsid zi)
  | .close, .empty | .close, .closed | .close, .full => ok
  | .close, .readOnly | .close, .offline => bad
  | .finish, .empty => (none, m.updZone nsid zi fun x => { x with st := .full })
  | .finish, .implOpen | .finish, .explOpen | .finish, .closed => (none, m.zoneFull nsid zi)
  | .finish, .full => ok
  | .finish, .readOnly | .finish, .offline => bad
  | .open_, .empty =>
    let e := m.extOf nsid zi
    let r := m.bindFor nsid e
    (match r.1 with
     | none => (some St.capExceeded, r.2.noSlot nsid)
     | some b => match r.2.activate nsid zi plot .explicit e b with
       | .inl st => (some st, r.2)
       | .inr m => (none, m))
  | .open_, .implOpen | .open_, .explOpen | .open_, .closed =>
    (match m.reopen nsid zi plot .explicit with
     | .inl st => (some st, m)
     | .inr m => (none, m))
  | .open_, .full | .open_, .readOnly | .open_, .offline => bad
  | .reset, .empty => ok
  | .reset, .implOpen | .reset, .explOpen | .reset, .closed | .reset, .full => (none, m.unbind nsid zi plot .empty)
  | .reset, .readOnly | .reset, .offline => bad
  | .offline, .readOnly => if z.bound then (none, m.unbind nsid zi plot .offline) else bad
  | .offline, _ => bad

/-- States that an action with Select All changes (03 R133). -/
def ZAction.applies : ZAction → ZState → Bool
  | .close, s => s.isOpen
  | .finish, s => s.isActive
  | .open_, s => s == .closed
  | .reset, s => s.isActive || s == .full
  | .offline, s => s == .readOnly

/-- An action with Select All: over the zones it applies to, in ascending order, until a resource runs out (03 R133). -/
def Mach.zoneActAll (nsid plot : Nat) (a : ZAction) (m : Mach) : Option Status × Mach :=
  ((m.zonesOf nsid).map (fun e => e.1)).foldl (fun acc zi =>
    if acc.1.isSome then acc
    else if a.applies (acc.2.zst nsid zi) then acc.2.zoneAct nsid zi plot a
    else acc) (none, m)

/-! ## The zone descriptor extension (03 R145, R146) -/

/-- The host part of an extension as bytes 0 to 31 give it. -/
def Ext.parse (bs : List Byte) : Ext :=
  { version := leAt bs 0 1, life := leAt bs 1 1, tight := leAt bs 2 1 == 1, spread := leAt bs 3 1,
    mask := BitVec.ofNat 128 (leAt bs 8 16), tag := leAt bs 24 8 }

/-- The extension is well formed for a namespace whose bed mask selects `beds` (03 R146). -/
def extOk (bs : List Byte) (beds : List Nat) : Bool :=
  leAt bs 0 1 == 1 && decide (leAt bs 1 1 < 8) && decide (leAt bs 2 1 ≤ 1) && decide (leAt bs 3 1 ≤ 2) && leAt bs 4 4 == 0 &&
    (maskBeds (BitVec.ofNat 128 (leAt bs 8 16))).all (fun b => beds.contains b)

/-- Bytes 0 to 31 of an extension. -/
def Ext.bytes (e : Ext) : List Byte :=
  le 1 e.version ++ le 1 e.life ++ le 1 (if e.tight then 1 else 0) ++ le 1 e.spread ++ zeros 4 ++ le 16 e.mask.toNat ++ le 8 e.tag

/-- Set Zone Descriptor Extension (03 R132, R146): the checks of its data have passed. -/
def Mach.zoneSetExt (nsid zi plot : Nat) (e : Ext) (m : Mach) : Option Status × Mach :=
  if m.zst nsid zi ≠ .empty then (some St.invalidTransition, m)
  else
    let r := m.bindFor nsid e
    match r.1 with
    | none => (some St.capExceeded, r.2.noSlot nsid)
    | some b => match r.2.activate nsid zi plot .closed e b with
      | .inl st => (some st, r.2)
      | .inr m => (none, m.updZone nsid zi fun z => { z with zdev := true })

/-! ## Reports (03 R135, R145) -/

/-- ZCAP as Report Zones gives it: of an Empty zone what binding would give now (03 R143). -/
def Mach.reportCap (m : Mach) (nsid zi : Nat) : Nat :=
  let z := m.zone nsid zi
  if z.st = .empty then m.bindCap nsid (m.extOf nsid zi)
  else if z.bound then z.zcap else (m.ns nsid).capOf 0

/-- Zone attributes (03 R135). -/
def Mach.zoneAttrs (m : Mach) (nsid zi : Nat) : Nat :=
  let z := m.zone nsid zi
  (if z.zfc then 1 else 0) + (if 2 ≤ z.aging then 4 else 0) + (if z.zdev then 128 else 0)

/-- A 64-byte zone descriptor (03 R135; the standard's layout is PRESUMED: notes/assumptions/24). -/
def Mach.zoneDesc (m : Mach) (nsid zi : Nat) : List Byte :=
  let z := m.zone nsid zi
  let zslba := zi * (m.ns nsid).zsze
  let wp := if z.st = .full then m.reportCap nsid zi else z.wp
  le 1 2 ++ le 1 (16 * (m.zst nsid zi).code) ++ le 1 (m.zoneAttrs nsid zi) ++ zeros 5 ++ le 8 (m.reportCap nsid zi) ++
    le 8 zslba ++ le 8 (zslba + wp) ++ zeros 32

/-- Hours of equivalent retention time (03 R145 byte 40): `retent` counts 2^-20 of 1/60 h. -/
def Zone.hours (z : Zone) : Nat := z.retent / (60 * 1048576)

/-- The 64-byte extension of a zone as Extended Report Zones returns it (03 R145). -/
def Mach.zoneExt (m : Mach) (nsid zi : Nat) : List Byte :=
  let z := m.zone nsid zi
  let w := (m.ns nsid).width
  let flags := (if z.offTime then 1 else 0) + (if z.around then 2 else 0) + (if z.carriedF then 4 else 0) + (if z.bound then 8 else 0)
  (if z.zdev then z.ext.bytes else zeros 32) ++ le 1 z.aging ++ le 1 (Nat.min 255 (z.consumed (m.ns nsid).prof)) ++ le 1 z.maxCorr ++ le 1 flags ++
    le 2 (if z.bound then z.bed else 0xFFFF) ++ le 1 z.dropped ++ le 1 (w + (if w = 8 then 128 * z.half else 0)) ++
    le 4 z.hours ++ le 4 z.meanPe ++ le 8 z.firstAt ++ zeros 8

/-- The state that a reporting option selects; option 0 selects every zone (standard, PRESUMED: notes/assumptions/24). -/
def reportSelects (opt : Nat) (s : ZState) : Bool :=
  match opt with
  | 0 => true
  | 1 => s == .empty
  | 2 => s == .implOpen
  | 3 => s == .explOpen
  | 4 => s == .closed
  | 5 => s == .full
  | 6 => s == .readOnly
  | 7 => s == .offline
  | _ => false

/-- The zones of a report, from the zone of its starting block on. -/
def Mach.reportList (m : Mach) (nsid slba opt : Nat) : List Nat :=
  let n := m.ns nsid
  (List.range n.zones).filter (fun zi => decide (slba / n.zsze ≤ zi) && reportSelects opt (m.zst nsid zi))

/-- A zone report of at most `len` bytes. -/
def Mach.zoneReport (m : Mach) (nsid slba opt len : Nat) (partial_ ext : Bool) : List Byte :=
  let l := m.reportList nsid slba opt
  let size := if ext then 128 else 64
  let fits := l.take ((len - 64) / size)
  window (le 8 (if partial_ then fits.length else l.length) ++ zeros 56 ++
    fits.flatMap (fun zi => m.zoneDesc nsid zi ++ (if ext then m.zoneExt nsid zi else []))) 0 len

/-- The ZCAP values just reported are noted, for the notice of 03 R143. -/
def Mach.noteReported (nsid : Nat) (l : List Nat) (m : Mach) : Mach :=
  l.foldl (fun m zi =>
    let cap := m.reportCap nsid zi
    m.updZone nsid zi fun z => { z with lastZcap := cap + 1 }) m

end Sys2Proof.Machine
end

