-- ==== Sys2Proof/Machine/Spaces.lean ====
section
/-! DEFINITION. Namespaces: creation and the slots of a headland namespace (03 R124 to R128, R162 to R166), attachment and plot keys (09
R416, R426, R428), deletion (03 R129) and Format NVM (04 R213). -/

namespace Sys2Proof.Machine

/-- Namespaces that exist, ascending. -/
def Mach.nsList (m : Mach) : List Nat := (m.med.ns.filter (fun e => e.2.exists_)).map (fun e => e.1)

/-! ## Attachment -/

/-- Namespaces that count against the attachments of a plot, those of members included (09 R416). -/
def Mach.attachCount (m : Mach) (p : Nat) : Nat := (m.attachedTo p).length + (m.hitch.memberNs.filter (fun e => e.2 == p)).length

/-- A Namespace Attribute Changed notice, with the namespace in the plot's Changed Namespace List (03 R129). -/
def Mach.nsNotice (nsid p : Nat) (m : Mach) : Mach :=
  let l := Tbl.get [] p m.front.changedNs
  let m := if l.contains nsid then m else m.onFront fun f => { f with changedNs := Tbl.put [] p (l ++ [nsid]) f.changedNs }
  m.notice p 8 0 0x04

/-- A plot that holds no key gets one (09 R426). Keys never leave the manager: a worker holds none (10 R475). -/
def Mach.needKey (p : Nat) (m : Mach) : Mach :=
  if (m.plot p).key ≠ 0 ∨ m.hitch.role = 2 then m
  else
    let k := m.plots.keyCount + 1
    (((m.onPlots fun x => { x with keyCount := k }).updPlot p fun x => { x with key := k }).saveHub 0x12).record 0x0903 p 0

/-- A plot left with no namespace attached loses its key (09 R428). -/
def Mach.dropKey (p : Nat) (m : Mach) : Mach :=
  if m.attachCount p ≠ 0 ∨ (m.plot p).key = 0 then m
  else ((m.updPlot p fun x => { x with key := 0 }).saveHub 0x12).record 0x0904 p 0

/-- A plot is Frozen (or being frozen) and would lose its last namespace. -/
def Mach.frozenLast (m : Mach) (p : Nat) : Bool := (m.plot p).st == .frozen && decide (m.attachCount p ≤ 1)

def Mach.attachPlot (nsid p : Nat) (m : Mach) : Mach :=
  (((m.updNs nsid fun n => { n with attached := insertAsc p n.attached }).saveHub 0x11).needKey p).nsNotice nsid p
where
  /-- Insert into a rising list. -/
  insertAsc (p : Nat) : List Nat → List Nat
    | [] => [p]
    | x :: t => if p < x then p :: x :: t else if p = x then x :: t else x :: insertAsc p t

def Mach.detachPlot (nsid p : Nat) (m : Mach) : Mach :=
  (((m.updNs nsid fun n => { n with attached := n.attached.filter (fun q => q != p) }).saveHub 0x11).dropKey p).nsNotice nsid p

/-! ## Creation -/

/-- A slot of a headland namespace can be taken on a bed: unreserved, on a bed in service that is populated with dies of the namespace's profile
(03 R128, R163). -/
def Mach.slotFree (m : Mach) (p : Profile) (b : Nat) : Bool :=
  decide ((m.bed b).prof = p) && decide (0 < (m.bed b).freeSlots) && !(m.bed b).worn && m.acreUp (bedAcre b) && !(bedDies b).all (fun d => !(m.die d).populated) &&
    placeableOf (fun i => if i = b then m.halfLeft i - 2 else m.halfLeft i) m.demands

/-- Take slot `i` of a headland namespace on bed `b`: one block of every working die (03 R163). -/
def Mach.takeSlot (nsid i b : Nat) (m : Mach) : Mach :=
  let r := ((List.range 16).filter (fun ch => !m.dieOut (bedDie b ch))).foldl (fun (acc : List Col × Mach) ch =>
    match acc.2.takeBlock (bedDie b ch) 0 with
    | none => acc
    | some (blk, erased, m) => (acc.1 ++ [{ ch := ch, blocks := [(blk, 0)], carried := false, erased := erased, next := 0 }], m)) ([], m)
  ((r.2.updZone nsid i fun _ => { Zone.init with bound := true, bed := b, cols := r.1 }).updBed b fun x => { x with hslots := x.hslots + 1 }).updNs
    nsid fun n => { n with slots := n.slots ++ [b] }

/-- Take slots one bed at a time, in ascending bed order and wrapping; a bed with no unreserved slot is left out. -/
def Mach.takeSlots (nsid : Nat) : Nat → Nat → List Nat → Mach → Option Mach
  | _, 0, _, m => some m
  | 0, _ + 1, _, _ => none
  | _ + 1, _ + 1, [], _ => none
  | fuel + 1, need + 1, b :: t, m =>
    if m.slotFree (m.ns nsid).prof b then Mach.takeSlots nsid fuel need (t ++ [b]) (m.takeSlot nsid (m.ns nsid).slots.length b)
    else Mach.takeSlots nsid fuel (need + 1) t m

/-- Slots of a headland namespace of `c` blocks on dies of a profile: 1.25 × C / (15 × Bd / 4), up (03 R166). -/
def headSlots (p : Profile) (c : Nat) : Nat := ceilDiv (5 * c) (15 * p.blockBlocks)

/-- TNVMCAP in logical blocks: the zoned user capacity of every slot (03 R123). -/
def Mach.totalBlocks (m : Mach) : Nat :=
  sumBy (fun b => (m.bed b).prof.slots * (15 * (m.bed b).prof.blockBlocks))
    ((List.range m.nBeds).filter (fun b => (bedDies b).any (fun d => (m.die d).populated)))

/-- Logical blocks of every headland namespace. -/
def Mach.headTotal (m : Mach) : Nat := sumBy (fun (e : Nat × Ns) => if e.2.exists_ && e.2.headland then e.2.nsze else 0) m.med.ns

/-- The die profile of a namespace: that of the lowest populated bed of its mask. The spec gives each bed a profile (05 R236) and each zone one ZCAP and ZSZE
(03 R122), and does not say which of two profiles a namespace over both would take (DESIGN CHOICE: notes/assumptions/129). -/
def Mach.profFor (m : Mach) (n : Ns) : Profile :=
  match (m.nsBeds n).find? (fun b => (bedDies b).any (fun d => (m.die d).populated)) with
  | some b => (m.bed b).prof
  | none => Profile.ref

/-- A namespace as its creation block gives it (03 R126). -/
def Mach.ofBlock (bs : List Byte) (nsze nguid : Nat) (m : Mach) : Ns :=
  let head := leAt bs 3840 1 == 1
  let w := if head then 16 else leAt bs 3841 1
  let n := { Ns.init with exists_ := true, headland := head, width := w, bedSet := leAt bs 3842 2,
                          mask := BitVec.ofNat 128 (leAt bs 3848 16), nsze := nsze, nguid := nguid }
  let p := m.profFor n
  { n with prof := p, zones := if head then 0 else nsze / zszeOf p w, zsze := if head then 0 else zszeOf p w }

/-- Kind, width, bed set and mask are as 03 R126 and R127 ask. -/
def Mach.blockOk (m : Mach) (bs : List Byte) : Bool :=
  let kind := leAt bs 3840 1
  let w := leAt bs 3841 1
  let set := leAt bs 3842 2
  let owner := if set = 0xFFFF then 0 else set + 1
  decide (kind ≤ 1) && (kind == 1 || w == 16 || w == 8) &&
    (set == 0xFFFF || (decide (set < 1024) && m.med.beds.any (fun e => e.2.owner == set + 1))) &&
    (maskBeds (BitVec.ofNat 128 (leAt bs 3848 16))).all (fun b => decide (b < m.nBeds) && (m.bed b).owner == owner)

/-- The lowest free namespace identifier, 1 to 1,024 (10 R466). -/
def Mach.freeNsid (m : Mach) : Option Nat := ((List.range 1024).map (fun i => i + 1)).find? fun k => !(m.ns k).exists_

/-- Create a namespace, or the status with which creation fails (03 R127, R128, R162). -/
def Mach.createNs (bs : List Byte) (m : Mach) : Sum Status (Nat × Mach) :=
  let nsze := leAt bs 0 8
  if !m.blockOk bs || decide (nsze = 0) then .inl St.invalidField
  else match m.freeNsid with
    | none => .inl (Status.mk2 1 0x16)
    | some k =>
      let n := m.ofBlock bs nsze ((Config.nguid m.hub.freeCtr) % 2 ^ 128)
      let m' := ((m.updNs k fun _ => n).saveHub 0x10).onHub fun h => { h with freeCtr := h.freeCtr + 1 }
      if n.headland then
        if m.totalBlocks < 100 * (m.headTotal + nsze) then .inl St.nsCapacity
        else
          let beds := m.nsBeds n
          match Mach.takeSlots k (headSlots n.prof nsze + beds.length) (headSlots n.prof nsze) beds m' with
          | none => .inl St.nsCapacity
          | some m => .inr (k, m.takeMaps k)
      else if nsze % n.zsze ≠ 0 ∨ 524288 < n.zones then .inl St.invalidField
      else if m'.placeable then .inr (k, m')
      else .inl St.nsCapacity

/-! ## Deletion and format -/

/-- Every zone and headland slot that a namespace has an entry for. -/
def Mach.nsZones (m : Mach) (nsid : Nat) : List Nat := (m.zonesOf nsid).map (fun e => e.1)

/-- Hand over the blocks of a slot of a headland namespace, for plot 0, each once any program issued to it has ended (03 R129 steps 3 and 5). -/
def Mach.freeSlot (nsid i : Nat) (m : Mach) : Mach :=
  let z := m.zone nsid i
  let m := m.dropUnits nsid i 0
  let m := z.cols.foldl (fun m c => c.blocks.foldl (fun m b =>
    let d := bedDie z.bed c.ch
    if (m.die d).bad.contains b.1 || (m.die d).orphanOn b.1 then m else m.tillBlock d b.1 0 true) m) m
  m.updBed z.bed fun x => { x with hslots := x.hslots - 1 }

/-- No data of a namespace are lost any more (01 R59). -/
def Mach.forgetLost (nsid : Nat) (m : Mach) : Mach := m.onHub fun h => { h with lostAfter := h.lostAfter.filter (fun e => e.1 != nsid) }

/-- Delete a namespace (03 R129): its exclusive lock is granted. -/
def Mach.deleteNs (nsid : Nat) (m : Mach) : Mach :=
  let n := m.ns nsid
  if !n.exists_ then m
  else
    let m := (n.attached.foldl (fun m p => m.detachPlot nsid p) m).freeMaps nsid
    let m := (m.nsZones nsid).foldl (fun m i => if n.headland then m.freeSlot nsid i else m.unbind nsid i 0 .empty) m
    (((m.forgetLost nsid).clearStore nsid 0 (2 ^ 44)).saveHub 0x10).onMed fun x =>
      { x with ns := Tbl.put Ns.init nsid Ns.init x.ns, zones := x.zones.filter (fun e => e.1 / 2 ^ 20 != nsid),
               glean := x.glean.filter (fun e => e.1 != nsid), copies := x.copies.filter (fun e => e.1 != nsid) }

/-- Format resets a zone unless it is of a Worn bed, Empty, or Offline (04 R213). The new record of a namespace in the safe
state has every zone Empty that is not of a Worn bed; an unbound one is of a Worn bed when every bed of the mask is Worn. -/
def Mach.formatZone (nsid i : Nat) (m : Mach) : Mach :=
  let n := m.ns nsid
  let z := m.zone nsid i
  let worn := if z.bound then (m.bed z.bed).worn else (m.nsBeds n).all (fun b => (m.bed b).worn)
  if z.st = .empty ∨ (z.st = .offline ∧ (n.safe = false ∨ worn = true)) ∨ (z.bound = true ∧ worn = true) then m
  else m.unbind nsid i 0 .empty

/-- The records that concern a namespace in the safe state are written anew: the namespace table's, and those of the acres of its beds (04 R213; 12 R551,
R552). -/
def Mach.renewRecords (nsid : Nat) (m : Mach) : Mach :=
  (dedup ((m.nsBeds (m.ns nsid)).map bedAcre)).foldl (fun m a => [1, 2, 3, 4].foldl (fun m k => m.saveRec (recKey k a)) m) (m.saveHub 0x10)

/-- Format NVM acts on a namespace (04 R213): a namespace in the safe state has its records written anew first and leaves that state, and no lost data remain
(12 R554, 01 R59). -/
def Mach.formatNs (nsid : Nat) (m : Mach) : Mach :=
  let n := m.ns nsid
  if !n.exists_ then m
  else
    let m := if n.safe then m.renewRecords nsid else m
    let m := if n.headland then
        let m := (m.nsZones nsid).foldl (fun m i =>
          if (m.zone nsid i).wp = 0 then m else (m.dropUnits nsid i 0).renewSlot nsid i 0) m
        ((m.clearStore nsid 0 (2 ^ 44)).onMed fun x => { x with glean := x.glean.filter (fun e => e.1 != nsid), copies := x.copies.filter (fun e => e.1 != nsid) }).updNs
          nsid fun n => { n with map := [] }
      else (m.nsZones nsid).foldl (fun m i => m.formatZone nsid i) m
    (m.forgetLost nsid).updNs nsid fun n => { n with safe := false }

end Sys2Proof.Machine
end

