-- ==== Sys2Proof/Machine/Io.lean ====
section
/-! DEFINITION. I/O commands (03, 04): the checks of R211, range locks in fetch order (R188 to R191), zone admission and commit points
(R140, R185), stripe-row reservations and the dirty cap (07 R376 to R382), reads (R150), Flush (R195 to R198) and forwarding to
members (10 R466 to R475). -/

namespace Sys2Proof.Machine

/-! ## Checks of an I/O command (04 R211, R214) -/

end Sys2Proof.Machine

namespace Sys2Proof
open Sys2Proof.Machine

def Sqe.isWrite (e : Sqe) : Bool := e.opc == 0x01 || e.opc == 0x08 || e.opc == 0x19 || e.opc == 0x7D
def Sqe.zonedOnly (e : Sqe) : Bool := e.opc == 0x79 || e.opc == 0x7A || e.opc == 0x7D
def ioOpcodes : List (BitVec 8) := [0x00, 0x01, 0x02, 0x08, 0x09, 0x0C, 0x19, 0x79, 0x7A, 0x7D]

/-- Blocks that a command writes or reads at its starting block. -/
def Sqe.blocksOf (e : Sqe) : Nat := if e.opc == 0x19 then sumBy (fun r => r.2) e.ranges else e.nlb

/-- The command stores host data. -/
def Sqe.hostData (e : Sqe) : Bool := e.opc == 0x01 || e.opc == 0x7D

/-- Bytes of host buffer that a command needs (04 R211); zone reports are cut at the buffer. -/
def Sqe.bufNeed (e : Sqe) : Nat :=
  if e.opc == 0x01 || e.opc == 0x02 || e.opc == 0x7D then 4096 * e.nlb
  else if e.opc == 0x19 then 32 * e.ranges.length
  else if e.opc == 0x09 then 16 * e.ranges.length
  else if e.opc == 0x79 && e.zsa == 0x10 then 64
  else 0
/-- Commands that use a host buffer. -/
def Sqe.usesBuf (e : Sqe) : Bool := decide (0 < e.bufNeed) || e.opc == 0x7A

/-- The checks of the host buffer (04 R211); a malformed list is a plot error and is seen by the caller. -/
def Sqe.bufStatus (e : Sqe) : Option Status :=
  if !e.usesBuf then none
  else match e.buf with
    | .sglUnsupported => some St.badSglSegment
    | .sgl => if e.bufLen < e.bufNeed then some St.sglLength else none
    | .prp => if e.bufLen < e.bufNeed then some St.prpOffset else none
    | .malformed => none

/-- Limits on lengths and counts (04 R211). A namespace's last block and zone starts are checked as the standards say. -/
def Sqe.lengthStatus (e : Sqe) (n : Ns) : Option Status :=
  let past := fun (r : Nat × Nat) => decide (n.nsze < r.1 + r.2)
  if (e.opc == 0x01 || e.opc == 0x02 || e.opc == 0x0C || e.opc == 0x08 || e.opc == 0x7D) && decide (512 < e.nlb) then
    some St.invalidField
  else if e.opc == 0x19 then
    if 128 < e.ranges.length ∨ e.ranges.any (fun r => decide (512 < r.2)) = true ∨ 512 < sumBy (fun r => r.2) e.ranges then
      some St.copySize
    else if e.ranges.any past || past (e.slba, e.blocksOf) then some St.lbaRange
    else if Word.bits e.cdw12 11 8 ≠ 0 then some St.invalidField else none
  else if e.opc == 0x09 then
    if 256 < e.ranges.length then some St.invalidField else if e.ranges.any past then some St.lbaRange else none
  else if e.opc == 0x01 || e.opc == 0x02 || e.opc == 0x0C || e.opc == 0x08 then
    if past (e.slba, e.nlb) then some St.lbaRange else none
  else if e.opc == 0x7D then
    if n.nsze ≤ e.slba then some St.lbaRange else if e.slba % n.zsze ≠ 0 then some St.invalidField else none
  else if e.opc == 0x79 then
    if !([0x01, 0x02, 0x03, 0x04, 0x05, 0x10].contains e.zsa) then some St.invalidField
    else if e.selectAll then (if e.zsa = 0x10 then some St.invalidField else none)
    else if n.nsze ≤ e.slba then some St.lbaRange
    else if e.slba % n.zsze ≠ 0 then some St.invalidField else none
  else if e.opc == 0x7A then
    if 1 < e.zsa then some St.invalidField else if n.nsze ≤ e.slba then some St.lbaRange else none
  else none

end Sys2Proof

namespace Sys2Proof.Machine

/-- The namespace of a command is being deleted by one fetched before it (03 R129). -/
def Mach.deletedBefore (m : Mach) (c : Cmd) : Bool :=
  decide ((m.ns c.sqe.nsid.toNat).deleting ≠ 0) && decide ((m.ns c.sqe.nsid.toNat).deleting < c.stamp)

/-- Namespace checks: it exists and is not being deleted by an earlier command, and it is attached to the plot (03 R129;
inactive identifiers PRESUMED: notes/assumptions/24). -/
def Mach.nsStatus (m : Mach) (c : Cmd) : Option Status :=
  let n := m.ns c.sqe.nsid.toNat
  if !n.exists_ || m.deletedBefore c then some St.invalidNs
  else if !n.attached.contains c.plot then some St.invalidField
  else none

/-- The first check that an I/O command fails. -/
def Mach.ioStatus (m : Mach) (c : Cmd) : Option Status :=
  let e := c.sqe
  let n := m.ns e.nsid.toNat
  if !ioOpcodes.contains e.opc then some St.invalidOpcode
  else if e.opc == 0x00 then (if e.nsid = 0xFFFFFFFF then none else m.nsStatus c)
  else match m.nsStatus c with
    | some s => some s
    | none =>
      if n.headland && e.zonedOnly then some St.invalidOpcode
      else match e.lengthStatus n with
        | some s => some s
        | none => e.bufStatus

/-! ## Range locks (04 R188 to R191) -/

/-- Namespaces that an admin command with locks names. -/
def Mach.nsNamed (m : Mach) (e : Sqe) : List Nat := if e.nsid = 0xFFFFFFFF then m.nsList else [e.nsid.toNat]

/-- The command takes range locks: I/O commands but Flush; Namespace Management (delete) and Format NVM (03 R129, 04 R213). -/
def Cmd.locks (c : Cmd) : Bool :=
  if c.sq = 0 then (c.sqe.opc == 0x0D && Word.bits c.sqe.cdw10 3 0 == 1) || c.sqe.opc == 0x80
  else c.sqe.opc != 0x00 && ioOpcodes.contains c.sqe.opc

/-- Ranges and modes of a command (04 R188), `lo` to `hi - 1`: where the table ends a range at a block, as `ZSLBA + ZCAP`, that block is within it
(00_scope, "a to b"); SLBA and NLB give the blocks of a command as the standards do. -/
def Mach.lockRanges (m : Mach) (c : Cmd) : List (Nat × Nat × Nat × LockMode) :=
  let e := c.sqe
  let i := e.nsid.toNat
  let n := m.ns i
  if c.sq = 0 then (m.nsNamed e).map (fun k => (k, 0, (m.ns k).nsze, .exclusive))
  else if c.isRead then [(i, e.slba, e.slba + e.nlb, .shared)]
  else if e.opc == 0x01 || e.opc == 0x08 then [(i, e.slba, e.slba + e.nlb, .exclusive)]
  else if e.opc == 0x7D then
    let zi := e.slba / n.zsze
    let z := m.zone i zi
    [(i, zi * n.zsze + z.wp, zi * n.zsze + m.reportCap i zi + 1, .append)]
  else if e.opc == 0x19 then
    e.ranges.map (fun r => (i, r.1, r.1 + r.2, .shared)) ++ [(i, e.slba, e.slba + e.blocksOf, .exclusive)]
  else if e.opc == 0x09 then e.ranges.map (fun r => (i, r.1, r.1 + r.2, .exclusive))
  else if e.opc == 0x79 then
    (if e.selectAll then [(i, 0, n.nsze, .exclusive)]
     else [(i, e.slba / n.zsze * n.zsze, (e.slba / n.zsze + 1) * n.zsze + 1, .exclusive)])
  else if e.opc == 0x7A then [(i, e.slba, n.nsze, .shared)]
  else []

/-- The command's front-end task has ended and its entries are not all in place. -/
def Mach.wantsLocks (m : Mach) (c : Cmd) : Bool := c.stage == .locked && !m.holdsLocks c.stamp

/-- Take entries in fetch order: a command whose front-end task still runs holds back every later one, since its acres are
not known; one that finds too few entries in an acre, or an acre that is fencing, holds back those that need an entry in that acre (04 R189), and what
conflicts with an entry that it waits for (R184). -/
def Mach.lockStep (m : Mach) : Mach :=
  (m.front.inflight.foldl (fun (acc : Bool × List Nat × List Lock × Mach) c =>
    let (all, acres, held, m) := acc
    if all then acc
    else if c.locks && c.stage == .fetched then (true, acres, held, m)
    else if !m.wantsLocks c then acc
    else
      let es := m.lockEntries c.stamp (m.lockRanges c)
      let need := dedup (es.map (fun l => l.acre))
      let short := m.shortAcres es
      if es.isEmpty then acc
      else if need.any (fun a => acres.contains a || m.fencingA a) || es.any (fun l => held.any l.conflicts) then
        (false, acres ++ need.filter m.fencingA, held ++ es, m)
      else if !short.isEmpty then
        (false, acres ++ short, held ++ es, if c.since = m.clk.now then short.foldl (fun m a => m.record 0x0402 a (a + 1)) m else m)
      else (false, acres, held, m.takeLocks es)) (false, [], [], m)).2.2.2

/-- All locks of a command are granted; a command whose ranges lie in no acre needs none. -/
def Mach.lockReady (m : Mach) (c : Cmd) : Bool :=
  if m.holdsLocks c.stamp then m.locksGranted c.stamp else (m.lockEntries c.stamp (m.lockRanges c)).isEmpty

/-! ## Stripe-row reservations (07 R376, R377) and the dirty cap (R382) -/

/-- Stripe rows of a zone that blocks `o` to `o + n - 1` touch. -/
def rowsOf (a u o n : Nat) : List Nat :=
  if a < 2 ∨ n = 0 then [] else (List.range (rowOf a u (o + n - 1) + 1 - rowOf a u o)).map (fun i => rowOf a u o + i)

/-- Positions that pending headland writes take, as slot and row: from the slot being filled on, `n` blocks in all. -/
def Mach.headRows (m : Mach) (nsid : Nat) : Nat → Nat → List Nat → Option (List (Nat × Nat))
  | 0, _, _ => none
  | fuel + 1, n, slots =>
    if n = 0 then some []
    else match slots with
      | [] => none
      | i :: t =>
        let z := m.zone nsid i
        let k := Nat.min n ((m.ns nsid).slotBlocks - z.wp)
        (Mach.headRows m nsid fuel (n - k) t).map fun l =>
          (rowsOf z.a (m.ns nsid).unitLen z.wp k).map (fun r => (i, r)) ++ l

/-- Slots of a headland namespace in the order in which they are filled: those partly written first, on acres that are up. -/
def Mach.headOrder (m : Mach) (nsid : Nat) : List Nat :=
  let all := (List.range (m.ns nsid).slots.length).filter (fun i => m.acreUp (bedAcre (m.zone nsid i).bed))
  all.filter (fun i => decide (0 < (m.zone nsid i).wp)) ++ all.filter (fun i => decide ((m.zone nsid i).wp = 0))

/-- Rows whose reservation a write needs before its data phase (07 R377): those of its range, or those that the pending
writes of its headland namespace will fill; none when its slots have no room. -/
def Mach.rowsNeeded (m : Mach) (c : Cmd) : Option (List (Nat × Nat)) :=
  let nsid := c.sqe.nsid.toNat
  let n := m.ns nsid
  match c.zone with
  | some zi => some ((rowsOf (m.zone nsid zi).a n.unitLen (c.lba - zi * n.zsze) c.nlb).map (fun r => (zi, r)))
  | none =>
    let pend := sumBy (fun (k : Cmd) => k.nlb) (m.front.inflight.filter (fun k =>
      k.sqe.nsid == c.sqe.nsid && !k.committed && k.stamp != c.stamp && (k.stage == .capWait || k.stage == .data)))
    m.headRows nsid (n.slots.length + 1) (pend + c.nlb) (m.headOrder nsid)

/-- Plot of a stripe row (07 R376): the one whose active quota the zone counts against, or the headland writer. -/
def Mach.rowPlot (m : Mach) (c : Cmd) (zi : Nat) : Nat :=
  if c.zone.isSome then (m.zone c.sqe.nsid.toNat zi).actPlot else c.plot

/-- The dirty cap in bytes (07 R381). -/
def Cfg.capBytes (c : Cfg) : Nat := c.dirtyCap * 268435456

/-- Begin the data phase: the bytes count as dirty, a Copy starts to read its sources (07 R380, 03 R152), and a worker asks its manager for
host data (10 R475). -/
def Mach.startData (c : Cmd) (m : Mach) : Mach :=
  let m := (m.stage c.stamp c.bytes).setStage c.stamp .data
  if c.sqe.opc = 0x19 then
    let lbas := dedup ((c.sqe.ranges.flatMap fun r => (List.range r.2).map fun i => r.1 + i).filter (m.written c.sqe.nsid.toNat))
    (m.startReads c lbas).readStep c.stamp
  else if m.hitch.role = 2 ∧ c.sqe.hostData = true then m.sendBack 0x17 c.stamp (le 4 0 ++ le 4 c.bytes)
  else m

/-- A write goes on to its data phase unless the dirty cap, or an earlier write that waits for it, holds it (07 R382). -/
def Mach.tryCap (cfg : Cfg) (stamp : Nat) (m : Mach) : Mach :=
  match m.cmd? stamp with
  | none => m
  | some c =>
    let earlier := m.front.inflight.any (fun k => k.stage == .capWait && decide (k.stamp < stamp))
    if c.stage ≠ .capWait ∨ earlier = true ∨ cfg.capBytes < m.stg.dirty + c.bytes then m
    else
      let m := if c.since < m.clk.now then m.record 0x0710 (m.usSince c.since) 0 else m
      m.startData c

/-- A write takes the reservations that it needs, all or the ones it can get, and goes on when it has them all (07 R377). -/
def Mach.tryRows (cfg : Cfg) (stamp : Nat) (m : Mach) : Mach :=
  match m.cmd? stamp with
  | none => m
  | some c =>
    if c.stage ≠ .rowWait then m
    else match m.rowsNeeded c with
      | none => m
      | some rows =>
        let nsid := c.sqe.nsid.toNat
        let m := rows.foldl (fun m r =>
          if m.rowHeld nsid r.1 r.2 then m else (m.reserveRow nsid r.1 r.2 (m.rowPlot c r.1)).getD m) m
        if rows.all (fun r => m.rowHeld nsid r.1 r.2) then
          let m := if c.since < m.clk.now then m.record 0x070F (m.usSince c.since) 0 else m
          (m.setStage stamp .capWait).tryCap cfg stamp
        else m

/-! ## Zone tasks (03 R140, R143) -/

/-- Narrow an Append's entries to its assigned range (04 R193). -/
def Mach.narrow (stamp lo n : Nat) (m : Mach) : Mach :=
  (m.onFront fun f => { f with locks := f.locks.map fun l =>
    if l.stamp = stamp ∧ l.mode = .append then { l with lo := lo, hi := lo + n } else l }).grantLocks

/-- Admit a write, Write Zeroes, Copy or Append to its zone (03 R140, R143, R151). -/
def Mach.admitWrite (cfg : Cfg) (c : Cmd) (m : Mach) : Mach :=
  let nsid := c.sqe.nsid.toNat
  let n := m.ns nsid
  let zi := c.sqe.slba / n.zsze
  let z := m.zone nsid zi
  let len := c.sqe.blocksOf
  let start := if c.sqe.opc = 0x7D then z.adm else c.sqe.slba - zi * n.zsze
  match m.zst nsid zi with
  | .offline => m.failWith c.stamp St.zoneOffline
  | .readOnly => m.failWith c.stamp St.zoneReadOnly
  | .full => m.failWith c.stamp St.zoneFull
  | st =>
    if z.toFinish then m.failWith c.stamp St.zoneFull
    else
      let e := m.extOf nsid zi
      let bound : Option (Nat × Nat × List Nat) × Mach := if st = .empty then m.bindFor nsid e else (none, m)
      if st = .empty ∧ bound.1 = none then (bound.2.noSlot nsid).failWith c.stamp St.capExceeded
      else
        let cap := match bound.1 with | some b => n.capOf b.2.2.length | none => z.zcap
        let m := bound.2
        if start ≠ z.adm then m.failWith c.stamp St.zoneInvalidWrite
        else if cap < start + len then m.failWith c.stamp St.zoneBoundary
        else
          let r := match bound.1 with
            | some b => m.activate nsid zi c.plot .implicit e b
            | none => if st.isOpen then .inr m else m.reopen nsid zi c.plot .implicit
          match r with
          | .inl s => m.failWith c.stamp s
          | .inr m =>
            let m := m.updZone nsid zi fun x => { x with adm := start + len, lastAdm := m.clk.now }
            let lba := zi * n.zsze + start
            let m := m.updCmd c.stamp fun k => { k with zone := some zi, lba := lba, nlb := len }
            let m := if c.sqe.opc = 0x7D then m.narrow c.stamp lba len else m
            (m.setStage c.stamp .rowWait).tryRows cfg c.stamp

/-- A mapped block of a headland namespace lies on a fenced acre (01 R56). -/
def Mach.awayBlock (m : Mach) (nsid lba : Nat) : Bool :=
  match m.locate nsid lba with
  | some (s, _) => m.fencedA (bedAcre (m.zone nsid s).bed)
  | none => false

/-- Status that keeps a Copy from starting: a source in an Offline zone or on a fenced acre, a lost source block, or an unwritten one where the
namespace's reads of it fail (03 R150, R152; 01 R56, R59). -/
def Mach.copyStatus (m : Mach) (c : Cmd) : Option Status :=
  let nsid := c.sqe.nsid.toNat
  let n := m.ns nsid
  let blocks := c.sqe.ranges.flatMap (fun r => (List.range r.2).map (fun i => r.1 + i))
  if !n.headland && blocks.any (fun b => m.zst nsid (b / n.zsze) == .offline) then some St.zoneOffline
  else if n.headland && blocks.any (m.awayBlock nsid) then some St.nsNotReady
  else if blocks.any (fun b => m.written nsid b && (m.blk nsid b).lost) then some St.unrecovered
  else if n.unwritten == 1 && blocks.any (fun b => !m.written nsid b) then some St.unwrittenBlock
  else none

/-- Start a write-like command whose locks are granted. -/
def Mach.startWrite (cfg : Cfg) (c : Cmd) (m : Mach) : Mach :=
  let nsid := c.sqe.nsid.toNat
  let n := m.ns nsid
  match (if c.sqe.opc = 0x19 then m.copyStatus c else none) with
  | some s => m.failWith c.stamp s
  | none =>
    if n.headland then
      if n.safe then m.failWith c.stamp St.zoneReadOnly
      else if n.slots.all (fun b => m.fencedA (bedAcre b)) then m.failWith c.stamp St.nsNotReady
      else
        let m := m.updCmd c.stamp fun k => { k with lba := c.sqe.slba, nlb := c.sqe.blocksOf, zone := none }
        (m.setStage c.stamp .rowWait).tryRows cfg c.stamp
    else m.admitWrite cfg c

/-! ## Reads (03 R150) -/

/-- Parts of a read, split at zone boundaries. -/
def readParts (zsze : Nat) : Nat → Nat → Nat → List (Nat × Nat)
  | 0, _, _ => []
  | fuel + 1, lba, n =>
    if n = 0 then []
    else
      let k := if zsze = 0 then n else Nat.min n (zsze - lba % zsze)
      (lba, k) :: readParts zsze fuel (lba + k) (n - k)

/-- Some block of a part is unwritten. -/
def Mach.someUnwritten (m : Mach) (nsid : Nat) (p : Nat × Nat) : Bool :=
  (List.range p.2).any (fun i => !m.written nsid (p.1 + i))

/-- The first lost block of a range. -/
def Mach.firstLost (m : Mach) (nsid lba n : Nat) : Option Nat :=
  ((List.range n).map (fun i => lba + i)).find? (fun b => m.written nsid b && (m.blk nsid b).lost)

/-- Start a Read or Verify whose locks are granted. -/
def Mach.startRead (c : Cmd) (m : Mach) : Mach :=
  let nsid := c.sqe.nsid.toNat
  let n := m.ns nsid
  let lba := c.sqe.slba
  let len := c.sqe.nlb
  let parts := readParts (if n.headland then 0 else n.zsze) len lba len
  let away := if n.headland then
      (List.range len).any (fun i => m.awayBlock nsid (lba + i))
    else parts.any (fun p => m.zst nsid (p.1 / n.zsze) == .offline)
  if away then m.failWith c.stamp (if n.headland then St.nsNotReady else St.zoneOffline)
  else if n.safe && m.boot.lostRec then m.failWith c.stamp St.unrecovered
  else match m.firstLost nsid lba len with
    | some _ => m.failWith c.stamp St.unrecovered
    | none =>
      let refuse := fun (p : Nat × Nat) => n.unwritten == 1 && m.someUnwritten nsid p
      let m := m.updCmd c.stamp fun k =>
        { k with stage := .media, status := if parts.any refuse then St.unwrittenBlock else Status.ok }
      let m := if n.headland then m.mapRead nsid lba len c.stamp else m
      let go := parts.filter (fun p => !refuse p)
      let m := go.foldl (fun m p =>
        m.startReads c (((List.range p.2).map fun i => p.1 + i).filter (m.written nsid))) m
      m.readStep c.stamp

/-! ## The other commands with locks -/

/-- End a command that changed durable state at once: committed, with its status. -/
def Mach.settle (stamp : Nat) (st : Option Status) (m : Mach) : Mach :=
  match st with
  | some s => m.failWith stamp s
  | none => (m.updCmd stamp fun k => { k with committed := true }).succeed stamp

/-- Unmap the blocks of a deallocation (04 R185, 03 R166); it has no effect on a zoned namespace. -/
def Mach.deallocate (nsid : Nat) (ranges : List (Nat × Nat)) (m : Mach) : Mach :=
  if (m.ns nsid).headland then
    let hit := fun (l : Nat) => ranges.any (fun r => decide (r.1 ≤ l) && decide (l < r.1 + r.2))
    let m := m.updNs nsid fun n => { n with map := n.map.filter (fun e => !hit e.1) }
    (m.onMed fun x => { x with store := x.store.filter (fun e => !(decide (e.1 / 2 ^ 44 = nsid) && hit (e.1 % 2 ^ 44))),
                               copies := x.copies.filter (fun e => !(e.1 == nsid && hit e.2.1)) }).recycleAll nsid
  else m

/-- The action that a Zone Management Send names, but Set Zone Descriptor Extension. -/
def zsaAction : Nat → Option ZAction
  | 1 => some .close | 2 => some .finish | 3 => some .open_ | 4 => some .reset | 5 => some .offline | _ => none

/-- Zone Management Send (03 R132, R133, R146). -/
def Mach.zoneSend (c : Cmd) (m : Mach) : Mach :=
  let nsid := c.sqe.nsid.toNat
  let n := m.ns nsid
  let zi := c.sqe.slba / n.zsze
  let r : Option Status × Mach := match zsaAction c.sqe.zsa with
    | some a => if c.sqe.selectAll then m.zoneActAll nsid c.plot a else m.zoneAct nsid zi c.plot a
    | none =>
      if extOk c.sqe.data (m.nsBeds n) then m.zoneSetExt nsid zi c.plot (Ext.parse c.sqe.data) else (some St.invalidField, m)
  r.2.settle c.stamp r.1

/-- Zone Management Receive (03 R135): the report is cut at the buffer. -/
def Mach.zoneReceive (c : Cmd) (m : Mach) : Mach :=
  let nsid := c.sqe.nsid.toNat
  let len := Nat.min c.sqe.bufLen (4 * (c.sqe.cdw12.toNat + 1))
  let opt := Word.bits c.sqe.cdw13 15 8
  let ext := c.sqe.zsa == 1
  let bytes := m.zoneReport nsid c.sqe.slba opt len c.sqe.partialRep ext
  let m := m.noteReported nsid ((m.reportList nsid c.sqe.slba opt).take ((len - 64) / (if ext then 128 else 64)))
  m.reply c.stamp bytes

/-! ## Starting what the locks allow -/

/-- The command has a zone task: a write or a Zone Management Send of a zoned namespace (01 R16). -/
def Mach.hasZoneTask (m : Mach) (c : Cmd) : Bool :=
  c.sq != 0 && !(m.ns c.sqe.nsid.toNat).headland && (c.sqe.isWrite || c.sqe.opc == 0x79)

/-- Zone tasks of one zone run one at a time, in fetch order: no earlier command of the zone waits for the end of its own (03 R140; 04 R184). -/
def Mach.zoneTurn (m : Mach) (c : Cmd) : Bool :=
  let n := m.ns c.sqe.nsid.toNat
  let all := fun (k : Cmd) => k.sqe.opc == 0x79 && k.sqe.selectAll
  !m.hasZoneTask c || !m.front.inflight.any fun k =>
    decide (k.stamp < c.stamp) && (k.stage == .locked || k.stage == .zoned) && m.hasZoneTask k && k.sqe.nsid == c.sqe.nsid &&
      (all k || all c || k.sqe.slba / n.zsze == c.sqe.slba / n.zsze)

/-- Run the command's own work: its locks are granted. -/
def Mach.startIo (cfg : Cfg) (c : Cmd) (m : Mach) : Mach :=
  if c.isRead then m.startRead c
  else if c.sqe.isWrite then m.startWrite cfg c
  else if c.sqe.opc == 0x09 then
    (if c.sqe.cdw11.getLsbD 2 then m.deallocate c.sqe.nsid.toNat c.sqe.ranges else m).settle c.stamp none
  else if c.sqe.opc == 0x79 then m.zoneSend c
  else m.zoneReceive c

/-- A Namespace Management (delete) or Format NVM whose locks are granted acts (03 R129, 04 R213). -/
def Mach.startSpaces (c : Cmd) (m : Mach) : Mach :=
  let l := m.nsNamed c.sqe
  let m := l.foldl (fun m i => if c.sqe.opc = 0x80 then m.formatNs i else m.deleteNs i) m
  (m.updCmd c.stamp fun k => { k with committed := true }).succeed c.stamp

/-- The namespace has been deleted while the command waited behind the Delete (03 R129). -/
def Mach.nsGone (m : Mach) (c : Cmd) : Bool := !(m.ns c.sqe.nsid.toNat).exists_

/-- The acre that owns the zone of a command: that of its bed, or of the first bed up of its namespace while it is unbound; 4 stands for any. -/
def Mach.zoneAcre (m : Mach) (c : Cmd) : Nat :=
  let nsid := c.sqe.nsid.toNat
  let z := m.zone nsid (c.sqe.slba / (m.ns nsid).zsze)
  if z.bound then bedAcre z.bed
  else match (m.nsBeds (m.ns nsid)).find? (fun b => m.acreUp (bedAcre b)) with
    | some b => bedAcre b
    | none => 4

/-- A command whose locks are granted and whose turn has come starts: its zone task is placed in lane 2 of its acre, where it has one (01 R16, R17). -/
def Mach.startOwn (cfg : Cfg) (c : Cmd) (m : Mach) : Mach :=
  if m.hasZoneTask c then (m.setStage c.stamp .zoned).place { mkTask .zone 2 (m.zoneAcre c) with stamp := c.stamp }
  else m.startIo cfg c

/-- Start, in fetch order, every command whose locks are granted. -/
def Mach.startGranted (cfg : Cfg) (m : Mach) : Mach :=
  (m.front.inflight.map (fun c => c.stamp)).foldl (fun m stamp =>
    match m.cmd? stamp with
    | some c =>
      if c.stage ≠ .locked ∨ m.lockReady c = false then m
      else if c.sq = 0 then m.startSpaces c
      else if m.nsGone c then m.failWith stamp St.invalidNs
      else if m.zoneTurn c then m.startOwn cfg c else m
    | none => m) m

/-- Take and grant locks, and start what they allow. -/
def Mach.pump (cfg : Cfg) (m : Mach) : Mach := ((m.lockStep).grantLocks).startGranted cfg

/-- The end of a command's zone task: its update of the zone is made, and what waited for the zone goes on (01 R15; 03 R140). -/
def Mach.zoneEnd (cfg : Cfg) (stamp : Nat) (m : Mach) : Mach :=
  match m.cmd? stamp with
  | some c =>
    if c.stage ≠ .zoned then m
    else (if m.nsGone c then m.failWith stamp St.invalidNs else m.startIo cfg c).pump cfg
  | none => m

/-! ## Flush (04 R195 to R198) -/

/-- A covered unit has not been programmed. -/
def Mach.uncovered (m : Mach) (l : List (Nat × Nat)) : Bool :=
  m.med.units.any fun u => !u.done && l.contains (zkey u.nsid u.zone, u.row * 32 + u.col)

/-- Start a Flush: at once done without a volatile cache (R196). Otherwise its queue has been held since its fetch (R198), the covered units that are
incomplete are kept by the dump path, and it waits for the complete ones (R197). -/
def Mach.startFlush (c : Cmd) (m : Mach) : Mach :=
  if !m.power.vwc then m.succeed c.stamp
  else
    let full := (m.med.units.filter fun u => u.full && !u.done).map fun u => (zkey u.nsid u.zone, u.row * 32 + u.col)
    (m.updCmd c.stamp fun k => { k with cover := k.cover.filter full.contains, stage := .media }).dumpOpen (m.flushNs c)

/-! ## The front-end task of an I/O command -/

/-- An I/O command of a member's namespace: the manager checks its host buffer, whose pointers the member never sees (10 R459, R475). -/
def Mach.ioToMember (c : Cmd) (m : Mach) : Mach :=
  if (m.member (memberOf c.sqe.nsid.toNat)).st ≠ 1 ∨ c.sqe.usesBuf = false then m.toMember c
  else if c.sqe.buf = .malformed then m.plotError c.plot 2
  else match c.sqe.bufStatus with
    | some s => m.failWith c.stamp s
    | none => m.toMember c

/-- The front-end task of an I/O command ends (01 R16): its checks, then its locks. -/
def Mach.frontIo (cfg : Cfg) (c : Cmd) (m : Mach) : Mach :=
  let m := m.dropTasks c.stamp
  if m.remote c.sqe.nsid.toNat then m.ioToMember c
  else match m.ioStatus c with
    | some s => (m.failWith c.stamp s).pump cfg
    | none =>
      if c.sqe.usesBuf && c.sqe.buf == .malformed then (m.plotError c.plot 2).pump cfg
      else if c.sqe.opc = 0x00 then m.startFlush c
      else (m.setStage c.stamp .locked).pump cfg

/-- A row of the table for an I/O command of one kind, by its stamp: the command's front-end task ends, or then its zone task. -/
def Mach.ioRow (cfg : Cfg) (stamp at_ : Nat) (ok : Sqe → Bool) (m : Mach) : Mach :=
  let m := m.advance at_
  match m.cmd? stamp with
  | some c => if c.sq = 0 ∨ ok c.sqe = false then m
    else if c.stage = .fetched then m.frontIo cfg c
    else if c.stage = .zoned then (m.dropTasks stamp).zoneEnd cfg stamp else m
  | none => m

def execWrite (stamp at_ : Nat) (s : State) : Host.Outcome State Fault Refusal :=
  .next (s.on fun c m => m.ioRow c stamp at_ fun e => e.opc == 0x01)
def execZoneAppend (stamp at_ : Nat) (s : State) : Host.Outcome State Fault Refusal :=
  .next (s.on fun c m => m.ioRow c stamp at_ fun e => e.opc == 0x7D)
def execWriteZeroes (stamp at_ : Nat) (s : State) : Host.Outcome State Fault Refusal :=
  .next (s.on fun c m => m.ioRow c stamp at_ fun e => e.opc == 0x08)
def execCopy (stamp at_ : Nat) (s : State) : Host.Outcome State Fault Refusal :=
  .next (s.on fun c m => m.ioRow c stamp at_ fun e => e.opc == 0x19)
def execRead (stamp at_ : Nat) (s : State) : Host.Outcome State Fault Refusal :=
  .next (s.on fun c m => m.ioRow c stamp at_ fun e => e.opc == 0x02)
def execVerify (stamp at_ : Nat) (s : State) : Host.Outcome State Fault Refusal :=
  .next (s.on fun c m => m.ioRow c stamp at_ fun e => e.opc == 0x0C)
def execFlush (stamp at_ : Nat) (s : State) : Host.Outcome State Fault Refusal :=
  .next (s.on fun c m => m.ioRow c stamp at_ fun e => e.opc == 0x00)
def execDatasetManagement (stamp at_ : Nat) (s : State) : Host.Outcome State Fault Refusal :=
  .next (s.on fun c m => m.ioRow c stamp at_ fun e => e.opc == 0x09)
/-- ZONE_OPEN, and the front-end task of a Zone Management Send whose action no other row names: its action fails Invalid Field (04 R211). -/
def execZoneOpen (stamp at_ : Nat) (s : State) : Host.Outcome State Fault Refusal :=
  .next (s.on fun c m => m.ioRow c stamp at_ fun e => e.opc == 0x79 && !([1, 2, 4, 5, 0x10].contains e.zsa))
def execZoneClose (stamp at_ : Nat) (s : State) : Host.Outcome State Fault Refusal :=
  .next (s.on fun c m => m.ioRow c stamp at_ fun e => e.opc == 0x79 && e.zsa == 1)
def execZoneFinish (stamp at_ : Nat) (s : State) : Host.Outcome State Fault Refusal :=
  .next (s.on fun c m => m.ioRow c stamp at_ fun e => e.opc == 0x79 && e.zsa == 2)
def execZoneReset (stamp at_ : Nat) (s : State) : Host.Outcome State Fault Refusal :=
  .next (s.on fun c m => m.ioRow c stamp at_ fun e => e.opc == 0x79 && e.zsa == 4)
def execZoneOffline (stamp at_ : Nat) (s : State) : Host.Outcome State Fault Refusal :=
  .next (s.on fun c m => m.ioRow c stamp at_ fun e => e.opc == 0x79 && e.zsa == 5)
def execZoneSetZde (stamp at_ : Nat) (s : State) : Host.Outcome State Fault Refusal :=
  .next (s.on fun c m => m.ioRow c stamp at_ fun e => e.opc == 0x79 && e.zsa == 0x10)
def execReportZones (stamp at_ : Nat) (s : State) : Host.Outcome State Fault Refusal :=
  .next (s.on fun c m => m.ioRow c stamp at_ fun e => e.opc == 0x7A && e.zsa != 1)
def execExtendedReportZones (stamp at_ : Nat) (s : State) : Host.Outcome State Fault Refusal :=
  .next (s.on fun c m => m.ioRow c stamp at_ fun e => e.opc == 0x7A && e.zsa == 1)

/-- FLUSH_DONE (04 R197, R225): the complete units that the Flush covers have been programmed; what is incomplete now is kept in the
headland. -/
def execFlushDone (stamp : Nat) (s : State) : Host.Outcome State Fault Refusal :=
  .next (s.on fun _ m =>
    match m.cmd? stamp with
    | some c =>
      if c.stage = .media ∧ c.sqe.opc = 0x00 ∧ c.sq ≠ 0 ∧ m.uncovered c.cover = false then
        ((m.dumpOpen (m.flushNs c)).record 0x0404 c.flushKib 0).succeed stamp
      else m
    | none => m)

/-! ## Waiting and committing -/

/-- RANGE_LOCK_GRANT (04 R190, R191): entries that nothing earlier conflicts with are granted, and their commands start. -/
def execRangeLockGrant (at_ : Nat) (s : State) : Host.Outcome State Fault Refusal :=
  .next (s.on fun c m => (m.advance at_).pump c)

/-- STRIPE_ROW_RESERVATION (07 R377). -/
def execStripeRowReservation (stamp at_ : Nat) (s : State) : Host.Outcome State Fault Refusal :=
  .next (s.on fun c m => (m.advance at_).tryRows c stamp)

/-- DIRTY_CAP_ADMIT (07 R382): the earliest write that waits for the cap. -/
def execDirtyCapAdmit (at_ : Nat) (s : State) : Host.Outcome State Fault Refusal :=
  .next (s.on fun c m =>
    let m := m.advance at_
    match (m.front.inflight.filter (fun k => k.stage == .capWait)).map (fun k => k.stamp) with
    | [] => m
    | l => m.tryCap c (l.foldl Nat.min (l.headD 0)))

/-- Data that a write stores for its block `i`: host data, zeros, or the Copy's source blocks in order. -/
def Mach.writeData (m : Mach) (c : Cmd) : List Block :=
  let nsid := c.sqe.nsid.toNat
  if c.sqe.opc = 0x08 then List.replicate c.nlb 0
  else if c.sqe.opc = 0x19 then
    (c.sqe.ranges.flatMap (fun r => (List.range r.2).map (fun i => r.1 + i))).map fun b =>
      if m.written nsid b then (m.blk nsid b).data else 0
  else (List.range c.nlb).map (fun i => c.sqe.blocks.getD i 0)

/-- The carried grain CRCs of those blocks on a worker, four each (10 R475). -/
def Mach.writeCrcs (m : Mach) (c : Cmd) : List Nat :=
  if c.sqe.opc = 0x19 then
    (c.sqe.ranges.flatMap (fun r => (List.range r.2).map (fun i => r.1 + i))).flatMap fun b =>
      (List.range 4).map fun i => (m.blk c.sqe.nsid.toNat b).crcs.getD i 0
  else c.crcs

/-- Store the blocks of a write under the key of its plot (03 R150, 09 R429), a worker with the CRCs that came with them (10 R475). -/
def Mach.storeBlocks (c : Cmd) (data : List Block) (m : Mach) : Mach :=
  let nsid := c.sqe.nsid.toNat
  let key := (m.plot c.plot).key
  let crcs := if m.hitch.role = 2 then m.writeCrcs c else []
  ((List.range c.nlb).zip data).foldl (fun m e =>
    let b : Blk := { data := e.2, plot := c.plot, key := key, lost := false, crcs := (crcs.drop (4 * e.1)).take 4 }
    m.onMed fun x => { x with store := Tbl.put Blk.init (bkey nsid (c.lba + e.1)) b x.store }) m

/-- The commit point of an admitted write of a zone: WP moves to its end, its bytes enter their units, and a zone whose
pointer reaches ZCAP becomes Full (03 R132, R140). -/
def Mach.commitZone (c : Cmd) (zi : Nat) (m : Mach) : Mach :=
  let nsid := c.sqe.nsid.toNat
  let n := m.ns nsid
  let o := c.lba - zi * n.zsze
  let m := m.storeBlocks c (m.writeData c)
  let m := m.updZone nsid zi fun z =>
    { z with wp := o + c.nlb, dend := o + c.nlb, firstAt := if z.firstAt = 0 then m.gridNs else z.firstAt }
  let m := m.addUnits nsid zi c.plot n.unitLen (m.zone nsid zi).a (c.nlb + 1) o c.nlb
  let z := m.zone nsid zi
  if z.wp = z.zcap ∧ z.st.isActive = true then m.zoneFull nsid zi else m

/-- Free positions of a headland namespace on acres that are up. -/
def Mach.headFree (m : Mach) (nsid : Nat) : Nat :=
  sumBy (fun i => if m.acreUp (bedAcre (m.zone nsid i).bed) then (m.ns nsid).slotBlocks - (m.zone nsid i).wp else 0) (List.range (m.ns nsid).slots.length)

/-- The commit point of a headland write: each block is appended and mapped (03 R164). -/
def Mach.commitHead (c : Cmd) (m : Mach) : Mach :=
  let nsid := c.sqe.nsid.toNat
  let before := m.headFreePct nsid
  let m := m.storeBlocks c (m.writeData c)
  (((List.range c.nlb).foldl (fun m i => m.headAppend nsid (c.lba + i) c.plot) m).noteFloor nsid before).recycleAll nsid

/-- The command is the earliest admitted one of its zone (03 R140 item 6). -/
def Mach.firstAdmitted (m : Mach) (c : Cmd) : Bool :=
  !m.front.inflight.any fun k =>
    k.admitted && decide (k.stamp < c.stamp) && k.sqe.nsid == c.sqe.nsid && k.zone == c.zone

/-- A worker's write whose data have not all come from the manager (10 R475). -/
def Mach.awaitsData (m : Mach) (c : Cmd) : Bool :=
  c.sqe.hostData && (match m.recv? c.stamp with | some r => decide (r.wrBytes < c.bytes) | none => false)

/-- COMMIT_POINT (03 R140, 04 R185): a write whose transfers and source reads have ended, its data sealed (01 R36). -/
def execCommitPoint (stamp : Nat) (s : State) : Host.Outcome State Fault Refusal :=
  .next (s.on fun _ m =>
    match m.cmd? stamp with
    | none => m
    | some c =>
      if c.stage ≠ .data ∨ m.liveDescs stamp = true ∨ m.med.ladders.any (fun l => l.stamp == stamp) = true ∨ m.awaitsData c = true ∨
          m.sealedAll c (if c.sqe.hostData then c.bytes else 0) = false then m
      else
        let go := match c.zone with
          | some zi => m.firstAdmitted c && m.acreUp (bedAcre (m.zone c.sqe.nsid.toNat zi).bed)
          | none => decide (c.nlb ≤ m.headFree c.sqe.nsid.toNat)
        if !go then m
        else
          let m := m.onMed fun x => { x with staged := x.staged.filter (fun e => e.1 != stamp) }
          let m := match c.zone with
            | some zi => (m.commitZone c zi).controlWrite (bedAcre (m.zone c.sqe.nsid.toNat zi).bed)
            | none => m.commitHead c
          let m := m.updPlot c.plot fun p => { p with acc := { p.acc with wr := p.acc.wr + c.bytes } }
          let m := m.updCmd stamp fun k =>
            { k with committed := true,
                     dw1 := if c.sqe.opc = 0x7D then BitVec.ofNat 32 (c.lba / 2 ^ 32) else 0 }
          m.finish stamp Status.ok (if c.sqe.opc = 0x7D then BitVec.ofNat 32 c.lba else 0))

end Sys2Proof.Machine
end

