-- ==== Sys2Proof/Machine/Drill.lean ====
section
/-! DEFINITION. Drill engines (08): placement (R387), the checks of R395, chunks by lane and deficit round robin (R388, R389), seals (R404,
R405), ends and what follows (R406 to R408). -/

namespace Sys2Proof.Machine

/-! ## Descriptors -/

/-- Requester code: a plot, or 2048 + internal class. -/
def reqCode (d : DrillDesc) : Nat := if d.internal then internalOwner d.requester else d.requester

/-- The acre that an entry names, for a pool buffer or DRAM. -/
def entryAcre (e : DrillEntry) : Option Nat :=
  match e.space with
  | .pool | .dram => some e.acre
  | _ => none

/-- The group that a descriptor is placed in: that of the acre of its DRAM or SRAM side, group 4 (the hub) with hub SRAM alone
(08 R387). -/
def descGroup (d : DrillDesc) : Nat := (d.entries.findSome? entryAcre).getD 4

/-- The entries of a role that are used, with the bytes used of each: in order until `len` bytes (08 R394). -/
def usedOf (dest : Bool) : List DrillEntry → Nat → List (DrillEntry × Nat)
  | [], _ => []
  | e :: t, len =>
    if len = 0 then []
    else if e.dest = dest then
      let k := Nat.min e.len len
      if k = 0 then usedOf dest t len else (e, k) :: usedOf dest t (len - k)
    else usedOf dest t len

/-- End of the DRAM region that an address lies in (07 R338); none beyond the port. -/
def regionEnd (acre cap addr : Nat) : Option Nat :=
  let mib := 1048576
  let hub := if acre < 2 then 128 else 0
  let dEnd := 512 + hub + cap * 128
  let eEnd := dEnd + 16 * poolCount acre cap 4
  ([256 * mib, 512 * mib, (512 + hub) * mib, dEnd * mib, eEnd * mib]).find? (fun e => decide (addr < e))

/-- The entry ends within the space unit of its first byte (08 R394). -/
def Mach.inLimit (m : Mach) (e : DrillEntry) : Bool :=
  match e.space with
  | .host | .reserved => true
  | .pool => decide (e.addr % 2 ^ 32 + e.len ≤ poolSize e.pool)
  | .dram => match regionEnd e.acre (m.port e.acre).cap e.addr with
    | some x => decide (e.addr + e.len ≤ x)
    | none => false
  | .hubSram => decide (e.addr + e.len ≤ 8388608)

/-- Two used ranges share a byte: host addresses per port, internal addresses per space unit (08 R396). -/
def overlaps (a b : DrillEntry × Nat) : Bool :=
  let same := match a.1.space, b.1.space with
    | .host, .host => a.1.port == b.1.port
    | .pool, .pool => a.1.acre == b.1.acre && a.1.pool == b.1.pool
    | .dram, .dram => a.1.acre == b.1.acre
    | .hubSram, .hubSram => true
    | _, _ => false
  same && decide (a.1.addr < b.1.addr + b.2) && decide (b.1.addr < a.1.addr + a.2)

/-- Some two elements of a list overlap. -/
def selfOverlap : List (DrillEntry × Nat) → Bool
  | [] => false
  | a :: t => t.any (overlaps a) || selfOverlap t

/-- Used sources and destinations of a descriptor, the grain CRC list among them (08 R396). -/
def grainsOf (d : DrillDesc) : List (DrillEntry × Nat) := [(d.crcEntry, 4 * (d.len / 1024))]

end Sys2Proof.Machine

namespace Sys2Proof.Machine

def srcsOf (d : DrillDesc) : List (DrillEntry × Nat) :=
  usedOf false d.entries d.len ++ (if d.grainChk then grainsOf d else [])
def dstsOf (d : DrillDesc) : List (DrillEntry × Nat) :=
  usedOf true d.entries d.len ++ (if d.grainGen then grainsOf d else [])

/-- Host destinations of the descriptor overlap (08 R406 code 0x6). -/
def hostOverlap (d : DrillDesc) : Bool := selfOverlap ((usedOf true d.entries d.len).filter (fun e => e.1.space == .host))

/-- The one overlap that is allowed (08 R397): a single source and a single destination in pools or DRAM of one acre. -/
def overlapAllowed (d : DrillDesc) : Bool :=
  match usedOf false d.entries d.len, usedOf true d.entries d.len with
  | [a], [b] => (entryAcre a.1).isSome && entryAcre a.1 == entryAcre b.1 && !d.grainGen && !d.grainChk
  | _, _ => false

/-- OVERLAP of 08 R396. -/
def overlapBad (d : DrillDesc) : Bool :=
  selfOverlap (dstsOf d) || (!overlapAllowed d && (srcsOf d).any (fun s => (dstsOf d).any (overlaps s)))

/-- What check 1 of 08 R395 asks of one entry. -/
def formOk (d : DrillDesc) (e : DrillEntry) : Bool :=
  e.resOk && e.space != .reserved && (e.space != .pool || decide (e.pool < 5)) && !(d.internal && e.space == .host)

/-- Check 1 of 08 R395. -/
def checkForm (d : DrillDesc) : Bool :=
  decide (1 ≤ d.entries.length) && decide (d.entries.length ≤ 64) && d.resOk && d.all.all (formOk d) &&
    !(d.enc && d.dec) && !(d.grainGen && d.grainChk) && !(d.internal && (d.enc || d.dec))

/-- What check 2 of 08 R395 asks of one entry: its acre is there and enabled, and its buffer is one of its pool. -/
def Mach.spaceOk (m : Mach) (e : DrillEntry) : Bool :=
  match entryAcre e with
  | some a => decide (a < m.nAcres) && (e.space != .pool || decide (e.addr / 2 ^ 32 < (m.pool a e.pool).count))
  | none => true

/-- Check 2 of 08 R395. -/
def Mach.checkSpace (m : Mach) (d : DrillDesc) : Bool :=
  !(d.all.any (fun e => e.space == .host && !e.dest) && d.all.any (fun e => e.space == .host && e.dest)) && d.all.all m.spaceOk

/-- An entry lies in no acre that is fencing or fenced. -/
def Mach.fenceOk (m : Mach) (e : DrillEntry) : Bool :=
  match entryAcre e with
  | some a => !m.fencedA a && !m.fencingA a
  | none => true

/-- Check 3 of 08 R395. -/
def Mach.checkFence (m : Mach) (d : DrillDesc) : Bool := d.all.all m.fenceOk

/-- Check 4 of 08 R395. -/
def Mach.checkLength (m : Mach) (d : DrillDesc) : Bool :=
  let total := fun (dest : Bool) => sumBy (fun (e : DrillEntry) => if e.dest = dest then e.len else 0) d.entries
  d.len = 0 ||
    (decide (d.len ≤ total false) && decide (d.len ≤ total true) &&
      ((usedOf false d.entries d.len) ++ (usedOf true d.entries d.len)).all (fun e => m.inLimit e.1) &&
      (!(d.grainGen || d.grainChk) || decide (4 * (d.len / 1024) ≤ d.crcEntry.len)))

/-- The code of the first check that a descriptor fails, 0 when it passes them all (08 R395, R398). -/
def Mach.descCheck (m : Mach) (d : DrillDesc) : Nat :=
  if !checkForm d then 1
  else if !m.checkSpace d then 2
  else if !m.checkFence d then 3
  else if !m.checkLength d then 4
  else if d.len ≠ 0 && (((d.enc || d.dec) && decide (d.len % 4096 ≠ 0)) || ((d.grainGen || d.grainChk) && decide (d.len % 1024 ≠ 0))) then 5
  else if overlapBad d then 6
  else if (d.enc || d.dec) && decide ((m.plot d.requester).key = 0) then 7
  else 0

/-- Place of the first entry of a descriptor for which a test holds, 0xFFFF where there is none (08 R391). -/
def entryPlace (d : DrillDesc) (f : DrillEntry → Bool) : Nat := (d.entries.findIdx? f).getD 0xFFFF

/-- The index that a check's failure leaves in the header: the first entry that fails it by itself; none for a failure of the header or of entries
together, overlaps among them (08 R391, DESIGN CHOICE: notes/assumptions/133). -/
def Mach.checkPlace (m : Mach) (d : DrillDesc) (code : Nat) : Nat :=
  entryPlace d fun e => match code with
    | 1 => !formOk d e
    | 2 => !m.spaceOk e
    | 3 => !m.fenceOk e
    | 4 => decide (0 < e.len) && !m.inLimit e
    | _ => false

/-! ## Seals (08 R404) -/

/-- A code for each target that a descriptor writes: host ports, DRAM and SRAM of each acre, hub SRAM. -/
def targetOf (e : DrillEntry) : Nat :=
  match e.space with
  | .host => e.port % 2
  | .hubSram => 2
  | .pool => 16 + 2 * e.acre + (if e.pool < 3 then 1 else 0)
  | .dram => 16 + 2 * e.acre
  | .reserved => 3

/-- Seal reads that a descriptor needs once its bytes are written, in group `g`. -/
def sealsOf (g : Nat) (d : DrillDesc) : Nat :=
  let dst := (dstsOf d).map (fun e => e.1)
  let need := (d.phaseEnd && !dst.isEmpty) || (d.hostRo && dst.any (fun e => e.space == .host)) ||
    dst.any (fun e => match entryAcre e with | some a => a != g | none => false)
  if d.len = 0 ∨ need = false then 0 else (dedup (dst.map targetOf)).length

/-! ## Ends of a descriptor (08 R406) -/

/-- A host fault of a requester: a plot error (09 R431 cause 0x01). -/
def Mach.hostFault (d : DrillDesc) (m : Mach) : Mach :=
  if d.internal then m else (m.record 0x0801 d.requester 0).plotError d.requester 1

/-- A grain CRC-32C mismatch (06 R310): the read is run once more from a new sense; a second mismatch ends it. -/
def Mach.grainMismatch (d : DrillDesc) (grain : Nat) (c : Cmd) (m : Mach) : Mach :=
  if c.resensed then (m.record 0x0609 c.plot 0).failRead c St.unrecovered
  else
    let m := (m.updCmd c.stamp fun k => { k with resensed := true }).startReads c [d.tweak + grain / 4]
    match m.cmd? c.stamp with
    | some k => if k.lostLbas.isEmpty then m else m.readStep c.stamp
    | none => m

/-- A seed-bin line of a read is uncorrectable (06 R311): blocks whose unit has been programmed are read from their dies;
otherwise the read fails. -/
def Mach.seedLost (c : Cmd) (m : Mach) : Mach :=
  let nsid := c.sqe.nsid.toNat
  let at_ := ((List.range c.sqe.nlb).map (fun i => c.sqe.slba + i)).filterMap fun b =>
    match m.locate nsid b with
    | some (zi, o) =>
      let z := m.zone nsid zi
      let u := (m.ns nsid).unitLen
      let row := rowOf z.a u o
      let col := dcolOf z.a u o
      (m.rowUnits nsid zi row).find? (fun x => x.col == col) |>.map fun x => (b, x.done && !x.lost, z.dieOf (dataCol z.a zi row col))
    | none => none
  let gone := at_.filter (fun e => !e.2.1)
  if gone.isEmpty then ((m.sheafGroups nsid (at_.map fun e => e.1)).foldl (fun m g =>
    m.dieLadder c.stamp nsid (m.readLane c (g.headD 0)) g) m).readStep c.stamp
  else
    let m := gone.foldl (fun m e => m.uncorrectable 1 e.2.2) (m.dropWork c.stamp)
    (m.lostEntry nsid (gone.map (fun e => e.1))).failWith c.stamp St.unrecovered

/-- What a descriptor's end means for its command (08 R406). -/
def Mach.descOutcome (d : DrillDesc) (code grain : Nat) (m : Mach) : Mach :=
  if d.stamp = 0 then m
  else match m.cmd? d.stamp with
    | none => m.drained d.stamp
    | some c =>
      if c.caught then m.drained d.stamp
      else
        let fail := fun (st : Status) (m : Mach) =>
          let m := m.squashDescs c.stamp
          if c.isRead then (m.dropWork c.stamp).failWith c.stamp st else m.failWrite c.stamp st
        match code with
        | 0 => (m.updCmd c.stamp fun k =>
            { k with sealed := k.sealed + d.len, phaseDone := k.phaseDone || d.phaseEnd }).readStep c.stamp
        | 3 => fail (if (m.ns c.sqe.nsid.toNat).headland then St.nsNotReady else St.zoneOffline) m
        | 6 => fail (if hostOverlap d then St.dataTransfer else St.internal) m
        | 8 => m
        | 9 => if c.isRead then m.seedLost c else fail St.writeFault m
        | 10 => m.grainMismatch d grain c
        | 11 => m
        | _ => fail St.internal m

/-- A descriptor ends with a code (08 R406): it leaves its group, and its command goes on. -/
def Mach.descEnd (g : Nat) (x : Desc) (code index : Nat) (m : Mach) : Mach :=
  let m := m.descClose g x code index
  (if code = 8 then m.hostFault x.d else m).descOutcome x.d code index

/-- All that a descriptor waited for has returned: it ends with the code it has, with SQUASHED after a squash, or with OK. -/
def Mach.descDone (g : Nat) (x : Desc) (m : Mach) : Mach :=
  m.descEnd g x (match x.ended with | some c => c | none => if x.squash then 11 else 0) 0xFFFF

/-! ## The rows -/

/-- DESCRIPTOR_PLACE (08 R387, R391). A group of an acre that is not up takes no request (01 R56). -/
def execDescriptorPlace (desc : List Byte) (at_ : Nat) (s : State) : Host.Outcome State Fault Refusal :=
  .next (s.on fun _ m =>
    let m := m.advance at_
    let desc := DrillDesc.ofBytes desc
    let g := descGroup desc
    if g ≠ 4 ∧ m.acreUp g = false ∨ requesterOk desc.internal desc.requester = false ∨ m.awake = false then m
    else
      let (i, m) := m.freshId
      let x : Desc := { id := i, d := desc, moved := 0, started := false, engine := none, ended := none, seals := 0, sealAt := 0,
                        last := none, stream := [], placedAt := m.clk.now, squash := false }
      m.updGroup g fun p => { p with queue := p.queue ++ [x] })

/-- Round-robin requester of a descriptor: a plot, or the internal classes together. -/
def shareCode (d : DrillDesc) : Nat := if d.internal then 2048 else d.requester

/-- Quantum of a requester in bytes (08 R389). -/
def Mach.quantum (c : Cfg) (m : Mach) (g r : Nat) : Nat :=
  65536 * (if r = 2048 then Tbl.get 0x10 g c.intWt else (m.plot r).quota.drillW)

/-- A chunk of the descriptor can be taken: none of it runs, it has not ended, and its plot is not in Error (08 R408). -/
def Mach.canChunk (m : Mach) (x : Desc) : Bool :=
  x.engine.isNone && x.ended.isNone && !x.squash && decide (x.seals = 0) &&
    (x.d.internal || (m.plot x.d.requester).st != .error)

def Desc.chunk (x : Desc) : Nat := Nat.min 65536 (x.d.len - x.moved)

/-- The copy runs downward from the end: one source and one destination in one space unit of an acre, the destination not below the source (08 R397). -/
def copyDown (d : DrillDesc) : Bool :=
  overlapAllowed d && (match usedOf false d.entries d.len, usedOf true d.entries d.len with
    | [a], [b] => a.1.space == b.1.space && (a.1.space == .dram || (a.1.pool == b.1.pool && a.1.addr / 2 ^ 32 == b.1.addr / 2 ^ 32)) &&
        decide (a.1.addr ≤ b.1.addr)
    | _, _ => false)

/-- The tweak of a data unit: its logical block, the namespace, and zeros, little-endian (08 R403). -/
def tweakOf (lba nsid : Nat) : List Byte := le 8 lba ++ le 4 nsid ++ zeros 4

/-- First byte, in stream order, of the next chunk (08 R388, R397). -/
def Desc.chunkAt (x : Desc) : Nat := if copyDown x.d then x.d.len - x.moved - x.chunk else x.moved

/-- The parts of the used entries of a list that hold bytes `lo` to `hi - 1` of a transfer: entry, offset in it, length. -/
def pieces : List (DrillEntry × Nat) → Nat → Nat → List (DrillEntry × Nat × Nat)
  | [], _, _ => []
  | (e, k) :: t, lo, hi =>
    let rest := pieces t (lo - k) (hi - k)
    if lo < k ∧ 0 < hi then (e, lo, Nat.min k hi - lo) :: rest else rest

/-- The DRAM requests of a chunk of `n` bytes on one side of its descriptor, its part of the grain CRC list among them (07 R343; 08 R399, R400,
R402): reads of data bound for the host are read return, the others staging. `data` are the bytes that a destination takes, in stream order, and those of its
list. -/
def Mach.chunkDram (x : Desc) (dest : Bool) (n : Nat) (data : List Byte) (m : Mach) : Mach :=
  let cls : DramClass := if !dest && x.d.entries.any (fun e => e.dest && e.space == .host) then .readReturn else .staging
  let list := if (if dest then x.d.grainGen else x.d.grainChk) then [(x.d.crcEntry, x.chunkAt / 256, n / 256)] else []
  ((pieces (usedOf dest x.d.entries x.d.len) x.chunkAt (x.chunkAt + n) ++ list).foldl (fun (s : Mach × List Byte) q =>
    let m := s.1
    let go := fun (a addr : Nat) (m : Mach) =>
      if dest then m.dramStore a addr q.2.2 (s.2.take q.2.2) cls .other x.d.stamp else m.dramRead a addr q.2.2 cls .drillSeal x.id
    (match q.1.space with
    | .dram => go q.1.acre (q.1.addr + q.2.1) m
    | .pool => if q.1.pool < 3 then m
      else go q.1.acre (poolAddr q.1.acre (m.port q.1.acre).cap q.1.pool (q.1.addr / 2 ^ 32) + q.1.addr % 2 ^ 32 + q.2.1) m
    | _ => m, s.2.drop q.2.2)) (m, data)).1

/-- AES-256-XTS of a chunk of a descriptor, in data units of 4,096 bytes (08 R403); `key` is the key of the requester. -/
def Desc.xts (x : Desc) (decrypt : Bool) (key bytes : List Byte) : List Byte :=
  ((bytePieces 4096 (bytes.length / 4096) bytes).mapIdx fun i p => aesXts decrypt key (tweakOf (x.d.tweak + x.chunkAt / 4096 + i) x.d.nsid) p).flatten

/-- Plaintext of a chunk read from its source, and the bytes that its destination takes (08 R401, R403). -/
def Mach.chunkBytes (x : Desc) (bytes : List Byte) (m : Mach) : List Byte × List Byte :=
  let key := m.keyBytes (m.plot x.d.requester).key
  if x.d.enc then (bytes, x.xts false key bytes)
  else if x.d.dec then (x.xts true key bytes, x.xts true key bytes)
  else (bytes, bytes)

/-- The descriptor whose next chunk a free drill takes, with the credits and the requester as they are after it (08 R389). -/
def Mach.pickChunk (c : Cfg) (m : Mach) (g : Nat) : Option (Desc × Tbl Nat × Nat) :=
  let p := m.group g
  let avail := p.queue.filter m.canChunk
  match avail.find? (fun x => x.d.lane0) with
  | some x => some (x, p.credit, p.lastReq)
  | none =>
    let codes := dedup (avail.map (fun x => shareCode x.d))
    let credit := p.credit.filter (fun e => p.queue.any (fun x => shareCode x.d == e.1))
    let first := fun (r : Nat) => avail.find? (fun x => shareCode x.d == r)
    let stay := match first p.lastReq with
      | some x => if x.chunk ≤ Tbl.get 0 p.lastReq credit then some x else none
      | none => none
    match stay with
    | some x => some (x, Tbl.upd 0 p.lastReq (fun n => n - x.chunk) credit, p.lastReq)
    | none =>
      match argMin (fun r => (r + 4096 - (p.lastReq + 1)) % 4096) codes with
      | none => none
      | some r => match first r with
        | none => none
        | some x => some (x, Tbl.upd 0 r (fun n => n + m.quantum c g r - x.chunk) credit, r)

/-- A used entry of a descriptor lies in host memory, and its function may not master the bus (08 R406). -/
def Mach.masterOff (m : Mach) (d : DrillDesc) : Bool :=
  !d.internal && m.plots.bmeOff.contains d.requester && (srcsOf d ++ dstsOf d).any fun e => e.1.space == .host

/-- Record that a drill takes a descriptor's chunk: its requester, the key it keeps (08 R403, R409), and the requester's credit. -/
def Mach.engineTakes (g e : Nat) (x : Desc) (credit : Tbl Nat) (last : Nat) (m : Mach) : Mach :=
  m.updGroup g fun p =>
    { p with credit := credit, lastReq := last,
             engines := Tbl.upd Engine.init e (fun y =>
               { y with req := x.d.requester, int := x.d.internal,
                        keyOf := if x.d.internal || y.keyOf != some x.d.requester then none else y.keyOf }) p.engines }

/-- A drill moves the next chunk of a descriptor: its source requests are posted, and it holds the key named. -/
def Mach.startChunk (g e : Nat) (x : Desc) (key : Option Nat) (m : Mach) : Mach :=
  (m.chunkDram x false x.chunk []).updGroup g fun p =>
    { p with engines := Tbl.upd Engine.init e (fun y => { y with st := 2, keyOf := key }) p.engines,
             queue := p.queue.map fun d => if d.id = x.id then { x with started := true, engine := some e } else d }

/-- DRILL_TAKE_CHUNK (08 R389, R395, R403): a free drill takes the next chunk; the checks are made before the first one, and the
plot's key is loaded where the drill does not hold it. `keyUe`: the key store fails its integrity check at that load (01 R62). In the group of an acre that
is no longer up every descriptor ends with FENCED. -/
def execDrillTakeChunk (group engine : Nat) (keyUe : Bool) (at_ : Nat) (s : State) : Host.Outcome State Fault Refusal :=
  .next (s.on fun c m =>
    let m := m.advance at_
    if 4 < group ∨ 8 ≤ engine ∨ (group ≠ 4 ∧ m.nAcres ≤ group) ∨ m.awake = false ∨ 3 ≤ m.power.ps ∨ (group ≠ 4 ∧ m.power.closing = true ∧ m.power.closeAt.isSome = true) then m
    else if (m.group group).queue.any (fun x => x.engine == some engine) then m
    else match m.pickChunk c group with
      | none => m
      | some (x, credit, last) =>
        let x := { x with last := some engine }
        let m := m.engineTakes group engine x credit last
        let code := if x.started then 0 else m.descCheck x.d
        let code := if (group = 4 ∨ m.acreUp group = true) ∨ code = 1 ∨ code = 2 then code else 3
        if code ≠ 0 then m.descEnd group x code (m.checkPlace x.d code)
        else if x.d.len = 0 then m.descEnd group x 0 0xFFFF
        else if m.masterOff x.d then m.descEnd group x 8 (entryPlace x.d fun e => e.space == .host)
        else
          let held := (Tbl.get Engine.init engine (m.group group).engines).keyOf
          let load := (x.d.enc || x.d.dec) && held != some x.d.requester
          if load && keyUe then m.enterFatal 4
          else
            let src := if group < 4 then group + 1 else 0
            let m := if x.d.lane0 && !x.started then m.record 0x0806 ((m.clk.now - x.placedAt) * 5 / 16) src else m
            (if load then m.record 0x0807 x.d.requester src else m).startChunk group engine x (if load then some x.d.requester else held))

/-- The first grain of a chunk whose CRC-32C is not that of the list (08 R402). -/
def badGrain (bytes : List Byte) (list : List Nat) : Option Nat :=
  (List.range (bytes.length / 1024)).find? fun k => crc32c (window bytes (1024 * k) 1024) != list.getD k 0

/-- A chunk joins the stream of its descriptor, at its end or, in a downward copy, before it (08 R397, R401). -/
def Desc.join (x : Desc) (bytes : List Byte) : Desc :=
  { x with engine := none, moved := x.moved + bytes.length, stream := if copyDown x.d then bytes ++ x.stream else x.stream ++ bytes }

/-- CHUNK_DONE (08 R388, R400 to R403): the chunk that runs on a drill has moved. `bytes` are its bytes in stream order as they are read from the source;
`list` the values that the grain CRC list holds for it, where it is checked. -/
def execChunkDone (group engine : Nat) (bytes : List Byte) (list : List Nat) (s : State) : Host.Outcome State Fault Refusal :=
  .next (s.on fun _ m =>
    match (m.group group).queue.find? (fun x => x.engine == some engine) with
    | none => m
    | some x =>
      let (bytes, out) := m.chunkBytes x (window bytes 0 x.chunk)
      let bad := if x.d.grainChk then badGrain bytes list else none
      let n := if x.squash then 0 else match bad with | some k => 1024 * k | none => x.chunk
      let m := m.chunkDram x true n (out.take n ++ (grainCrcs (bytes.take n)).flatMap (le 4))
      let x := x.join (bytes.take n)
      let m := m.updGroup group fun p =>
        { p with queue := p.queue.map (fun d => if d.id = x.id then x else d),
                 engines := Tbl.upd Engine.init engine (fun y => { y with st := 0 }) p.engines }
      if x.squash then m.descEnd group x 11 0xFFFF
      else if !m.checkFence x.d then m.descEnd group x 3 (m.checkPlace x.d 3)
      else if bad.isSome then m.descEnd group x 10 (x.moved / 1024)
      else if x.moved < x.d.len then m
      else
        let n := sealsOf group x.d
        if n = 0 then m.descEnd group x 0 0xFFFF
        else m.updGroup group fun p =>
          { p with queue := p.queue.map fun d => if d.id = x.id then { d with seals := n, sealAt := m.clk.now } else d })

/-- SEAL_RETURN (08 R404, R405): a seal read has returned, clean, with an uncorrectable line of the acre named, or with a host error. -/
def execSealReturn (group descId : Nat) (uncorrectable : Option Nat) (hostError : Bool) (at_ : Nat) (s : State) :
    Host.Outcome State Fault Refusal :=
  .next (s.on fun _ m =>
    let m := m.advance at_
    match (m.group group).queue.find? (fun x => x.id == descId && decide (0 < x.seals)) with
    | none => m
    | some x =>
      let m := match uncorrectable with
        | some a => m.record 0x0802 a (if group < 4 then group + 1 else 0)
        | none => m
      let x := { x with seals := x.seals - 1, ended := if hostError then some 8 else if uncorrectable.isSome then some 9 else x.ended }
      let m := m.updGroup group fun p => { p with queue := p.queue.map fun d => if d.id = x.id then x else d }
      if 0 < x.seals then m
      else
        let m := if (dstsOf x.d).any (fun e => e.1.space == .host) then m.record 0x0805 ((m.clk.now - x.sealAt) * 5 / 16) 0 else m
        if m.checkFence x.d then m.descDone group x else m.descEnd group x 3 (m.checkPlace x.d 3))

/-- A host request of a descriptor fails: it ends with HOST_FAULT, naming its first host entry (08 R406). -/
def Mach.descHostFault (group descId : Nat) (m : Mach) : Mach :=
  match (m.group group).queue.find? (fun x => x.id == descId && x.started) with
  | none => m
  | some x => m.descEnd group x 8 (entryPlace x.d fun e => e.space == .host)

/-- HOST_COMPLETION_TIMEOUT (08 R404, R406). -/
def execHostCompletionTimeout (group descId : Nat) (s : State) : Host.Outcome State Fault Refusal :=
  .next (s.on fun _ m => m.descHostFault group descId)

/-- HOST_READ_ERROR_COMPLETION (08 R406, 09 R431): a host read of a descriptor fails (cause 0x01), or a fetch of the plot's queue
entries or lists (cause 0x03). -/
def execHostReadErrorCompletion (plot : Nat) (descId : Option (Nat × Nat)) (at_ : Nat) (s : State) :
    Host.Outcome State Fault Refusal :=
  .next (s.on fun _ m =>
    let m := m.advance at_
    if !m.awake || decide (1024 ≤ plot) then m
    else match descId with
      | some d => m.descHostFault d.1 d.2
      | none => m.plotError plot 3)

end Sys2Proof.Machine
end

