-- ==== Sys2Proof/Machine/Dram.lean ====
section
/-! DEFINITION. DRAM ports (07 R335 to R366; 06 R317 to R331): rate requests and training, command slots, promotion, refresh, MR4 and
tracking, the merge buffer's time limit, self-refresh, and what an uncorrectable line means. -/

namespace Sys2Proof.Machine

/-! ## Rates and training (07 R335, R351 to R357) -/

/-- Rates of 07 R335, highest first, in units of 10 MT/s. -/
def dramRates : List Nat := [880, 800, 720, 640, 560, 480]

/-- Highest rate of the port's population (07 R334). -/
def Port.popRate (p : Port) : Nat := if p.ranks2 then 720 else 880

/-- The rate that a port tries first: the highest that its population and TARGET allow (07 R335). -/
def Port.firstRate (p : Port) (target : Nat) : Nat :=
  (dramRates.find? (fun r => decide (r ≤ p.popRate) && decide (r ≤ target))).getD 480

/-- Training data are being gathered (07 R356). -/
def Port.gathers (p : Port) : Bool := decide (p.attempt ≠ 0)

/-- Carry out a rate request: enter self-refresh on the way to another rate (07 R355). A port that is in self-refresh for a power state carries it out when
that ends (DESIGN CHOICE: notes/assumptions/136). -/
def Mach.rateStart (a target : Nat) (m : Mach) : Mach :=
  let p := m.port a
  if p.st = 3 then m.updPort a fun p => { p with held := some target }
  else if p.st ≠ 2 ∨ p.firstRate target = p.rate ∨ m.acreUp a = false then m
  else m.updPort a fun p => { p with st := 4, changing := true, srWanted := true, srForRate := true, srReq := m.clk.now }

/-- A rate request reaches a port (07 R355, R356): one that comes while training data are gathered is held, and a rate change that has not begun to train takes
it with its own target. -/
def Mach.rateAsk (a target : Nat) (m : Mach) : Mach :=
  if (m.port a).gathers then (m.updPort a fun p => { p with held := some target }).record 0x0702 (10 * target) (a + 1)
  else m.rateStart a target

/-- A BAR2 write of DRM_RATE_REQ: a value that is not a rate of 07 R335 is ignored (07 R357); the register is guarded (15 R635). -/
def State.rateWrite (acre : Nat) (value : Word) (be : BitVec 4) (s : State) : State :=
  if 4 ≤ acre then s
  else s.barWrite (acreBase acre + 0xC08) (s.m.reachable acre) true be fun s =>
    let t := Word.bits value 9 0
    if dramRates.contains t then
      { s with cfg := { s.cfg with rateTarget := Tbl.put 0x370 acre t s.cfg.rateTarget }, m := s.m.rateAsk acre t }
    else s

/-- DRAM_RATE_REQUEST (07 R355 to R357). -/
def execDramRateRequest (acre : Nat) (value : Word) (be : BitVec 4) (s : State) : Host.Outcome State Fault Refusal :=
  .next (s.rateWrite acre value be)

/-- Lane registers of an attempt (07 R358). -/
def laneWord (rdEye wrEye rdDly wrDly : Nat) : Word :=
  BitVec.ofNat 32 (rdEye % 256 * 2 ^ 24 + wrEye % 256 * 2 ^ 16 + rdDly % 256 * 2 ^ 8 + wrDly % 256)

/-- A port that has no rate left is failed and fences its acre (07 R352). -/
def Mach.portFailed (a : Nat) (m : Mach) : Mach :=
  let cause := if (m.port a).startup then 6 else 1
  (m.updPort a fun p => { p with st := 5, attempt := 0, changing := false, startup := false, held := none }).fenceStart a cause

/-- An attempt fails: the next lower rate is tried (07 R352). -/
def Mach.attemptFailed (a : Nat) (m : Mach) : Mach :=
  let r := (m.port a).attempt
  let m := m.record 0x0700 (10 * r) (a + 1)
  match dramRates.find? (fun x => decide (x < r)) with
  | some x => m.updPort a fun p => { p with attempt := x, attemptAt := m.clk.now }
  | none => m.portFailed a

/-- Refreshes of the two ranks begin half an interval apart (07 R346): the interval is 3.9 µs, or 1.95 µs while the port is hot. -/
def Port.trefi (p : Port) : Nat := if p.hot then 6240 else 12480
def Port.startRefresh (now : Nat) (p : Port) : Port := { p with refDue := [(0, now + p.trefi), (1, now + p.trefi / 2)], mr4At := now, dqsAt := now }

/-- A training pass ends: the port is in service, and a request held is acted on at once (07 R355, R356). -/
def Mach.attemptPassed (a : Nat) (m : Mach) : Mach :=
  let p := m.port a
  let m := m.updPort a fun p =>
    { p with st := 2, rate := p.attempt, attempt := 0, changing := false, startup := false, held := none, lastUse := m.clk.now }.startRefresh m.clk.now
  let m := if p.changing ∧ p.rate ≠ p.attempt then m.record 0x0701 (10 * p.attempt) (a + 1) else m
  match p.held with
  | some t => m.rateStart a t
  | none => m

/-- DRAM_TRAINING_DONE (07 R351, R352): an attempt ends with the windows and delays of the ten lanes and the check pattern. -/
def execDramTrainingDone (acre : Nat) (readEyes writeEyes readDlys writeDlys : List Nat) (pattern : Bool) (s : State) :
    Host.Outcome State Fault Refusal :=
  .next (s.on fun _ m =>
    if (m.port acre).attempt = 0 ∨ m.fencedA acre = true ∨ m.fencingA acre = true then m
    else
      let at_ := fun (l : List Nat) (i : Nat) => l.getD i 0
      let m := m.updPort acre fun p =>
        { p with lanes := (List.range 10).foldl (fun t i =>
            Tbl.put 0 i (laneWord (at_ readEyes i) (at_ writeEyes i) (at_ readDlys i) (at_ writeDlys i)) t) p.lanes }
      if pattern && (List.range 10).all (fun i => decide (19 ≤ at_ readEyes i) && decide (16 ≤ at_ writeEyes i)) then
        m.attemptPassed acre
      else m.attemptFailed acre)

/-- DRAM_TRAINING_TIMEOUT (07 R353). -/
def execDramTrainingTimeout (acre at_ : Nat) (s : State) : Host.Outcome State Fault Refusal :=
  .next (s.on fun _ m =>
    let m := m.advance at_
    let p := m.port acre
    if p.attempt = 0 ∨ m.fencedA acre = true ∨ m.fencingA acre = true ∨ m.clk.now < p.attemptAt + 100 * Config.edgesPerMs then m else m.attemptFailed acre)

/-! ## What an uncorrectable line means (07 R365) -/

/-- The seed-bin data of a line are lost before programming: its blocks are encoded as fillers, and its zone has lost committed
data. -/
def Mach.slotLost (a line : Nat) (m : Mach) : Mach :=
  match m.slotOf a (line * 64) with
  | none => m
  | some (r, col, off) =>
    let z := m.zone r.nsid r.zone
    let u := (m.ns r.nsid).unitLen
    let o := (r.row * (z.a - 1) + col) * u + off / 4096
    let key := bkey r.nsid (r.zone * (m.ns r.nsid).zsze + o)
    let m := m.onMed fun x => { x with store := Tbl.upd Blk.init key (fun b => if b = Blk.init then b else { b with lost := true }) x.store }
    let m := m.onHub fun h =>
      { h with lostAfter := if h.lostAfter.contains (r.nsid, r.zone) then h.lostAfter else h.lostAfter ++ [(r.nsid, r.zone)] }
    m.record 0x070A z.bed (a + 1)

/-- A line of the control region, or of the hub region, is read from its other copy (07 R365): both are rewritten, or both are
bad. -/
def Mach.otherCopy (a line b other : Nat) (errs : List (Nat × BitVec 16)) (code : Nat) (bad : Mach → Mach) (m : Mach) : Mach :=
  let served := fun (v : BitVec 640) (m : Mach) =>
    let c := encodeLine (lineBytes v)
    ((m.updPort a (fun p => p.setLine line c)).updPort b (fun p => p.setLine other c)).record code a (a + 1)
  let l := (m.port b).lineAt other
  match m.readLine b other errs with
  | (.clean, m) => served l m
  | (.corrected _ v, m) => served v m
  | (_, m) => bad m

/-- A parity accumulator is rebuilt from the seed-bin data of its stripe row, and written again (07 R365; 06 R297). -/
def Mach.rebuildAcc (a line : Nat) (m : Mach) : Mach :=
  let cap := (m.port a).cap
  match m.stg.rows.find? (fun r => r.acre == a && (match r.acc with
      | some i => decide (poolAddr a cap 3 i ≤ line * 64) && decide (line * 64 < poolAddr a cap 3 i + mib)
      | none => false)) with
  | none => m
  | some r =>
    let m := (List.range r.slots.length).foldl (fun m col => m.readUnit r.nsid r.zone r.row col) m
    m.dramWrite a (poolAddr a cap 3 (r.acc.getD 0)) (4096 * (m.ns r.nsid).unitLen) .staging .parity 0

/-- A map entry is read back from the headland journal, and its command waits for that (07 R365; 03 R164). -/
def Mach.reloadMap (nsid lba stamp : Nat) (m : Mach) : Mach :=
  (m.updCmd stamp fun k => { k with reloads := k.reloads + 1 }).wantReload stamp (bkey nsid lba)

/-- An uncorrectable line of a request. `errs2` are the errors with which the other copy is read. -/
def Mach.lineLost (a : Nat) (r : DramReq) (errs2 : List (Nat × BitVec 16)) (m : Mach) : Mach :=
  match r.use with
  | .control =>
    m.otherCopy a r.line a (r.line + copyLines) errs2 0x0707 fun m => m.fenceStart a 1
  | .hub =>
    let b := 1 - a
    let both := fun (m : Mach) => (m.record 0x0709 a (a + 1)).bookLost r.line
    if m.fencedA b || m.fencingA b then both m else m.otherCopy a r.line b r.line errs2 0x0708 both
  | .seedRead => match m.cmd? r.stamp with
    | some c => if c.stage == .done || c.stage == .finished then m else m.seedLost c
    | none => m
  | .seedProgram => m.slotLost a r.line
  | .codec => m.rungFailed r.stamp
  | .drillSeal =>
    match m.drill.findSome? (fun g => (g.2.queue.find? (fun d => d.id == r.stamp)).map fun d => (g.1, d)) with
    | some (g, d) => (m.record 0x0802 a (if g < 4 then g + 1 else 0)).descEnd g d 9 (entryPlace d.d fun e => entryAcre e == some a)
    | none => m
  | .salvage => match m.slotOf a (r.line * 64) with
    | some (w, col, _) => m.onHub fun h =>
        { h with salvLost := if h.salvLost.contains (w.nsid, w.zone, w.row, col) then h.salvLost else h.salvLost ++ [(w.nsid, w.zone, w.row, col)] }
    | none => m
  | .parity => m.rebuildAcc a r.line
  | .headlandMap => match m.mapLine a r.line with
    | some (nsid, lba) => m.reloadMap nsid lba r.stamp
    | none => m
  | .merge | .other => m

/-! ## Command slots (07 R341 to R350) -/

/-- The lines of a request and of another meet: lines of one subchannel, every second line of the port. -/
def DramReq.meets (r q : DramReq) : Bool :=
  r.line % 2 == q.line % 2 && decide (r.line < q.line + 2 * q.count) && decide (q.line < r.line + 2 * r.count)

/-- Requests of a subchannel that no earlier request to the same line holds back; those that arrived after a rate change was asked
for wait for its end (07 R344, R355). -/
def Port.eligible (p : Port) (sub : Nat) : List DramReq :=
  (p.reqs.foldl (fun (acc : List DramReq × List DramReq) r =>
    let ok := r.line % 2 == sub && !acc.2.any (fun q => q.meets r) && (!p.srForRate || decide (r.since ≤ p.srReq))
    (if ok then acc.1 ++ [r] else acc.1, acc.2 ++ [r])) ([], [])).1

/-- Neighbour refreshes that a subchannel queues (07 R350). -/
def Port.neighbours (p : Port) (sub : Nat) : List (Nat × Nat × Nat) := p.nref.filter fun e => e.1 == sub

/-- The first request in the order of 07 R344 whose bank can take it, `busy` being the banks that cannot: none while the neighbour refreshes of the subchannel
fill their queue, none to a bank for which one waits (R350), and no other to a bank for which a promoted request waits. The list is in the order of arrival. -/
def Port.pick (p : Port) (sub : Nat) (busy : List Nat) : Option DramReq :=
  let bank := fun (r : DramReq) => (p.bankRow r.line).1
  let es := (p.eligible sub).filter fun r => !(p.neighbours sub).any (fun e => e.2.1 == bank r)
  let free := es.filter fun r => !busy.contains (bank r)
  if 8 ≤ (p.neighbours sub).length then none
  else match free.find? (fun r => r.promoted) with
    | some r => some r
    | none =>
      let rest := free.filter fun r => !es.any (fun q => q.promoted && bank q == bank r)
      (List.range 4).findSome? fun k => rest.find? (fun r => classOrder r.cls == k)

/-- Read-return or promoted requests wait on a rank (07 R348). -/
def Port.rankBusy (p : Port) (rank : Nat) : Bool :=
  p.reqs.any fun r => (r.promoted || r.cls == .readReturn) && p.rankOf r.line == rank

/-- Postponed refreshes are issued together once the requests that they waited for are served (07 R348). -/
def Port.payRefresh (p : Port) : Port :=
  { p with owed := p.owed.filter fun e => p.rankBusy e.1 }

/-- The activate of a request draws from the port's LFSR and may queue a neighbour refresh (07 R349). -/
def Mach.drawNeighbour (c : Cfg) (a line : Nat) (m : Mach) : Mach :=
  let p := m.port a
  let draw := (Config.lfsrDraw a p.lfsr).toNat
  let q := p.bankRow line
  m.updPort a fun p =>
    { p with lfsr := p.lfsr + 1,
             nref := if draw % 2 ^ (Tbl.get 0x0A a c.arpLog2) = 0 then p.nref ++ [(line % 2, q.1, q.2)] else p.nref }

/-- A line of the request is moved: a write is encoded; a read is decoded, a
corrected line is written back unless a write to it is queued, a narrow one among them (06 R321), and an uncorrectable one goes to its requester. -/
def Mach.moveLine (a : Nat) (r : DramReq) (errs : List (Nat × BitVec 16)) (m : Mach) : Mach :=
  if r.write then
    let (v, m) := if r.known then (r.data, m) else m.freeLine
    m.updPort a fun p => p.putLine r.line (encodeLine v)
  else
    match m.readLine a r.line (errs.filter (fun e => decide (e.1 < 40))) with
    | (.clean, m) => m
    | (.corrected _ v, m) =>
      if (m.port a).writesTo r.line || (m.port a).merge.any (fun e => e.line == r.line) then m
      else m.dramPost a (mkDram r.line 1 .background true (lineBytes v) .other 0)
    | (_, m) =>
      let m := m.lineLost a r ((errs.filter (fun e => decide (40 ≤ e.1))).map fun e => (e.1 - 40, e.2))
      let m := if r.use = .seedRead then
          m.updPort a fun p => { p with reqs := p.reqs.filter (fun q => !(q.use == .seedRead && q.stamp == r.stamp)) }
        else m
      (List.range m.nAcres).foldl (fun m i => if 16 ≤ (m.port i).ueWindow.length then m.fenceStart i 1 else m) m

/-- The port serves requests: in service or on its way into a rate change, its lanes centred, and its acre is up or salvages. -/
def Mach.portServes (m : Mach) (a : Nat) : Bool :=
  decide (a < m.nAcres) && !m.fencedA a && !(m.port a).recentre && ((m.port a).st == 2 || ((m.port a).st == 4 && (m.port a).srWanted))

/-- DRAM_COMMAND_SLOT (07 R344, R349, R350; 06 R319; 01 R37): what waits for the port at the crossbar passes it, and on a command slot of a subchannel the port issues a neighbour refresh that is
queued and whose bank can take it, or else the first request. `busy` are the banks, with their ranks, that cannot take a command. `errors` are errors of symbols as the line is read, symbol 40 + i being symbol i of its other
copy. -/
def execDramCommandSlot (acre sub : Nat) (busy : List Nat) (errors : List (Nat × BitVec 16)) (at_ : Nat) (s : State) :
    Host.Outcome State Fault Refusal :=
  .next (s.on fun c m =>
    let m := m.advance at_
    if 2 ≤ sub ∨ m.portServes acre = false then m
    else
      let m := m.crossAll acre
      let p := m.port acre
      let ready := fun (e : Nat × Nat × Nat) => e.1 == sub && !busy.contains e.2.1
      if p.nref.any ready then m.updPort acre fun p => { p with nref := p.nref.eraseP ready }
      else match p.pick sub busy with
        | none => m
        | some r =>
          let m := m.updPort acre fun p =>
            { p with lastUse := m.clk.now,
                     reqs := if r.count ≤ 1 then p.reqs.filter (fun q => q.id != r.id)
                       else p.reqs.map fun q =>
                         if q.id = r.id then { q with line := q.line + 2, count := q.count - 1, data := q.more.headD q.data, more := q.more.drop 1 } else q }
          let m := m.drawNeighbour c acre r.line
          let m := m.moveLine acre r errors
          m.updPort acre Port.payRefresh)

/-- REQUEST_PROMOTION (07 R344): the oldest request that has waited longer than the age limit is promoted. -/
def execRequestPromotion (acre at_ : Nat) (s : State) : Host.Outcome State Fault Refusal :=
  .next (s.on fun c m =>
    let m := m.advance at_
    let limit := Config.edgesPerUs * Tbl.get 4 acre c.age
    match (m.port acre).reqs.find? (fun r => !r.promoted && decide (r.since + limit < m.clk.now)) with
    | none => m
    | some r =>
      (m.updPort acre fun p => { p with reqs := p.reqs.map fun q => if q.id = r.id then { q with promoted := true } else q }).record
        0x0704 ((m.clk.now - r.since) * 5 / 16) (acre + 1))

/-! ## Refresh, MR4 and tracking (07 R346 to R348, R354) -/

/-- REFRESH_DUE (07 R346, R348): on the edge on which it is due, or later, the refresh of a rank is issued, or postponed while read-return or promoted requests wait on it and
fewer than 4 are owed. -/
def execRefreshDue (acre rank at_ : Nat) (s : State) : Host.Outcome State Fault Refusal :=
  .next (s.on fun _ m =>
    let m := m.advance at_
    let p := m.port acre
    if m.portServes acre = false ∨ (if p.ranks2 then 2 else 1) ≤ rank ∨ m.clk.now < Tbl.get 0 rank p.refDue then m
    else
      let n := Tbl.get 0 rank p.owed
      let post := p.rankBusy rank && decide (n < 4)
      m.updPort acre fun p =>
        { p with owed := Tbl.put 0 rank (if post then n + 1 else 0) p.owed, refDue := Tbl.put 0 rank (Tbl.get 0 rank p.refDue + p.trefi) p.refDue })

/-- MR4_POLL (07 R347): every 16 ms. -/
def execMr4Poll (acre : Nat) (hot : Bool) (at_ : Nat) (s : State) : Host.Outcome State Fault Refusal :=
  .next (s.on fun _ m =>
    let m := m.advance at_
    if m.portServes acre = false ∨ m.clk.now < (m.port acre).mr4At + 16 * Config.edgesPerMs then m
    else
      let m := m.updPort acre fun p => { p with mr4At := m.clk.now }
      let p := m.port acre
      if hot then
        let m := m.updPort acre fun p => { p with hot := true, coolRuns := 0 }
        if p.hot then m else m.record 0x0703 acre (acre + 1)
      else m.updPort acre fun p =>
        { p with coolRuns := Nat.min 2 (p.coolRuns + 1), hot := p.hot && decide (p.coolRuns + 1 < 2) })

/-- DQS_TRACKING (07 R354): every 100 ms, each lane's write delay moves by at most 1/64 UI toward its new centre; and before a port that left PS4 serves (11 R503). -/
def execDqsTracking (acre : Nat) (targets : List Nat) (at_ : Nat) (s : State) : Host.Outcome State Fault Refusal :=
  .next (s.on fun _ m =>
    let m := m.advance at_
    let due := (m.portServes acre && decide ((m.port acre).dqsAt + 100 * Config.edgesPerMs ≤ m.clk.now)) ||
      ((m.port acre).recentre && m.acreUp acre && (m.port acre).st == 2)
    if !due then m
    else m.updPort acre fun p =>
      { p with dqsAt := m.clk.now, recentre := false, lanes := (List.range 10).foldl (fun t i =>
          let w := Tbl.get 0 i t
          let d := Word.bits w 7 0
          let g := (targets.getD i d) % 256
          let d' := if d < g then d + 1 else if g < d then d - 1 else d
          Tbl.put 0 i (BitVec.ofNat 32 (w.toNat - d + d')) t) p.lanes })

/-! ## Merge buffer and self-refresh (06 R326, R330; 07 R362 to R364) -/

/-- MERGE_ENTRY_TIMEOUT (06 R326): the oldest entry leaves 2 µs after it was taken, behind a write of its line that is queued (07 R344). -/
def execMergeEntryTimeout (acre at_ : Nat) (s : State) : Host.Outcome State Fault Refusal :=
  .next (s.on fun _ m =>
    let m := m.advance at_
    if m.portServes acre = false then m
    else match (m.port acre).merge.find? (fun e => decide (e.since + 2 * Config.edgesPerUs ≤ m.clk.now) && !(m.port acre).writesTo e.line) with
      | some e => m.mergeRmw acre e
      | none => m)

/-- Empty the merge buffer, oldest entry first (06 R330). -/
def Mach.emptyMerge (a : Nat) (m : Mach) : Mach := (m.port a).merge.foldl (fun m e => m.mergeRmw a e) m

/-- The entry command is issued on both subchannels (07 R362 step 3). -/
def Mach.enterSelfRefresh (a : Nat) (m : Mach) : Mach :=
  (m.emptyMerge a).updPort a fun p =>
    { p with st := if p.srForRate then 4 else 3, srWanted := false, srAt := m.clk.now, srExit := false, srWaitAt := none }

/-- Every port that serves is in self-refresh. -/
def Mach.portsAsleep (m : Mach) : Bool := (List.range m.nAcres).all fun a => !m.acreUp a || (m.port a).st == 3 || (m.port a).st == 0

/-- The last step of the entry to a non-operational state (11 R499 step 6): once every port is in self-refresh the acres are gated, their
channels' write protection is driven (05 R231), and a Set Features that asked for the state completes. -/
def Mach.trySleep (c : Cfg) (m : Mach) : Mach :=
  match m.power.entering with
  | some ps =>
    if m.power.closing && m.portsAsleep then
      let cmd := m.power.entryCmd
      let m := m.onPower fun p => { p with ps := ps, entering := none, closing := false, entryCmd := 0, want := none }
      let m := (List.range m.nChans).foldl (fun m i => m.updChan i fun x => { x with inService := false }) m
      let m := if cmd = 0 then m else m.succeed cmd
      (m.updWdAll c).record 0x0B00 ps 0
    else m
  | none => m

/-- SELF_REFRESH_ENTRY (07 R362): once every request already queued is served, the merge buffer is emptied and the entry command
issued. -/
def execSelfRefreshEntry (acre at_ : Nat) (s : State) : Host.Outcome State Fault Refusal :=
  .next (s.on fun c m =>
    let m := m.advance at_
    let p := m.port acre
    if m.portServes acre = false ∨ p.srWanted = false ∨ p.reqs.any (fun r => decide (r.since ≤ p.srReq)) = true then m
    else (m.enterSelfRefresh acre).trySleep c)

/-- The devices are in self-refresh. -/
def Port.inSelfRefresh (p : Port) : Bool := p.st == 3 || (p.st == 4 && p.srForRate && !p.srWanted)

/-- tXS in datapath edges: 205 ns with 8 Gb devices, 305 ns with 16 Gb devices (07 R364). -/
def Port.txs (p : Port) : Nat := if p.dens then 976 else 656

/-- SELF_REFRESH_EXIT (07 R363, R364): after the residency of 120 ns the exit command is issued for a waiting request, a rate change
or an operational power state; tXS later the port serves, or trains at the new rate. -/
def execSelfRefreshExit (acre at_ : Nat) (s : State) : Host.Outcome State Fault Refusal :=
  .next (s.on fun c m =>
    let m := m.advance at_
    let p := m.port acre
    if m.acreUp acre = false ∨ p.inSelfRefresh = false then m
    else if p.srExit = false then
      if p.srAt + 384 ≤ m.clk.now ∧ (p.srForRate = true ∨ p.srWaitAt.isSome = true ∨
          (m.power.ps < 3 ∧ m.power.closing = false)) then
        m.updPort acre fun p => { p with srExit := true, srAt := m.clk.now }
      else m
    else if m.clk.now < p.srAt + p.txs then m
    else if p.srForRate then
      m.updPort acre fun p =>
        { p with srForRate := false, srExit := false, attempt := p.firstRate (Tbl.get 0x370 acre c.rateTarget), attemptAt := m.clk.now }
    else
      let m := match p.srWaitAt with
        | some t => m.record 0x0706 ((m.clk.now - t) * 5 / 16) (acre + 1)
        | none => m
      let held := p.held
      let m := m.updPort acre fun p => { p with st := 2, srExit := false, srWaitAt := none, lastUse := m.clk.now, held := none }.startRefresh m.clk.now
      match held with
      | some t => m.rateStart acre t
      | none => m)

/-- PORT0_IDLE_TIMEOUT (11 R502): in PS3 or PS4, port 0 enters self-refresh again after 100 µs without a request. -/
def execPort0IdleTimeout (at_ : Nat) (s : State) : Host.Outcome State Fault Refusal :=
  .next (s.on fun _ m =>
    let m := m.advance at_
    let p := m.port 0
    if m.power.ps < 3 ∨ p.st ≠ 2 ∨ p.reqs.isEmpty = false ∨ m.clk.now < p.lastUse + 100 * Config.edgesPerUs then m
    else m.enterSelfRefresh 0)

/-- BUFFER_REQUEST (07 R369). A requester that does not exist, or a size outside 1 byte to 16 MiB, asks for nothing. An uncorrectable error in the pool tables
that the grant reads fences the acre (01 R53 cause 0x2). -/
def execBufferRequest (acre : Nat) (internal : Bool) (requester_ size : Nat) (sramUe : Bool) (at_ : Nat) (s : State) :
    Host.Outcome State Fault Refusal :=
  .next (s.on fun _ m =>
    let m := m.advance at_
    if sramUe && m.awake && m.acreUp acre && decide (acre < m.nAcres) then m.fenceStart acre 2
    else if decide (acre < m.nAcres) && requesterOk internal requester_ then m.bufferRequest acre (requester internal requester_) size
    else m)

end Sys2Proof.Machine
end

