-- ==== Sys2Proof/Machine/Flags.lean ====
section
/-! DEFINITION. What the registers of BAR2 read (15 R624 to R644 and the field tables of the other chapters), field by field from the
state, and the fields that a read clears. -/

namespace Sys2Proof.Machine

/-- A register value from fields: (value, low bit), each within its width. -/
def fields (l : List (Nat × Nat)) : Word := BitVec.ofNat 32 (sumBy (fun (e : Nat × Nat) => e.1 * 2 ^ e.2) l)
def b2n (b : Bool) : Nat := if b then 1 else 0
/-- A value truncated to `w` bits. -/
def low (w n : Nat) : Nat := n % 2 ^ w

/-! ## Codes -/

/-- 02 R81. -/
def GridState.code : GridState → Nat
  | .free => 0 | .adopt => 1 | .slew => 2 | .locked => 3
/-- 09 R417. -/
def PlotState.code : PlotState → Nat
  | .absent => 0 | .ready => 1 | .error => 2 | .resetting => 3 | .freezing => 4 | .frozen => 5

/-! ## Values that several registers show -/

/-- FAULT_N is asserted (15 R636). -/
def Mach.faultN (m : Mach) : Bool :=
  (List.range m.nAcres).any (fun a => m.fencedA a) || m.hub.fatal || m.boot.phase == 15

/-- What the ready LED shows: off, on, or blinking at a rate in Hz, 50 % on (15 R641, 12 R561). -/
inductive Led where
  | off | on
  | blink (hz : Nat)
deriving DecidableEq, Repr

/-- READY_LED (15 R641): by MODE of HUB_LED_CTRL; in the automatic mode it blinks at 2 Hz in start-up, is off before it (12 R561), and
from start-up complete on shows CSTS.RDY of plot 0. -/
def Mach.readyLed (c : Cfg) (m : Mach) : Led :=
  match c.led.toNat with
  | 1 => .blink 8
  | 2 => .off
  | 3 => .on
  | _ => if m.boot.phase = 0 then .off else if m.inService = false then .blink 2 else if (m.bar0 0).rdy then .on else .off

def Mach.fencedBits (m : Mach) : Nat := sumBy (fun a => b2n (m.fencedA a) * 2 ^ a) (List.range m.nAcres)

/-- Milliseconds from the warm start to start-up complete (12 R558). -/
def Mach.bootMs (m : Mach) : Nat :=
  if 1 ≤ m.boot.phase ∧ m.boot.phase < 9 then (m.clk.now - m.boot.warmAt) / Config.edgesPerMs else m.boot.elapsed

/-- I/O queue pairs that a plot has created (09 R419). -/
def Mach.qpairs (m : Mach) (p : Nat) : Nat :=
  (m.front.sqs.filter (fun e => decide (e.1 / 1024 = p) && decide (e.1 % 1024 ≠ 0))).length

/-- The plot owns an isolation group (09 R419). -/
def Mach.ownsIso (m : Mach) (p : Nat) : Bool := m.med.beds.any (fun e => e.2.owner == p + 1)

/-- Blocks of bound zones and headland slots on a die (05 R277). -/
def Mach.dieBlocks (m : Mach) (d : Nat) : List Nat :=
  m.med.zones.flatMap fun e =>
    if e.2.bound && e.2.bed == dieBed d then
      e.2.cols.flatMap fun c => if bedDie e.2.bed c.ch = d then c.blocks.map (fun b => b.1) else []
    else []

/-- Drift indices of a die's groups. -/
def Mach.dieDrift (m : Mach) (d : Nat) : List Nat :=
  (m.dieBlocks d).flatMap fun b => (List.range 8).map fun g => m.driftOf ((d * 8192 + b) * 8 + g)

/-! ## The hub block -/

/-- HUB_INT_STS AND HUB_INT_EN (15 R640). -/
def Mach.intPending (m : Mach) (c : Cfg) : Word := m.hub.intSts &&& c.intEn

/-- Members of the ring by position, as bits 1 to 7. -/
def Mach.memberBits (m : Mach) (p : Member → Bool) : Nat :=
  sumBy (fun n => b2n (p (m.member n)) * 2 ^ n) [1, 2, 3, 4, 5, 6, 7]

/-- Drill engine and group registers of a group (08 R409 to R411). -/
def Mach.drillReg (m : Mach) (c : Cfg) (g off : Nat) : Option Word :=
  if off < 0xE20 then
    let e := Tbl.get Engine.init ((off - 0xE00) / 4) (m.group g).engines
    some (fields [(e.st, 30), (e.lastSt, 20), (b2n e.int, 10), (low 10 e.req, 0)])
  else if off = 0xE20 then some (fields [(0x40, 16), (Tbl.get 0x10 g c.intWt, 0)])
  else if off = 0xE24 then
    let x := m.group g
    some (fields [(x.errCount, 16), (x.errSt, 12), (b2n x.errInt, 11), (low 10 x.errReq, 0)])
  else none

/-- Hub registers at 0x0000 to 0x00FF (15 R633 to R643). -/
def Mach.hubReg0 (m : Mach) (c : Cfg) (off : Nat) : Option Word :=
  match off with
  | 0x00 => some (fields [(1, 16), (low 8 m.hub.stepping, 8), (b2n m.hub.part, 0)])
  | 0x04 => some (fields [(b2n c.hubLock, 31), (b2n c.wrGuard, 0)])
  | 0x08 => some (fields [(b2n m.faultN, 31), (b2n m.hub.fatal, 30), (b2n (m.bar0 0).rdy, 29), (b2n m.boot.safe, 28),
      (m.grid.st.code, 24), (m.fencedBits, 20), (low 4 m.boot.phase, 16), (low 3 m.power.ps, 13), (low 5 m.heat.step, 8)])
  | 0x0C => some (fields [(m.hub.drops, 16), (m.hub.dropCause, 0)])
  | 0x10 => some m.hub.intSts
  | 0x14 => some c.intEn
  | 0x18 => some 0
  | 0x1C => some (BitVec.ofNat 32 (low 28 m.hub.dropAddr))
  | 0x20 => some (c.led.setWidth 32)
  | 0x40 => some (BitVec.ofNat 32 m.lifeSec)
  | 0x44 => some (BitVec.ofNat 32 (m.lifeSec / 2 ^ 32 % 256))
  | 0x48 => some (BitVec.ofNat 32 m.lifeCyc)
  | _ => if 0x30 ≤ off ∧ off < 0x40 ∧ off % 4 = 0 then some (Tbl.get 0 ((off - 0x30) / 4) c.scratch) else none

/-- Hub registers at 0x0300 to 0x03FF (12 R539, R558, R559; 13 R570, R592, R593; 01 R60, R66; 04 R183; 11 R505, R529). -/
def Mach.hubReg3 (m : Mach) (c : Cfg) (off : Nat) : Option Word :=
  match off with
  | 0x300 => let x := m.boot.straps
    some (fields [(b2n m.hub.part, 6), (b2n x.svcEn, 5), (b2n x.bootSrc, 4), (b2n x.portMode, 3), (low 2 x.role, 0)])
  | 0x304 => some (fields [(low 4 m.boot.phase, 28), (low 1 m.boot.slot, 23), (sat 20 m.bootMs, 0)])
  | 0x308 => some (fields [(sat 16 m.boot.repaired, 16), (sat 8 m.boot.unresolved, 8), (b2n m.boot.lostRec, 2), (b2n m.boot.safe, 1),
      (b2n m.boot.unclean, 0)])
  | 0x310 => let n := match m.img.act with | some a => a.done.length | none => 0
    some (fields [(m.img.stage, 28), (m.img.route, 26), (n, 20), (m.img.lastRef, 16), (m.img.lastRes, 12),
      (b2n (m.img.valid.contains 1), 1), (b2n (m.img.valid.contains 0), 0)])
  | 0x314 => some (BitVec.ofNat 32 m.img.version)
  | 0x318 => some (BitVec.ofNat 32 (m.img.version / 2 ^ 32))
  | 0x31C => some (fields [(sumBy (fun k => b2n (m.img.revoked.contains k) * 2 ^ k) [0, 1, 2, 3], 16), (low 8 m.img.epochFuse, 0)])
  | 0x340 => some (fields ((List.range m.nAcres).flatMap fun a =>
      [(low 4 (Tbl.get 0 a m.hub.cause), 16 + 4 * a), (low 2 (Tbl.get 0 a m.hub.salv), 8 + 2 * a), (b2n (m.fencedA a), a)]))
  | 0x344 => some (fields [(m.hub.fatalCount, 16), (m.hub.fatalBits.toNat, 0)])
  | 0x364 => some (fields [(c.admMax, 8), (c.burst, 0)])
  | 0x380 => some (fields [(sat 8 m.power.refused, 24), (low 4 m.power.lastRef, 8), (b2n m.power.apst, 7), (low 3 m.power.ps, 0)])
  | 0x384 => some (fields [(sat 16 m.boot.dumps, 16), (sat 12 m.boot.dumpMs, 4), (low 2 m.boot.dumpRes, 0)])
  | _ => none

/-- Hub registers at 0x0500 to 0x0BFF (02 R89 to R92, R112; 05 R281, R282; 07 R383, R384). -/
def Mach.hubReg5 (m : Mach) (c : Cfg) (off : Nat) : Option Word :=
  match off with
  | 0x500 => some (fields [(c.ptmInt, 16), (c.rdRes, 8), (b2n c.ptmPort, 1), (b2n c.ptmUse, 0)])
  | 0x504 => some (fields [(sat 16 m.grid.losses, 16), (low 3 m.grid.miss, 8), (b2n m.grid.epoch, 7), (m.grid.st.code, 0)])
  | 0x508 => some (BitVec.ofInt 32 (sat32 m.grid.offset))
  | 0x50C => some (BitVec.ofInt 32 (sat32 m.grid.trim))
  | 0x510 => some (BitVec.ofNat 32 m.grid.pass)
  | 0x514 => some (BitVec.ofNat 32 (m.grid.pass / 2 ^ 32))
  | 0x518 => some (BitVec.ofNat 32 m.grid.budget)
  | 0xA80 => some (fields [(m.med.refused, 16), (b2n m.med.refBoot, 15), (low 15 m.med.refLast, 0)])
  | 0xB00 => some (fields [(b2n c.dirtyLock, 31), (low 6 c.dirtyCap, 0)])
  | 0xB04 => some (fields [(low 16 (ceilDiv m.stg.high mib), 16), (low 16 (ceilDiv m.stg.dirty mib), 0)])
  | _ => if 0xA00 ≤ off ∧ off < 0xA80 ∧ off % 4 = 0 then some (Tbl.get 0xFFFFFFFF#32 ((off - 0xA00) / 4) m.med.bootWp) else none

/-- Hub registers at 0x1100 to 0x13FF (10 R490, R491; 11 R518, R523; 14 R616, R617). -/
def Mach.hubReg11 (m : Mach) (off : Nat) : Option Word :=
  if off = 0x1100 ∨ off = 0x1104 then
    let p := m.hport ((off - 0x1100) / 4)
    some (fields [(sat 8 p.losses, 24), (low 2 p.sb, 22), (low 2 p.miss, 20), (low 4 p.width, 16), (low 3 p.st, 0)])
  else if off = 0x1108 then
    let h := m.hitch
    let mgr := h.role == 1
    some (fields [(if mgr then 1 + m.memberBits (fun x => x.st == 1) else 0, 24), (if mgr then 1 + m.memberBits (fun x => x.st != 0) else 0, 16),
      (sat 8 h.breaks, 8), (low 2 h.role, 6), (low 2 h.ring, 4), (low 3 h.pos, 0)])
  else if 0x1200 ≤ off ∧ off ≤ 0x1210 ∧ off % 4 = 0 then
    let d := Tbl.get Diode.init ((off - 0x1200) / 4) m.heat.diodes
    some (fields [(low 2 d.fail, 30), (b2n d.est, 29), (toTwos 16 d.temp, 0)])
  else if 0x1220 ≤ off ∧ off ≤ 0x125C ∧ off % 4 = 0 then
    let x := Tbl.get Sense.init ((off - 0x1220) / 4) m.heat.sense
    some (fields [(b2n x.failed, 31), (low 15 x.pwr, 16), (toTwos 16 x.temp, 0)])
  else if off = 0x1260 then
    let h := m.heat
    some (fields [(low 8 h.src, 16), (b2n h.tripEst, 9), (b2n h.held, 8), (low 5 h.step, 0)])
  else if off = 0x1264 then
    let h := m.heat
    some (fields [(sat 16 h.trips, 16), (b2n h.active, 7), (b2n h.backstop, 6), (b2n h.lastEst, 5), (low 3 h.tripDie, 0)])
  else if off = 0x1300 then
    let y := m.ybk
    some (fields [(low 2 y.mode, 30), (b2n (m.fencedA 0 || m.fencedA 1), 29), (low 13 y.slots.length, 16),
      (low 13 ((y.recs ++ y.start).filter (fun e => e.2.pending)).length, 0)])
  else if off = 0x1304 then some (fields [(m.ybk.dropped, 16), (low 2 m.ybk.dropAcre, 0)])
  else none

/-- A named register of the hub block; none where the offset names none (15 R644). -/
def Mach.hubReg (m : Mach) (c : Cfg) (off : Nat) : Option Word :=
  if off < 0x100 then m.hubReg0 c off
  else if off < 0x400 then m.hubReg3 c off
  else if off < 0xC00 then m.hubReg5 c off
  else if 0xE00 ≤ off ∧ off < 0xF00 ∧ off % 4 = 0 then m.drillReg c 4 off
  else m.hubReg11 off

/-! ## Acre, swath and plot blocks -/

/-- A named register of acre `a`'s own block (02 R111; 04 R194; 06 R323 to R331; 07 R337 to R375; 08 R409). -/
def Mach.acreReg (m : Mach) (c : Cfg) (a off : Nat) : Option Word :=
  let p := m.port a
  if off % 4 ≠ 0 then none
  else if 0x800 ≤ off ∧ off < 0x880 then
    let b := 32 * a + (off - 0x800) / 4
    let x := m.bed b
    some (fields [(low 5 x.held.length, 24), (x.wd.toNat, 16), (b2n x.bound, 5), (low 5 (Tbl.get 1 b c.bedP), 0)])
  else if off = 0x900 then some (fields [(low 13 (Tbl.get 0 a m.front.lockHigh), 16), (low 13 (m.lockUsed a), 0)])
  else if off = 0xC00 then
    some (fields [(low 3 p.st, 29), (b2n p.hot, 28), (low 2 p.width, 26), (b2n p.ranks2, 25), (b2n p.dens, 24), (low 8 p.cap, 16),
      (low 10 p.rate, 0)])
  else if off = 0xC04 then some (fields [(Tbl.get 0x0A a c.arpLog2, 16), (Tbl.get 4 a c.age, 0)])
  else if off = 0xC08 then some (fields [(b2n (p.changing || p.held.isSome), 31), (Tbl.get 0x370 a c.rateTarget, 0)])
  else if 0xC10 ≤ off ∧ off ≤ 0xC34 then some (Tbl.get 0 ((off - 0xC10) / 4) p.lanes)
  else if off = 0xC40 then some (fields [(p.ce, 16), (p.ue, 8), (low 4 p.lastGrp, 4), (low 1 p.lastSub, 3)])
  else if off = 0xC44 then some (fields [(b2n p.poison, 31), (low 29 p.lcLine, 0)])
  else if off = 0xC48 then some (fields [(p.rmw, 16), (low 7 p.merge.length, 0)])
  else if 0xD00 ≤ off ∧ off ≤ 0xD10 then
    let x := m.pool a ((off - 0xD00) / 4)
    some (fields [(low 16 x.low, 16), (low 16 x.free, 0)])
  else if off = 0xD20 then
    let o := Tbl.get 0 a m.stg.dfReq
    some (fields [(Tbl.get 0 a m.stg.dfCount, 16), (low 3 (Tbl.get 0 a m.stg.dfPool), 13), (b2n (isInternal o), 12), (low 10 o, 0)])
  else if 0xE00 ≤ off ∧ off < 0xF00 then m.drillReg c a off
  else none

/-- A named register of global swath `sw` (01 R47, R48; 05 R234, R264, R277, R280; 06 R313, R314). -/
def Mach.swathReg (m : Mach) (c : Cfg) (sw off : Nat) : Option Word :=
  if off % 4 ≠ 0 then none
  else if off = 0x200 then
    some (fields ((List.range 16).flatMap fun i =>
      let t := m.tine (16 * sw + i)
      [(b2n t.quar, 16 + i), (b2n (t.idle && t.running.isNone), i)]))
  else if 0x210 ≤ off ∧ off ≤ 0x24C then
    let t := m.tine (16 * sw + (off - 0x210) / 4)
    some (fields [(sat 8 t.fltCount, 24), (low 4 t.lastCode, 20), (low 2 t.lastKind, 18), (b2n t.retryOk, 17), (b2n t.quar, 16)])
  else if off = 0x400 ∨ off = 0x404 then
    let x := m.chan (2 * sw + (off - 0x400) / 4)
    some (fields [(sat 8 x.retrains, 24), (sat 8 (x.errsIn m.grid.passes).length, 16), (low 4 x.mode, 12), (b2n x.vccq12, 11), (b2n x.failed, 10),
      (low 10 x.rate, 0)])
  else if off = 0x410 then some (fields [(0x40, 16), (low 12 (Tbl.get 0x258 sw c.minSlice), 0)])
  else if off = 0x420 ∨ off = 0x424 then
    let x := m.chan (2 * sw + (off - 0x420) / 4)
    some (fields [(sat 12 x.eccSheaf, 20), (sat 12 x.eccRebuild, 8), (sat 4 x.eccMax, 4), (sat 4 x.eccUnc, 0)])
  else if off = 0x428 ∨ off = 0x42C then some (BitVec.ofNat 32 (sat 32 (m.chan (2 * sw + (off - 0x428) / 4)).eccBits))
  else if 0x600 ≤ off ∧ off ≤ 0x6FC then
    if m.boot.replayed = false then some 0
    else
      let d := 64 * sw + (off - 0x600) / 4
      let l := m.dieDrift d
      some (fields [(sat 16 (m.die d).sweeps, 16), (low 8 (l.foldl Nat.max 0), 8), (low 8 (sumBy id l / l.length), 0)])
  else if 0x700 ≤ off ∧ off ≤ 0x73C then
    some (fields ((List.range 4).map fun j => ((Tbl.get 0xFF#8 (64 * sw + (off - 0x700) + j) m.med.wp).toNat, 8 * j)))
  else none

/-- A named register of plot `p`'s entry (09 R419, R420, R424, R425). -/
def Mach.plotReg (m : Mach) (p off : Nat) : Option Word :=
  let x := m.plot p
  match off with
  | 0x00 => some (fields [(low 8 x.cause, 24), (b2n (m.ownsIso p), 17), (b2n (x.key != 0 && m.boot.replayed), 16), (low 10 (m.qpairs p), 4), (x.st.code, 0)])
  | 0x04 => some (fields [(b2n (x.port && p != 0), 0)])
  | 0x20 => some (fields [(b2n x.isoBusy, 31), (low 8 x.isoResult, 16), (low 7 x.isoBed, 8)])
  | _ => if 0x10 ≤ off ∧ off ≤ 0x1C ∧ off % 4 = 0 then some (x.isoMask.extractLsb' (32 * ((off - 0x10) / 4)) 32) else none

/-! ## The map of BAR2 (15 R624) -/

/-- Where an offset of BAR2 lies. -/
inductive Place where
  | hub (off : Nat)
  | acre (a off : Nat)
  | swath (s off : Nat)
  | plot (p off : Nat)
  | member (n off : Nat)
  | reserved
deriving DecidableEq, Repr

/-- The place of a dword offset. -/
def placeOf (off : Nat) : Place :=
  if off < 0x10000 then .hub off
  else if off < 0x01000000 then .reserved
  else if off < 0x05000000 then
    let a := off / 0x01000000 - 1
    let o := off % 0x01000000
    if o < 0x00100000 then .acre a o
    else if o < 0x00900000 then .swath (8 * a + (o / 0x00100000 - 1)) (o % 0x00100000)
    else .acre a o
  else if 0x08000000 ≤ off ∧ off < 0x08400000 then .plot ((off - 0x08000000) / 0x1000) (off % 0x1000)
  else if 0x0C000000 ≤ off ∧ off < 0x0F800000 then .member ((off - 0x0C000000) / 0x00800000 + 1) ((off - 0x0C000000) % 0x00800000)
  else .reserved

/-- The block answers (15 R627); a member window is a block on a manager alone. -/
def Mach.placeReach (m : Mach) : Place → Bool
  | .acre a _ => m.reachable a
  | .swath s _ => m.reachable (s / 8)
  | .member n _ => m.hitch.role != 1 || (m.member n).st == 1
  | _ => true

/-- The value of the register that a place names. -/
def Mach.placeReg (m : Mach) (c : Cfg) : Place → Option Word
  | .hub o => m.hubReg c o
  | .acre a o => m.acreReg c a o
  | .swath s o => m.swathReg c s o
  | .plot p o => m.plotReg p o
  | .member _ _ | .reserved => none

/-! ## Effects of a read: RC fields and latched halves (00_scope R9; 15 R631) -/

/-- The RC fields that a read of the register clears. -/
def Mach.rcClear (pl : Place) (m : Mach) : Mach :=
  match pl with
  | .hub 0x0C => m.onHub fun h => { h with drops := 0 }
  | .hub 0xA80 => m.onMed fun x => { x with refused := 0 }
  | .hub 0xE24 => m.updGroup 4 fun g => { g with errCount := 0 }
  | .hub 0x1304 => m.onYbk fun y => { y with dropped := 0 }
  | .acre a 0xC40 => m.updPort a fun p => { p with ce := 0, ue := 0 }
  | .acre a 0xC48 => m.updPort a fun p => { p with rmw := 0 }
  | .acre a 0xD20 => m.onStg fun g => { g with dfCount := Tbl.put 0 a 0 g.dfCount }
  | .acre a 0xE24 => m.updGroup a fun g => { g with errCount := 0 }
  | .swath s 0x428 => m.updChan (2 * s) fun x => { x with eccBits := 0 }
  | .swath s 0x42C => m.updChan (2 * s + 1) fun x => { x with eccBits := 0 }
  | _ => m

/-- A read of a LO register latches the HI half; a read of the HI register returns and uses up the latched half. -/
def Mach.halves (c : Cfg) (pl : Place) (m : Mach) : Option Word × Mach :=
  let hi := fun (o : Nat) => m.hubReg c o
  match pl with
  | .hub 0x510 => (none, m.onHub fun h => { h with latchPass := hi 0x514 })
  | .hub 0x314 => (none, m.onHub fun h => { h with latchVer := hi 0x318 })
  | .hub 0x40 => (none, m.onHub fun h => { h with latchLife := hi 0x44 })
  | .hub 0x514 => (m.hub.latchPass, m.onHub fun h => { h with latchPass := none })
  | .hub 0x318 => (m.hub.latchVer, m.onHub fun h => { h with latchVer := none })
  | .hub 0x44 => (m.hub.latchLife, m.onHub fun h => { h with latchLife := none })
  | _ => (none, m)

/-- The data of a read completion. -/
def Mach.readReturns (v : Word) (m : Mach) : Mach := m.onHub fun h => { h with readData := v }

/-- The read of a register by the hub: its value, its RC fields cleared, its halves latched. -/
def Mach.regRead (c : Cfg) (pl : Place) (m : Mach) : Word × Mach :=
  if m.placeReach pl = false then (0xFFFFFFFF, m)
  else
    let v := (m.placeReg c pl).getD 0
    let (latched, m) := m.halves c pl
    (latched.getD v, m.rcClear pl)

/-- A BAR2 read (15 R625 to R628): the window of a member that is up is read by a REG_RD frame (10 R470). -/
def Mach.bar2Read (c : Cfg) (offset : Nat) (m : Mach) : Mach :=
  let off := offset / 4 * 4
  if !m.deviceUp || decide (0x10000000 ≤ off) then m
  else match placeOf off with
    | .member n o =>
      if m.hitch.role = 1 ∧ (m.member n).st = 1 ∧ o < 0x00400000 then
        (m.onHitch fun h => { h with regPend := h.regPend ++ [off] }).sendBody 0x30 n (m.pathPort n) 0 (le 4 o)
      else m.readReturns (if m.placeReach (.member n o) then 0 else 0xFFFFFFFF)
    | pl =>
      let r := m.regRead c pl
      r.2.readReturns r.1

end Sys2Proof.Machine
end

