-- ==== Sys2Proof/Machine/Plots.lean ====
section
/-! DEFINITION. Plots (09): plot resets (R433 to R436), virtual functions and placement (R413 to R420), isolation groups (R423 to
R425), and freeze, save, restore and thaw (R443 to R449). -/

namespace Sys2Proof.Machine

/-! ## Admin commands -/

/-- Admin commands that use a host buffer (04 R212, R215). -/
def bufferOps : List Nat := [0x02, 0x06, 0x09, 0x0A, 0x0D, 0x11, 0x15, 0xC1, 0xC2, 0xC3]

/-- The commands that an activation waits for at its start, and that wait for its end when fetched later (13 R587 step 1): Namespace Management
and Plot Freeze, Save, Restore, Thaw and Reset. -/
def activationOps : List Nat := [0x0D, 0xC1, 0xC2, 0xC3, 0xC4, 0xC5]
def Mach.heldByActivation (m : Mach) (c : Cmd) : Bool :=
  match m.img.act with
  | some a => decide (a.from_ ≤ c.stamp) && c.sq == 0 && activationOps.contains c.sqe.opc.toNat
  | none => false

/-- The fetched admin command of a stamp whose front-end task has not ended, and that no activation holds. -/
def Mach.adminCmd (m : Mach) (stamp : Nat) : Option Cmd :=
  match m.cmd? stamp with
  | some c => if c.sq = 0 ∧ c.stage = .fetched ∧ m.heldByActivation c = false then some c else none
  | none => none

/-- Admin commands on the queues of their plot. -/
def Cmd.queueOp (c : Cmd) : Bool := c.sq == 0 && [0x00, 0x01, 0x04, 0x05].contains c.sqe.opc.toNat

/-- It is the turn of an admin command: every earlier one of its queue has acted, and the earlier ones on queues have finished where it is one of them. An
Abort waits for none (04 R184, R206). -/
def Mach.adminTurn (m : Mach) (c : Cmd) : Bool :=
  c.sqe.opc == 0x08 || !m.front.inflight.any fun k => k.plot == c.plot && k.sq == 0 && decide (k.stamp < c.stamp) &&
    (k.stage == .fetched || (k.stage == .media && k.queueOp && c.queueOp))

/-- Admin commands that change no state (04 R185). -/
def readOps : List Nat := [0x02, 0x06, 0x08, 0x0A, 0x0C]

/-- An admin command that has succeeded at once has had its effect, which is its commit point where 04 R185 names none (DESIGN CHOICE:
notes/assumptions/130). -/
def Mach.actsOnce (stamp : Nat) (m : Mach) : Mach :=
  m.updCmd stamp fun k =>
    { k with committed := k.committed || (k.stage == .done && k.status == Status.ok && !readOps.contains k.sqe.opc.toNat) }

/-- The front-end task of an admin command: it acts when the command has been fetched and not yet acted on, in its turn. A malformed PRP or SGL list
is a plot error, an unsupported descriptor fails the command (04 R211, 09 R431). -/
def Mach.admin (stamp opc : Nat) (f : Cmd → Mach → Mach) (m : Mach) : Mach :=
  match m.adminCmd stamp with
  | some c =>
    if c.sqe.opc.toNat ≠ opc ∨ m.adminTurn c = false then m
    else
      let m := m.dropTasks stamp
      if !bufferOps.contains opc then (f c m).actsOnce stamp
      else match c.sqe.buf with
        | .malformed => m.plotError c.plot 2
        | .sglUnsupported => m.failWith stamp St.badSglSegment
        | _ => (f c m).actsOnce stamp
  | none => m

/-- An admin command of an opcode that also meets `p`. -/
def Mach.adminIf (stamp opc : Nat) (p : Cmd → Bool) (f : Cmd → Mach → Mach) (m : Mach) : Mach :=
  match m.adminCmd stamp with
  | some c => if p c then m.admin stamp opc f else m
  | none => m

/-- An admin command of plot 0 alone (04 R212). -/
def Mach.admin0 (stamp opc : Nat) (f : Cmd → Mach → Mach) (m : Mach) : Mach :=
  m.admin stamp opc fun c m => if c.plot = 0 then f c m else m.failWith c.stamp St.invalidOpcode

/-- A vendor command on a target plot (04 R215): it waits while the target is Resetting (09 R418). -/
def Mach.vendor (stamp opc : Nat) (f : Cmd → Nat → Mach → Mach) (m : Mach) : Mach :=
  match m.cmd? stamp with
  | none => m
  | some c =>
    if c.plot = 0 ∧ c.sqe.target < 1024 ∧ (m.plot c.sqe.target).st = .resetting then m
    else m.admin0 stamp opc fun c m =>
      if c.sqe.target < 1024 then f c c.sqe.target m else m.failWith c.stamp St.invalidField

/-! ## Plot resets -/

/-- Controller identity, 16 bytes (04 R173). -/
def Mach.identity (m : Mach) : List Byte :=
  let b := le 2 1 ++ le 1 (b2n m.hub.part) ++ le 1 m.hub.stepping ++ le 8 m.hub.serial
  b ++ le 4 (crc32c b)

/-- Start a reset of a plot that ends in state `after` (09 R433 steps 1, 2, 4, 5): commands not past their commit point are
squashed, and no completion of the plot is posted. -/
def Mach.startPlotReset (p : Nat) (after : PlotState) (m : Mach) : Mach :=
  let m := m.discardWhere fun c => c.plot == p
  m.updPlot p fun x => { x with st := .resetting, after := after, resetAt := m.clk.now }

/-- Transfers of a plot are outstanding. -/
def Mach.plotBusy (m : Mach) (p : Nat) : Bool :=
  m.drill.any fun g => g.2.queue.any fun d => !d.d.internal && d.d.requester == p

/-- Drop the transfers of a plot that are treated as timed out, or whose bound has passed (09 R433 step 3, R435). -/
def Mach.dropTransfers (p : Nat) (m : Mach) : Mach :=
  { m with drill := m.drill.foldr (fun e acc =>
      Tbl.put Group.init e.1
        { e.2 with queue := e.2.queue.filter (fun d => d.d.internal || d.d.requester != p),
                   engines := e.2.engines.foldr (fun x acc =>
                     Tbl.put Engine.init x.1 (if !x.2.int && x.2.req == p then { x.2 with st := 0 } else x.2) acc) [] } acc) [] }

/-- Delete every queue of a plot (09 R433 step 6). -/
def Mach.dropQueues (p : Nat) (m : Mach) : Mach :=
  m.onFront fun f => { f with sqs := f.sqs.filter (fun e => decide (e.1 / 1024 ≠ p)), cqs := f.cqs.filter (fun e => decide (e.1 / 1024 ≠ p)) }

/-- What a reset of the plot domain resets of a plot (09 R433 steps 6 to 8; 15 R621, R623). -/
def Mach.plotDomain (p : Nat) (m : Mach) : Mach :=
  let m := m.dropQueues p
  let m := m.onFront fun f =>
    { f with bar0 := Tbl.put Bar0.init p Bar0.init f.bar0, msix := f.msix.filter (fun e => decide (e.1 / 1024 ≠ p)), pba := f.pba.filter (fun k => decide (k / 1024 ≠ p)),
             credit := Tbl.put 0 p 0 f.credit, lastSq := Tbl.put 0 p 0 f.lastSq,
             events := f.events.filter (fun e => e.plot != p), masked := f.masked.filter (fun k => k.1 != p),
             locks := f.locks.filter (fun l => f.inflight.any (fun c => c.stamp == l.stamp)) }
  m.updPlot p fun x => { x with feats := x.saved, cause := 0 }

/-- A plot reset ends (09 R433, R435, R418): Plot Reset commands complete with the milliseconds since their fetch. -/
def Mach.endPlotReset (p : Nat) (m : Mach) : Mach :=
  let x := m.plot p
  let m := m.plotDomain p
  let m := x.resetCmds.foldl (fun m s =>
    match m.cmd? s with
    | some c => m.finish s Status.ok (BitVec.ofNat 32 (ceilDiv (m.clk.now - c.fetchedAt) Config.edgesPerMs))
    | none => m) m
  let m := m.updPlot p fun x => { x with st := x.after, resetCmds := [] }
  m.record 0x0901 (ceilDiv (m.clk.now - x.resetAt) Config.edgesPerMs) 0

/-- The state that a reset of a plot leads back to (09 R418). -/
def PlotState.afterReset : PlotState → Option PlotState
  | .ready | .error => some .ready
  | .frozen => some .frozen
  | .freezing => some .freezing
  | .absent | .resetting => none

/-- PLOT_RESET (09 R433): an FLR of virtual function p of a port or its CC.EN written to 0, or the vendor Plot Reset commands that
have been fetched for plot p, on the port of the plot. A reset that runs already is joined by those commands. An FLR of a parked
function, whose plot is on the other port, and a write to it change no plot (09 R415). -/
def execPlotReset (port plot at_ : Nat) (s : State) : Host.Outcome State Fault Refusal :=
  .next (s.on fun _ m =>
    let m := m.advance at_
    if !m.awake || m.plotPort plot != port then m
    else
      let cmds := m.front.inflight.filter fun c =>
        c.plot == 0 && c.sq == 0 && c.stage == .fetched && c.sqe.opc == 0xC5 && c.sqe.target == plot && !m.heldByActivation c &&
          m.adminTurn c
      let m := cmds.foldl (fun m c => m.dropTasks c.stamp) m
      let bad := cmds.filter (fun c => c.sqe.cdw11 != 0 || decide (plot = 0) || decide (1024 ≤ plot))
      let m := bad.foldl (fun m c => m.failWith c.stamp St.invalidField) m
      let good := cmds.filter (fun c => !bad.contains c)
      if plot = 0 ∨ 1024 ≤ plot ∨ (cmds.isEmpty = false ∧ good.isEmpty = true) then m
      else match (m.plot plot).st, (m.plot plot).st.afterReset with
        | .absent, _ => good.foldl (fun m c => m.failWith c.stamp St.plotConflict) m
        | _, after =>
          let m := good.foldl (fun m c => m.setStage c.stamp .media) m
          let m := m.updPlot plot fun x => { x with resetCmds := x.resetCmds ++ good.map (fun c => c.stamp) }
          match after with
          | some a => m.startPlotReset plot a
          | none => m)

/-- PLOT_RESET_HOST_TIMEOUT (09 R433 step 3): 40 ms after the reset. -/
def execPlotResetHostTimeout (plot at_ : Nat) (s : State) : Host.Outcome State Fault Refusal :=
  .next (s.on fun _ m =>
    let m := m.advance at_
    let x := m.plot plot
    if x.st ≠ .resetting ∨ m.clk.now < x.resetAt + 40 * Config.edgesPerMs ∨ m.plotBusy plot = false then m
    else (m.dropTransfers plot).record 0x0902 plot 0)

/-- PLOT_RESET_DONE (09 R435): no transfer of the plot is outstanding, or 50 ms have passed. -/
def execPlotResetDone (plot at_ : Nat) (s : State) : Host.Outcome State Fault Refusal :=
  .next (s.on fun _ m =>
    let m := m.advance at_
    let x := m.plot plot
    if x.st ≠ .resetting then m
    else if m.plotBusy plot = false then m.endPlotReset plot
    else if x.resetAt + 50 * Config.edgesPerMs ≤ m.clk.now then (m.dropTransfers plot).endPlotReset plot
    else m)

/-! ## Functions and placement -/

/-- The plot's virtual function is enabled on the port where it is placed. -/
def Mach.vfOn (m : Mach) (p : Nat) : Bool := decide (p ≤ Tbl.get 0 (m.plotPort p) m.plots.vfEn)

/-- A plot becomes Absent (09 R418, R436): a Freeze of it fails. -/
def Mach.makeAbsent (p : Nat) (m : Mach) : Mach :=
  match (m.plot p).st with
  | .absent => m
  | .resetting => m.updPlot p fun x => { x with after := .absent }
  | .freezing => (m.failFreeze p).startPlotReset p .absent
  | _ => m.startPlotReset p .absent

/-- Plots 1 to 1,023 that the table of plots holds, with those that the port's virtual functions reach. -/
def Mach.plotsOn (m : Mach) (port n : Nat) : List Nat :=
  (List.range (Nat.min n 1023)).map (fun i => i + 1) |>.filter fun p => m.plotPort p == port

/-- FLR_PLOT0 (09 R436): plot 0 is reset in the plot domain, VF Enable of port 0 is cleared, and its plots become Absent. -/
def execFlrPlot0 (at_ : Nat) (s : State) : Host.Outcome State Fault Refusal :=
  .next (s.on fun _ m =>
    let m := m.advance at_
    if !m.awake then m
    else
      let n := Tbl.get 0 0 m.plots.vfEn
      let m := (m.plotsOn 0 n).foldl (fun m p => m.makeAbsent p) m
      let m := m.onPlots fun x => { x with vfEn := Tbl.put 0 0 0 x.vfEn }
      match (m.plot 0).st.afterReset with
      | some a => m.startPlotReset 0 a
      | none => m)

/-- VF_ENABLE_SET (09 R418). -/
def execVfEnableSet (port numVfs : Nat) (s : State) : Host.Outcome State Fault Refusal :=
  .next (s.on fun _ m =>
    if !m.awake || decide (2 ≤ port) || (decide (port = 1) && !m.boot.straps.portMode) || decide (1023 < numVfs) then m
    else
      let m := m.onPlots fun x => { x with vfEn := Tbl.put 0 port (Nat.max numVfs (Tbl.get 0 port x.vfEn)) x.vfEn }
      (m.plotsOn port numVfs).foldl (fun m p =>
        if (m.plot p).st = .absent then m.updPlot p fun x => { x with st := .ready, after := .ready } else m) m)

/-- VF_ENABLE_CLEAR (09 R418): VF Enable is cleared (`numVfs` 0), or NumVFs is lowered. -/
def execVfEnableClear (port numVfs at_ : Nat) (s : State) : Host.Outcome State Fault Refusal :=
  .next (s.on fun _ m =>
    let m := m.advance at_
    let old := Tbl.get 0 port m.plots.vfEn
    if !m.awake || decide (2 ≤ port) || decide (old ≤ numVfs) then m
    else
      let m := ((m.plotsOn port old).filter (fun p => decide (numVfs < p))).foldl (fun m p => m.makeAbsent p) m
      m.onPlots fun x => { x with vfEn := Tbl.put 0 port numVfs x.vfEn })

/-- A BAR2 write of PLT_CFG (09 R420): PORT of an Absent or Frozen plot, in the 2 × x8 mode. -/
def State.pltCfgWrite (p : Nat) (value : Word) (be : BitVec 4) (s : State) : State :=
  if 1024 ≤ p then s
  else s.barWrite (plotBase p + 4) true false be fun s => s.on fun _ m =>
    let st := (m.plot p).st
    if p = 0 ∨ m.boot.straps.portMode = false ∨ !(st == .absent || st == .frozen) then m
    else
      let m := (m.updPlot p fun x => { x with port := value.getLsbD 0, portSaved := value.getLsbD 0 }).saveHub 0x11
      if st = .absent ∧ m.vfOn p = true then m.updPlot p fun x => { x with st := .ready, after := .ready } else m

/-- PLT_CFG_WRITE (09 R420). -/
def execPltCfgWrite (plot : Nat) (value : Word) (be : BitVec 4) (s : State) : Host.Outcome State Fault Refusal :=
  .next (s.pltCfgWrite plot value be)

/-! ## Isolation groups (09 R423 to R425) -/

/-- A BAR2 write of PLT_ISO_MASKi (09 R424). -/
def State.isoMaskWrite (p i : Nat) (value : Word) (be : BitVec 4) (s : State) : State :=
  s.barWrite (plotBase p + 0x10 + 4 * i) true false be fun s => s.on fun _ m =>
    if m.hub.part && decide (2 ≤ i) then m
    else m.updPlot p fun x =>
      { x with isoMask := (x.isoMask &&& ~~~((0xFFFFFFFF#128) <<< (32 * i))) ||| (value.setWidth 128 <<< (32 * i)) }

/-- A BAR2 write of PLT_ISO_CMD (09 R425): APPLY starts an apply while none runs. -/
def State.isoCmdWrite (p : Nat) (value : Word) (be : BitVec 4) (s : State) : State :=
  if 1024 ≤ p then s
  else s.barWrite (plotBase p + 0x20) true false be fun s => s.on fun _ m =>
    if value.getLsbD 0 then m.updPlot p fun x => { x with isoBusy := true } else m

/-- ISO_APPLY (09 R425). -/
def execIsoApply (plot : Nat) (value : Word) (be : BitVec 4) (s : State) : Host.Outcome State Fault Refusal :=
  .next (s.isoCmdWrite plot value be)

/-- Why bed `b` may not be added to, or removed from, the group of plot `p`: a RESULT of 09 R425, 0 when it may. -/
def Mach.isoCheck (m : Mach) (p b : Nat) (add : Bool) : Nat :=
  let x := m.bed b
  if add && x.owner != 0 && x.owner != p + 1 then 1
  else if (m.zonesOn b).any (fun e => e.2.2.bound) || decide (0 < x.hslots) then 2
  else if decide (m.nBeds ≤ b) || (bedDies b).all (fun d => !(m.die d).populated) then 3
  else 0

/-- ISO_APPLY_DONE (09 R423): every change of the mask is made, or none. -/
def execIsoApplyDone (plot : Nat) (s : State) : Host.Outcome State Fault Refusal :=
  .next (s.on fun _ m =>
    let x := m.plot plot
    if x.isoBusy = false then m
    else
      let wanted := fun (b : Nat) => x.isoMask.getLsbD b
      let held := fun (b : Nat) => (m.bed b).owner == plot + 1
      let changes := (List.range 128).filter fun b => wanted b != held b
      match changes.findSome? (fun b => let r := m.isoCheck plot b (wanted b); if r = 0 then none else some (b, r)) with
      | some (b, r) =>
        (m.updPlot plot fun x => { x with isoBusy := false, isoResult := r, isoBed := b }).record 0x0905 r 0
      | none =>
        let m := changes.foldl (fun m b => m.updBed b fun y => { y with owner := if wanted b then plot + 1 else 0 }) m
        let m := m.onBoot fun y =>
          { y with isoOwner := changes.foldl (fun t b => Tbl.put 0 b (if wanted b then plot + 1 else 0) t) y.isoOwner }
        let m := (dedup (changes.map bedAcre)).foldl (fun m a => m.saveRec (recKey 4 a)) m
        m.updPlot plot fun x => { x with isoBusy := false, isoResult := 0 })

/-! ## Freeze and thaw (09 R443, R444, R449) -/

/-- Squash the commands of a freezing plot that have not reached their commit point (09 R443 step 3). -/
def Mach.freezeSquash (p : Nat) (m : Mach) : Mach :=
  let l := m.front.inflight.filter fun c =>
    c.plot == p && !c.committed && c.stage != .held && c.stage != .done && c.stage != .finished
  let m := l.foldl (fun m c => (m.updCmd c.stamp fun k => { k with caught := true }).squash c.stamp (some St.interrupted)) m
  let m := m.updPlot p fun x => { x with frzSquash := x.frzSquash + l.length }
  if l.isEmpty then m else m.record 0x0907 l.length 0

/-- PLOT_FREEZE (09 R443): fetch of the plot stops; its commands go on, or are squashed at once. -/
def execPlotFreeze (stamp at_ : Nat) (s : State) : Host.Outcome State Fault Refusal :=
  .next (s.on fun _ m =>
    (m.advance at_).vendor stamp 0xC1 fun c p m =>
      let len := c.sqe.cdw11.toNat
      if p = 0 ∨ (len ≠ 0 ∧ len ≠ 16) then m.failWith stamp St.invalidField
      else if (m.plot p).st ≠ .ready then m.failWith stamp St.plotConflict
      else
        let m := (m.setStage stamp .media).updPlot p fun x =>
          { x with st := .freezing, freezeCmd := stamp, freezeAt := m.clk.now, frzDone := 0, frzSquash := 0 }
        if len = 16 ∧ (leAt c.sqe.data 0 1).testBit 0 = true then m.freezeSquash p else m)

/-- FREEZE_BOUND_EXPIRY (09 R443 step 3). -/
def execFreezeBoundExpiry (plot at_ : Nat) (s : State) : Host.Outcome State Fault Refusal :=
  .next (s.on fun _ m =>
    let m := m.advance at_
    let x := m.plot plot
    if x.st ≠ .freezing ∨ m.clk.now < x.freezeAt + 10 * Config.edgesPerMs then m else m.freezeSquash plot)

/-- FREEZE_DONE (09 R443 steps 4, 5): every fetched command of the plot is posted, and its data are programmed or dumped. -/
def execFreezeDone (plot at_ : Nat) (s : State) : Host.Outcome State Fault Refusal :=
  .next (s.on fun _ m =>
    let m := m.advance at_
    let x := m.plot plot
    let nss := m.attachedTo plot
    if x.st = .freezing ∧ m.front.inflight.all (fun c => c.plot != plot || c.stage == .held) = true ∧ m.unitsFlushed nss = true ∧
        m.front.cqs.all (fun e => decide (e.1 / 1024 ≠ plot) || e.2.hasRoom) = true then
      let m := (m.dumpOpen nss).updPlot plot fun x =>
        { x with st := .frozen, after := .frozen, freezeCmd := 0, acc := { x.acc with frozen := true } }
      let m := m.finish x.freezeCmd Status.ok (BitVec.ofNat 32 (2 ^ 16 * sat 16 x.frzDone + sat 16 x.frzSquash))
      m.record 0x0908 ((m.clk.now - x.freezeAt) / Config.edgesPerMs) 0
    else m)

/-- PLOT_THAW (09 R449). -/
def execPlotThaw (stamp : Nat) (s : State) : Host.Outcome State Fault Refusal :=
  .next (s.on fun _ m => m.vendor stamp 0xC4 fun _ p m =>
    if (m.plot p).st ≠ .frozen then m.failWith stamp St.plotConflict
    else (m.updPlot p fun x => { x with st := .ready, after := .ready }).succeed stamp)

/-! ## The state record (09 R446) -/

/-- A tally entry (04 R219). -/
def tallyBytes (e : TallyEntry) : List Byte :=
  le 8 e.minute ++ le 1 (b2n e.unlocked + 2 * b2n e.epochBreak + 4 * b2n e.frozen + 8 * b2n e.incomplete) ++ zeros 7 ++
    le 8 e.bytesRead ++ le 8 e.bytesWritten ++ le 8 e.mediaOps ++ le 8 e.zoneSeconds ++ le 8 e.energy ++ zeros 8

/-- A tally entry from its bytes. -/
def tallyOf (bs : List Byte) : TallyEntry :=
  let f := leAt bs 8 1
  { minute := leAt bs 0 8, unlocked := f.testBit 0, epochBreak := f.testBit 1, frozen := f.testBit 2, incomplete := f.testBit 3,
    bytesRead := leAt bs 16 8, bytesWritten := leAt bs 24 8, mediaOps := leAt bs 32 8, zoneSeconds := leAt bs 40 8,
    energy := leAt bs 48 8 }

/-- Feature 0xC2 (04 R222). -/
def quotaBytes (q : Quota) : List Byte :=
  le 2 q.qpairs ++ zeros 2 ++ le 2 q.active ++ le 2 q.open_ ++ le 1 q.fetchW ++ le 1 q.drillW ++ le 1 q.energy ++
    le 1 (b2n q.fallback) ++ zeros 4 ++ (List.range 5).flatMap (fun k => le 4 (q.pools.getD k 0xFFFFFFFF)) ++ zeros 28

/-- Feature 0xC2 from its bytes. -/
def quotaOf (bs : List Byte) : Quota :=
  { qpairs := leAt bs 0 2, active := leAt bs 4 2, open_ := leAt bs 6 2, fetchW := leAt bs 8 1, drillW := leAt bs 9 1,
    energy := leAt bs 10 1, fallback := (leAt bs 11 1).testBit 0, pools := (List.range 5).map fun k => leAt bs (16 + 4 * k) 4 }

/-- Quotas lie within their ranges (04 R222). -/
def quotaOk (q : Quota) : Bool :=
  decide (q.qpairs ≤ 512) && decide (q.active ≤ 8192) && decide (q.open_ ≤ 8192) && decide (1 ≤ q.fetchW) && decide (q.fetchW ≤ 255) &&
    decide (1 ≤ q.drillW) && decide (q.drillW ≤ 255) && decide (q.energy ≤ 100)

/-- Quotas of a plot together with those of every other plot meet the limits of 04 R222. -/
def Mach.quotasFit (m : Mach) (p : Nat) (q : Quota) : Bool :=
  let sum := fun (f : Quota → Nat) => sumBy (fun (e : Nat × Plot) => if e.1 = p then 0 else f e.2.quota) m.plots.tbl + f q
  decide (sum Quota.qpairs ≤ 8192) && decide (sum Quota.active ≤ 8192) && decide (sum Quota.open_ ≤ 8192)

/-- A vector of a plot whose coalescing is disabled by feature 0x09: features are held by identifier, feature 0x09 by
0x10000 + vector. -/
def featKey09 (v : Nat) : Nat := 0x10000 + v

/-- A queue entry: submission queue `q` and completion queue `q`. -/
def Mach.queueEntry (m : Mach) (p q : Nat) : List Byte :=
  let s := m.sq p q
  let c := m.cq p q
  let cd := Tbl.get 0 (featKey09 c.iv) (m.plot p).feats
  le 8 s.base ++ le 8 c.base ++ le 2 q ++ le 2 (if s.size = 0 then q else s.cq) ++ le 2 (s.size - 1) ++ le 2 (c.size - 1) ++
    le 2 s.head ++ le 2 s.tail ++ le 2 c.tail ++ le 2 c.head ++ le 2 c.iv ++
    le 1 (b2n (s.size != 0) + 2 * b2n (c.size != 0) + 4 * b2n c.phase + 8 * b2n c.ien + 16 * cd) ++ zeros 13

/-- Outstanding event requests of a plot, oldest first. -/
def Mach.heldAers (m : Mach) (p : Nat) : List Cmd :=
  m.front.inflight.filter fun c => c.plot == p && c.sq == 0 && c.stage == .held

/-- Zones that count against a plot's active quota. -/
def Mach.plotZones (m : Mach) (p : Nat) : List (Nat × Zone) := m.med.zones.filter fun e => e.2.st.isActive && e.2.actPlot == p

/-- Fill a table of a record to its size. -/
def padTo (n : Nat) (bs : List Byte) : List Byte := bs.take n ++ zeros (n - bs.length)

/-- The record without its tag: header, key block, quotas, controller state and tables (09 R446). -/
def Mach.recordBody (m : Mach) (p slot seqNo : Nat) : List Byte :=
  let x := m.plot p
  let nss := m.attachedTo p
  let zs := m.plotZones p
  let feats := x.feats.filter (fun e => decide (e.1 < 256))
  let aers := (m.heldAers p).take 4
  let queues := ((List.range 513).filter (fun q => (m.sq p q).size != 0 || (m.cq p q).size != 0)).length
  le 4 0x5250484A ++ le 2 1 ++ le 2 1 ++ le 4 288784 ++ le 2 p ++ le 2 (b2n x.port) ++ m.identity ++ le 8 m.img.version ++
    le 8 m.gridNs ++ le 8 m.grid.minute ++ le 4 seqNo ++ le 2 queues ++ le 2 (Nat.min 256 nss.length) ++ le 2 (Nat.min 8192 zs.length) ++
    le 2 x.ring.length ++ le 2 (Nat.min 224 feats.length) ++ zeros 58 ++
  le 1 slot ++ zeros 7 ++ aesWrap (le 32 (Tbl.get 0 slot m.plots.migKeys)) (m.keyBytes x.key) ++ zeros 48 ++
  quotaBytes x.quota ++
  le 4 (m.bar0 p).cc.toNat ++ le 4 (m.bar0 p).aqa.toNat ++ le 1 aers.length ++ zeros 1 ++
    padTo 8 (aers.flatMap (fun c => le 2 c.sqe.cid.toNat)) ++ zeros 46 ++ zeros 128 ++
  padTo 3584 (feats.flatMap (fun e => le 1 e.1 ++ zeros 3 ++ le 4 e.2 ++ zeros 8)) ++
  (List.range 513).flatMap (fun q => m.queueEntry p q) ++ zeros 4048 ++
  (List.range 513).flatMap (fun v => le 16 (Tbl.get msixInit (qkey p v) m.front.msix)) ++ zeros 8176 ++
  padTo 16384 (nss.flatMap (fun n =>
    let e := m.ns n
    le 4 n ++ le 1 (b2n e.headland) ++ le 1 e.unwritten ++ zeros 2 ++ le 16 e.nguid ++ zeros 8 ++ e.dflt.bytes)) ++
  padTo 131072 (zs.flatMap (fun e => le 4 (e.1 / 2 ^ 20) ++ le 4 (e.1 % 2 ^ 20) ++ le 1 e.2.st.code ++ zeros 7)) ++
  padTo 92160 (x.ring.flatMap tallyBytes)

/-- The tag of a record under a migration key (09 R446): AES-256-CMAC under the two encryptions that make the MAC key. -/
def recordTagOf (body : List Byte) (key : Nat) : List Byte :=
  let k := le 32 key
  aesCmac (aesEncrypt k (List.replicate 16 1) ++ aesEncrypt k (List.replicate 16 2)) body

/-- PLOT_SAVE (09 R445). -/
def execPlotSave (stamp : Nat) (s : State) : Host.Outcome State Fault Refusal :=
  .next (s.on fun _ m => m.vendor stamp 0xC2 fun c p m =>
    let slot := Word.bits c.sqe.cdw12 2 0
    let key := Tbl.get 0 slot m.plots.migKeys
    if c.sqe.cdw11.toNat < 131072 then m.failWith stamp St.invalidField
    else if (m.plot p).st ≠ .frozen ∨ (m.plot p).key = 0 then m.failWith stamp St.plotConflict
    else if key = 0 then m.failWith stamp St.keyAbsent
    else
      let n := (m.plot p).saveSeq + 1
      let m := m.updPlot p fun x => { x with saveSeq := n }
      let body := m.recordBody p slot n
      let m := m.updCmd stamp fun k => { k with outData := body ++ recordTagOf body key }
      (m.finish stamp Status.ok 288784).record 0x0909 p 0)

/-! ## Restore (09 R447, R448) -/

/-- The number of a key of 64 bytes, if this controller knows it. -/
def Mach.keyNumber (m : Mach) (key : List Byte) : Option Nat :=
  ((List.range m.plots.keyCount).map (fun i => i + 1)).find? fun k => m.keyBytes k == key

/-- The plot key of a record, unwrapped under a migration key (09 R446, R447 check 3). -/
def recordKey (bs : List Byte) (migKey : Nat) : Option (List Byte) := aesUnwrap (le 32 migKey) (window bs 136 72)

/-- The first check of 09 R447 that a record fails, with its status; none when it passes them all. -/
def Mach.restoreCheck (m : Mach) (p : Nat) (bs : List Byte) (len : Nat) : Option (Nat × Status) :=
  let slot := leAt bs 128 1
  let key := if slot < 8 then Tbl.get 0 slot m.plots.migKeys else 0
  let own := decide (((bs.drop 16).take 16) = m.identity)
  let x := m.plot p
  let same := decide (leAt bs 12 2 = p) && x.st == .frozen && decide (x.key ≠ 0) && recordKey bs key == some (m.keyBytes x.key)
  let fresh := decide (p ≠ 0) && x.st == .ready && decide (x.key = 0) && (m.attachedTo p).isEmpty
  let q := quotaOf (bs.drop 256)
  let ioq := ((List.range 512).filter (fun i => (leAt bs (4096 + 48 * (i + 1) + 34) 1).testBit 0)).length
  let others := sumBy (fun (e : Nat × Plot) => if e.1 = p then 0 else m.qpairs e.1) m.plots.tbl
  if len ≠ leAt bs 8 4 ∨ leAt bs 8 4 ≠ 288784 ∨ leAt bs 0 4 ≠ 0x5250484A ∨ leAt bs 4 2 ≠ 1 ∨ leAt bs 6 2 ≠ 1 then some (1, St.recordInvalid)
  else if key = 0 then some (2, St.keyAbsent)
  else if recordKey bs key = none then some (3, St.keyAbsent)
  else if window bs 288768 16 ≠ recordTagOf (bs.take 288768) key then some (4, St.recordInvalid)
  else if !(if own then same else fresh) then some (5, St.plotConflict)
  else if own && decide (leAt bs 56 4 ≠ x.saveSeq) then some (6, St.recordInvalid)
  else if !quotaOk q || !m.quotasFit p q || decide (8192 < others + ioq) then some (7, St.plotResources)
  else none

/-- The queues of a plot from the queue table of a record. -/
def restoreQueues (p : Nat) (bs : List Byte) (f : Front) : Front :=
  (List.range 513).foldl (fun f q =>
    let e := (bs.drop (4096 + 48 * q)).take 48
    let fl := leAt e 34 1
    let f := if fl.testBit 0 then
        { f with sqs := Tbl.put Sq.init (qkey p q)
                   { Sq.init with base := leAt e 0 8, size := leAt e 20 2 + 1, head := leAt e 24 2, tail := leAt e 26 2, cq := leAt e 18 2 } f.sqs }
      else f
    if fl.testBit 1 then
      { f with cqs := Tbl.put Cq.init (qkey p q)
                 { base := leAt e 8 8, size := leAt e 22 2 + 1, head := leAt e 30 2, tail := leAt e 28 2, phase := fl.testBit 2,
                   iv := leAt e 32 2, ien := fl.testBit 3, fullAt := none } f.cqs }
    else f) f

/-- Outstanding event requests of a record: commands of the admin queue with its first sequence numbers. -/
def Mach.restoreAers (p : Nat) (bs : List Byte) (m : Mach) : Mach :=
  let n := Nat.min 4 (leAt bs 328 1)
  (List.range n).foldl (fun m i =>
    let e := { Sqe.zero with opc := 0x0C, cid := BitVec.ofNat 16 (leAt bs (330 + 2 * i) 2) }
    let c := { newCmd m.front.nextStamp p 0 0 i m.clk.now e with stage := .held }
    (m.onFront fun f => { f with inflight := f.inflight ++ [c], nextStamp := f.nextStamp + 1 }).updSq p 0 fun x =>
      { x with nextSeq := i + 1 }) m

/-- Apply a record to its target (09 R448). -/
def Mach.applyRecord (p : Nat) (bs : List Byte) (m : Mach) : Mach :=
  let own := decide (((bs.drop 16).take 16) = m.identity)
  let m := m.discardWhere fun c => c.plot == p && c.stage == .held
  let m := m.dropQueues p
  let m := m.onFront fun f =>
    restoreQueues p bs { f with msix := (List.range 513).foldl (fun t v => Tbl.put msixInit (qkey p v) (leAt bs (32768 + 16 * v) 16) t) f.msix }
  let cc := BitVec.ofNat 32 (leAt bs 320 4)
  let m := m.updBar0 p fun b =>
    { b with cc := cc, aqa := BitVec.ofNat 32 (leAt bs 324 4), asq := leAt bs 4096 8, acq := leAt bs 4104 8, rdy := cc.getLsbD 0 }
  let feats := (List.range (Nat.min 224 (leAt bs 68 2))).foldl (fun t i =>
    Tbl.put 0 (leAt bs (512 + 16 * i) 1) (leAt bs (512 + 16 * i + 4) 4) t) ([] : Tbl Nat)
  let feats := (List.range 513).foldl (fun t q =>
    let fl := leAt bs (4096 + 48 * q + 34) 1
    if fl.testBit 1 && fl.testBit 4 then Tbl.put 0 (featKey09 (leAt bs (4096 + 48 * q + 32) 2)) 1 t else t) feats
  let m := m.updPlot p fun x => { x with quota := quotaOf (bs.drop 256), feats := feats, st := .frozen, after := .frozen,
                                         acc := { x.acc with frozen := true } }
  let m := m.restoreAers p bs
  if own then m
  else
    let slot := leAt bs 128 1
    let ring := (List.range (Nat.min 1440 (leAt bs 66 2))).map fun i => tallyOf ((bs.drop (196608 + 64 * i)).take 64)
    let key := (recordKey bs (Tbl.get 0 slot m.plots.migKeys)).getD []
    match m.keyNumber key with
    | some k => m.updPlot p fun x => { x with key := k, ring := ring }
    | none =>
      let k := m.plots.keyCount + 1
      (m.onPlots fun x => { x with keyCount := k, keyVals := x.keyVals ++ [(k, key)] }).updPlot p fun x => { x with key := k, ring := ring }

/-- PLOT_RESTORE (09 R447, R448). A subfunction that the table does not name is out of range (04 R216). -/
def execPlotRestore (stamp : Nat) (s : State) : Host.Outcome State Fault Refusal :=
  .next (s.on fun _ m =>
    if (match m.cmd? stamp with | some c => decide (Word.bits c.sqe.cdw12 7 0 = 1) | none => true) then m
    else m.vendor stamp 0xC3 fun c p m =>
      let len := c.sqe.cdw11.toNat
      if Word.bits c.sqe.cdw12 7 0 ≠ 0 ∨ len = 0 ∨ 131072 < len then m.failWith stamp St.invalidField
      else match m.restoreCheck p c.sqe.data (4 * len) with
        | some (n, st) => (m.failWith stamp st).record 0x090B n 0
        | none =>
          let own := decide (((c.sqe.data.drop 16).take 16) = m.identity)
          ((m.applyRecord p c.sqe.data).succeed stamp).record 0x090A (b2n (!own)) 0)

/-- INSTALL_MIGRATION_KEY (09 R430; 04 R215): a key of zeros empties the slot. -/
def execInstallMigrationKey (stamp : Nat) (s : State) : Host.Outcome State Fault Refusal :=
  .next (s.on fun _ m =>
    if (match m.cmd? stamp with | some c => decide (Word.bits c.sqe.cdw12 7 0 ≠ 1) | none => true) then m
    else m.admin0 stamp 0xC3 fun c m =>
      let slot := leAt c.sqe.data 0 1
      if c.sqe.cdw11 ≠ 16 ∨ 8 ≤ slot then m.failWith stamp St.invalidField
      else (m.onPlots fun x => { x with migKeys := Tbl.put 0 slot (leAt c.sqe.data 32 32) x.migKeys }).saveHub 0x12 |>.succeed stamp)

end Sys2Proof.Machine
end

