-- ==== Sys2Proof/Machine/Registers.lean ====
section
/-! DEFINITION. Reads and writes of BAR2 registers (15 R625 to R642; 05 R264, R279 to R281; 07 R345, R383; 08 R410; 04 R183; 01 R66). -/

namespace Sys2Proof.Machine

/-! ## Reads -/

/-- The low dword of CAP (04 R172): MQES 16,383, CQR 1, AMS 0, TO 30. -/
def capLow : Word := 0x1E013FFF
/-- The high dword of CAP (04 R172): DSTRD 0, NSSRS 1, CSS bits 0 and 6, MPSMIN 0, MPSMAX 0. -/
def capHigh : Word := 0x00000830
/-- VS: 2.1 (15 R620). -/
def vsReg : Word := 0x00020100

/-- CSTS: RDY, CFS, SHST and NSSRO; PP and ST read 0 (15 R620). -/
def Bar0.csts (b : Bar0) : Word :=
  BitVec.ofNat 32 (b.rdy.toNat + 2 * b.cfs.toNat + 4 * (b.shst % 4) + 16 * b.nssro.toNat)

/-- A dword of BAR0 of a plot (15 R620). What a doorbell reads as is left open by NVMe Base and is free
(notes/assumptions/139). -/
def Mach.bar0Dword (m : Mach) (plot off : Nat) : Word :=
  let b := m.bar0 plot
  match off with
  | 0x00 => capLow
  | 0x04 => capHigh
  | 0x08 => vsReg
  | 0x14 => b.cc
  | 0x1C => b.csts
  | 0x24 => b.aqa
  | 0x28 => BitVec.ofNat 32 b.asq
  | 0x2C => BitVec.ofNat 32 (b.asq / 4294967296)
  | 0x30 => BitVec.ofNat 32 b.acq
  | 0x34 => BitVec.ofNat 32 (b.acq / 4294967296)
  | _ => if 0x1000 ≤ off ∧ off < 0x2008 then Config.doorbellRead plot off else 0

/-- A read of BAR0 of the function of this number on the port: a plot there answers with its registers, a parked function with CAP and
zeros (09 R415); where no function is, or before the controller is awake, nothing answers. -/
def Mach.bar0Read (port plot offset : Nat) (m : Mach) : Mach :=
  let off := offset / 4 * 4
  if !m.awake || decide (0x4000 ≤ off) then m
  else if m.barTakes port plot then m.readReturns (m.bar0Dword plot off)
  else if m.parkedFn port plot then m.readReturns (if off = 0 then capLow else if off = 4 then capHigh else 0)
  else m

/-- Dword `i` of the MSI-X entries of a plot (15 R623). -/
def Mach.msixDword (m : Mach) (plot i : Nat) : Word :=
  BitVec.ofNat 32 (Tbl.get msixInit (qkey plot (i / 4)) m.front.msix / 2 ^ (32 * (i % 4)))

/-- A dword of BAR4 of a plot (15 R623): the MSI-X table, the pending bit array, and zeros. -/
def Mach.bar4Dword (m : Mach) (plot off : Nat) : Word :=
  if off < 0x2010 then m.msixDword plot (off / 4)
  else if 0x3000 ≤ off ∧ off < 0x3048 then
    BitVec.ofNat 32 (sumBy (fun i => if m.front.pba.contains (qkey plot (8 * (off - 0x3000) + i)) then 2 ^ i else 0) (List.range 32))
  else 0

/-- A read of BAR4 of the function of this number on the port; nothing answers where no plot is (15 R619). -/
def Mach.bar4Read (port plot offset : Nat) (m : Mach) : Mach :=
  let off := offset / 4 * 4
  if !m.barTakes port plot || decide (0x4000 ≤ off) then m else m.readReturns (m.bar4Dword plot off)

/-- A write of BAR4 (15 R623): a dword of the MSI-X table, the bytes that are enabled; a vector that is no longer masked sends what was pending. -/
def Mach.bar4Write (port plot offset : Nat) (value : Word) (be : BitVec 4) (m : Mach) : Mach :=
  let i := offset / 4
  if !m.barTakes port plot || decide (0x2010 ≤ 4 * i) then m
  else
    let k := qkey plot (i / 4)
    let old := m.msixDword plot i
    let new := Word.mix old value be
    let e := Tbl.get msixInit k m.front.msix - old.toNat * 2 ^ (32 * (i % 4)) + new.toNat * 2 ^ (32 * (i % 4))
    let m := m.onFront fun f => { f with msix := Tbl.put msixInit k e f.msix }
    if e.testBit 96 || !m.front.pba.contains k then m
    else m.onFront fun f => { f with pba := f.pba.filter (fun x => x != k), msgs := f.msgs ++ [(plot, i / 4)] }

/-- The defined bits of AQA: ASQS and ACQS (15 R620). -/
def aqaMask : Word := 0x0FFF0FFF

/-- A write of a BAR0 register with no row of its own (15 R620): the admin queue properties, and NSSRO of CSTS, which is W1C by NVMe Base; what is
read-only or reserved is left alone. A partial write is ignored (DESIGN CHOICE: notes/assumptions/142). -/
def Mach.bar0Write (port plot offset : Nat) (value : Word) (be : BitVec 4) (m : Mach) : Mach :=
  if !m.barTakes port plot || decide (be ≠ 15) then m
  else m.updBar0 plot fun b =>
    match offset / 4 * 4 with
    | 0x1C => { b with nssro := b.nssro && !value.getLsbD 4 }
    | 0x24 => { b with aqa := value &&& aqaMask }
    | 0x28 => { b with asq := b.asq / 4294967296 * 4294967296 + value.toNat / 4096 * 4096 }
    | 0x2C => { b with asq := b.asq % 4294967296 + value.toNat * 4294967296 }
    | 0x30 => { b with acq := b.acq / 4294967296 * 4294967296 + value.toNat / 4096 * 4096 }
    | 0x34 => { b with acq := b.acq % 4294967296 + value.toNat * 4294967296 }
    | _ => b

/-- A read of configuration space (15 R619): Memory Space Enable and Bus Master Enable of Command; the rest is PCI Express's. -/
def Mach.configRead (port plot offset : Nat) (m : Mach) : Mach :=
  let off := offset / 4 * 4
  if !m.fnUp plot || m.plotPort plot != port then m
  else m.readReturns (if off = 4 then
      BitVec.ofNat 32 ((if m.plots.mseOff.contains plot then 0 else 2) + (if m.plots.bmeOff.contains plot then 0 else 4))
    else Config.configDword port plot off)

/-- Put a plot into a list, or take it out. -/
def listed (l : List Nat) (plot : Nat) (on : Bool) : List Nat := if on then (if l.contains plot then l else l ++ [plot]) else l.filter (fun x => x != plot)

/-- A write of Command of a function sets or clears its Memory Space Enable and its Bus Master Enable (15 R619; 09 R431); the rest of configuration
space has rows of its own or no effect here (DESIGN CHOICE: notes/assumptions/145). -/
def Mach.configWrite (port plot offset : Nat) (value : Word) (be : BitVec 4) (m : Mach) : Mach :=
  if !m.fnUp plot || m.plotPort plot != port || decide (offset / 4 ≠ 1) || !be.getLsbD 0 then m
  else m.onPlots fun x => { x with mseOff := listed x.mseOff plot (!value.getLsbD 1), bmeOff := listed x.bmeOff plot (!value.getLsbD 2) }

/-- LO_REGISTER_READ (15 R631): a BAR2 read; a LO register latches its other half, which the next read of the HI register returns. -/
def execLoRegisterRead (offset : Nat) (s : State) : Host.Outcome State Fault Refusal :=
  .next (s.on fun c m => m.bar2Read c offset)

/-- RC_REGISTER_READ (00_scope R9, 15 R625): a read of a register. A read of BAR2 clears the register's RC fields; BAR0 (15 R620, 09 R415) and
BAR4 (15 R623) have none. -/
def execRcRegisterRead (window : BarWindow) (offset : Nat) (s : State) : Host.Outcome State Fault Refusal :=
  match window with
  | .device => .next (s.on fun c m => m.bar2Read c offset)
  | .bar0 port fn => .next (s.on fun _ m => m.bar0Read port fn offset)
  | .bar4 port fn => .next (s.on fun _ m => m.bar4Read port fn offset)
  | .config port fn => .next (s.on fun _ m => m.configRead port fn offset)

/-! ## Registers with a row of their own -/

/-- A BAR2 write of HUB_CTRL (15 R632, R634): WR_GUARD is judged by LOCK as it was. -/
def State.hubCtrlWrite (value : Word) (be : BitVec 4) (s : State) : State :=
  s.barWrite 0x04 true false be fun s =>
    let lock := s.cfg.hubLock
    let g := value.getLsbD 0
    let c := { s.cfg with hubLock := lock || value.getLsbD 31, wrGuard := if lock then s.cfg.wrGuard else g }
    let m := if lock && g != s.cfg.wrGuard then s.m.wrDrop 4 0x04 else s.m
    { s with cfg := c, m := m }

/-- HUB_CTRL_WRITE (15 R634). -/
def execHubCtrlWrite (value : Word) (be : BitVec 4) (s : State) : Host.Outcome State Fault Refusal :=
  .next (s.hubCtrlWrite value be)

/-- A BAR2 write of HUB_INT_STS (15 R638): W1C. -/
def State.intStsWrite (value : Word) (be : BitVec 4) (s : State) : State :=
  s.barWrite 0x10 true false be fun s => s.on fun _ m => m.onHub fun h => { h with intSts := h.intSts &&& ~~~value }

/-- HUB_INT_STS_CLEAR (15 R638). -/
def execHubIntStsClear (value : Word) (be : BitVec 4) (s : State) : Host.Outcome State Fault Refusal :=
  .next (s.intStsWrite value be)

/-- The bits of HUB_INT_STS (15 R638). -/
def intMask : Word := 0x1FFFFF

/-- A BAR2 write of HUB_INT_SET (15 R639). -/
def State.intSetWrite (value : Word) (be : BitVec 4) (s : State) : State :=
  s.barWrite 0x18 true false be fun s => s.on fun _ m => m.onHub fun h => { h with intSts := h.intSts ||| (value &&& intMask) }

/-- HUB_INT_SET_WRITE (15 R639). -/
def execHubIntSetWrite (value : Word) (be : BitVec 4) (s : State) : Host.Outcome State Fault Refusal :=
  .next (s.intSetWrite value be)

/-- A BAR2 write of HUB_LED_CTRL (15 R641). -/
def State.ledWrite (value : Word) (be : BitVec 4) (s : State) : State :=
  s.barWrite 0x20 true false be fun s => { s with cfg := { s.cfg with led := value.setWidth 2 } }

/-- HUB_LED_CTRL_WRITE (15 R641). -/
def execHubLedCtrlWrite (value : Word) (be : BitVec 4) (s : State) : Host.Outcome State Fault Refusal :=
  .next (s.ledWrite value be)

/-- A BAR2 write of BPM_DIRTY_CFG (07 R383; 15 R632, R635): the guard comes before LOCK; LOCK itself is W1S and never guarded. -/
def State.dirtyCfgWrite (value : Word) (be : BitVec 4) (s : State) : State :=
  s.barWrite 0xB00 true false be fun s =>
    let c := s.cfg
    let cap := Word.bits value 5 0
    let lock := c.dirtyLock || value.getLsbD 31
    let s1 := { s with cfg := { c with dirtyLock := lock } }
    if c.wrGuard then { s1 with m := s1.m.wrDrop 2 0xB00 }
    else if c.dirtyLock then (if cap = c.dirtyCap then s1 else { s1 with m := s1.m.wrDrop 4 0xB00 })
    else if 16 ≤ cap ∧ cap ≤ 32 then { s1 with cfg := { c with dirtyLock := lock, dirtyCap := cap } }
    else s1

/-- DIRTY_CFG_WRITE (07 R383). -/
def execDirtyCfgWrite (value : Word) (be : BitVec 4) (s : State) : Host.Outcome State Fault Refusal :=
  .next (s.dirtyCfgWrite value be)

/-- Set the write-protect bits of `n` sectors from `first` where the value has ones; a bit set again closes its window. -/
def Mach.protectBits (boot : Bool) (first n : Nat) (value : Word) (m : Mach) : Mach :=
  (List.range n).foldl (fun m i => if value.getLsbD i then m.protect boot (first + i) else m) m

/-- A BAR2 write of MGD_NAND_WPi of a swath (05 R280): W1S. -/
def State.nandWpWrite (swath i : Nat) (value : Word) (be : BitVec 4) (s : State) : State :=
  if 32 ≤ swath ∨ 16 ≤ i then s
  else s.barWrite (swathBase swath + 0x700 + 4 * i) (s.m.reachable (swath / 8)) false be fun s =>
    s.on fun _ m => m.protectBits false ((64 * swath + 4 * i) * 8) 32 value

/-- MGD_NAND_WP_WRITE (05 R280). -/
def execMgdNandWpWrite (swath index : Nat) (value : Word) (be : BitVec 4) (s : State) : Host.Outcome State Fault Refusal :=
  .next (s.nandWpWrite swath index value be)

/-- A BAR2 write of MGD_BOOT_WPi (05 R281): W1S. -/
def State.bootWpWrite (i : Nat) (value : Word) (be : BitVec 4) (s : State) : State :=
  if 32 ≤ i then s
  else s.barWrite (0xA00 + 4 * i) true false be fun s => s.on fun _ m => m.protectBits true (32 * i) 32 value

/-- MGD_BOOT_WP_WRITE (05 R281). -/
def execMgdBootWpWrite (index : Nat) (value : Word) (be : BitVec 4) (s : State) : Host.Outcome State Fault Refusal :=
  .next (s.bootWpWrite index value be)

/-- MGD_WINDOW_OPEN (05 R279): a management core clears the bit of one sector for 1 to 65,535 operations and 250 ms. Boot sectors
beyond the 128 that are laid out (13 R571) are never cleared. -/
def execMgdWindowOpen (sector : Nat) (boot : Bool) (ops : Nat) (at_ : Nat) (s : State) : Host.Outcome State Fault Refusal :=
  .next (s.on fun _ m =>
    let m := m.advance at_
    if !m.awake || decide (ops = 0) || decide (65535 < ops) || decide (if boot then 128 ≤ sector else m.nDies * 8 ≤ sector) then m
    else m.openWindow boot sector ops)

/-- MGD_WINDOW_CLOSE (05 R279): windows whose 250 ms have passed, or whose operations are used, close. -/
def execMgdWindowClose (at_ : Nat) (s : State) : Host.Outcome State Fault Refusal :=
  .next (s.on fun _ m =>
    let m := m.advance at_
    (m.med.windows.filter (fun w => decide (w.closes ≤ m.clk.now) || decide (w.ops = 0))).foldl
      (fun m w => m.protect w.boot w.sector) m)

/-! ## The other registers -/

/-- A write of a register with no row of its own: hub block (04 R183; 15 R639, R642; 01 R66). -/
def State.hubWrite (off : Nat) (value : Word) (s : State) : State :=
  match off with
  | 0x14 => { s with cfg := { s.cfg with intEn := value &&& intMask } }
  | 0x344 => s.on fun _ m => m.onHub fun h => { h with fatalBits := h.fatalBits &&& ~~~(value.setWidth 6) }
  | 0x364 =>
    let adm := Word.bits value 15 8
    let burst := Word.bits value 3 0
    if 1 ≤ adm ∧ 1 ≤ burst ∧ burst ≤ 8 then { s with cfg := { s.cfg with admMax := adm, burst := burst } } else s
  | 0xE20 => if Word.bits value 7 0 = 0 then s
    else { s with cfg := { s.cfg with intWt := Tbl.put 0x10 4 (Word.bits value 7 0) s.cfg.intWt } }
  | _ => if 0x30 ≤ off ∧ off < 0x40 then { s with cfg := { s.cfg with scratch := Tbl.put 0 ((off - 0x30) / 4) value s.cfg.scratch } } else s

/-- The same in an acre block (07 R345, 08 R410). -/
def State.acreWrite (a off : Nat) (value : Word) (s : State) : State :=
  match off with
  | 0xC04 =>
    let arp := Word.bits value 20 16
    let age := Word.bits value 5 0
    if 6 ≤ arp ∧ arp ≤ 16 ∧ 1 ≤ age then
      { s with cfg := { s.cfg with arpLog2 := Tbl.put 0x0A a arp s.cfg.arpLog2, age := Tbl.put 4 a age s.cfg.age } }
    else s
  | 0xE20 => if Word.bits value 7 0 = 0 then s
    else { s with cfg := { s.cfg with intWt := Tbl.put 0x10 a (Word.bits value 7 0) s.cfg.intWt } }
  | _ => s

/-- SWT_ERS_CFG of a swath (05 R264). -/
def State.ersWrite (sw : Nat) (value : Word) (s : State) : State :=
  let n := Word.bits value 11 0
  if 200 ≤ n ∧ n ≤ 4000 then { s with cfg := { s.cfg with minSlice := Tbl.put 0x258 sw n s.cfg.minSlice } } else s

/-- The register is guarded (15 R635), of those that have no row of their own. -/
def guardedPlace : Place → Bool
  | .hub 0x364 | .hub 0xE20 | .acre _ 0xC04 | .acre _ 0xE20 | .swath _ 0x410 => true
  | _ => false

/-- Apply a write to a named register of a place: what is read-only is left alone. -/
def State.placeWrite (pl : Place) (value : Word) (s : State) : State :=
  match pl with
  | .hub o => s.hubWrite o value
  | .acre a o => s.acreWrite a o value
  | .swath sw 0x410 => s.ersWrite sw value
  | _ => s

/-- The offset in a plot table names a register of its entry (15 R644). -/
def plotNamed (o : Nat) : Bool := [0x00, 0x04, 0x10, 0x14, 0x18, 0x1C, 0x20].contains (o % 0x1000)

/-- A BAR2 write of any offset: the registers with behaviour of their own, member windows (10 R470), and the rest by 15 R625 to
R628. -/
def State.bar2Write (offset : Nat) (value : Word) (be : BitVec 4) (s : State) : State :=
  let off := offset / 4 * 4
  if 0x10000000 ≤ off then s
  else match placeOf off with
    | .hub 0x04 => s.hubCtrlWrite value be
    | .hub 0x10 => s.intStsWrite value be
    | .hub 0x18 => s.intSetWrite value be
    | .hub 0x20 => s.ledWrite value be
    | .hub 0x500 => s.furCfgWrite value be
    | .hub 0xB00 => s.dirtyCfgWrite value be
    | .acre a 0xC08 => s.rateWrite a value be
    | .plot p 0x04 => s.pltCfgWrite p value be
    | .plot p 0x20 => s.isoCmdWrite p value be
    | .member n o =>
      if s.m.deviceUp = false ∨ s.m.hitch.role ≠ 1 then s
      else if (s.m.member n).st ≠ 1 then s.on fun _ m => m.wrDrop 3 off
      else if 0x00400000 ≤ o then s
      else if be ≠ 15 then if plotNamed o then s.on fun _ m => m.wrDrop 1 off else s
      else s.on fun _ m => m.sendBody 0x31 n (m.pathPort n) 0 (le 4 o ++ le 4 value.toNat)
    | pl =>
      match pl with
      | .hub o =>
        if 0xA00 ≤ o ∧ o < 0xA80 then s.bootWpWrite ((o - 0xA00) / 4) value be
        else if (s.m.placeReg s.cfg pl).isSome then s.barWrite off true (guardedPlace pl) be (State.placeWrite pl value) else s
      | .acre a o =>
        if 0x800 ≤ o ∧ o < 0x880 then s.furCtrlWrite a ((o - 0x800) / 4) value be
        else if s.m.reachable a = false ∨ (s.m.placeReg s.cfg pl).isSome = true then
          s.barWrite off (s.m.reachable a) (guardedPlace pl) be (State.placeWrite pl value)
        else s
      | .swath sw o =>
        if 0x700 ≤ o ∧ o < 0x740 then s.nandWpWrite sw ((o - 0x700) / 4) value be
        else if s.m.reachable (sw / 8) = false ∨ (s.m.placeReg s.cfg pl).isSome = true then
          s.barWrite off (s.m.reachable (sw / 8)) (guardedPlace pl) be (State.placeWrite pl value)
        else s
      | .plot p o =>
        if 0x10 ≤ o ∧ o < 0x20 then s.isoMaskWrite p ((o - 0x10) / 4) value be
        else if (s.m.placeReg s.cfg pl).isSome then s.barWrite off true false be (State.placeWrite pl value) else s
      | _ => s

/-- REGISTER_WRITE (15 R620, R623, R625 to R628, R635). -/
def execRegisterWrite (window : BarWindow) (offset : Nat) (value : Word) (be : BitVec 4) (s : State) : Host.Outcome State Fault Refusal :=
  match window with
  | .device => .next (s.bar2Write offset value be)
  | .bar0 port fn => .next (s.on fun _ m => m.bar0Write port fn offset value be)
  | .bar4 port fn => .next (s.on fun _ m => m.bar4Write port fn offset value be)
  | .config port fn => .next (s.on fun _ m => m.configWrite port fn offset value be)

end Sys2Proof.Machine
end

