-- ==== Sys2Proof/Machine/YieldBook.lean ====
section
/-! DEFINITION. The Yield Book (14): records and their bytes (R595 to R600), time-base entries (R601), counting (R604, R605), persists and
their images (R606 to R609), and the rebuilding of the book at replay (R610, R611). -/

namespace Sys2Proof.Machine

/-! ## Records -/

/-- A time stamp (R600). -/
def Stamp.bytes (t : Stamp) : List Byte := le 5 t.sec ++ zeros 3 ++ le 4 t.cyc

/-- First and last code of each run of codes that the chapters' event tables name (R602). -/
def ybkRuns : List (Nat × Nat) :=
  [(0x0110, 0x0112), (0x0120, 0x0120), (0x0130, 0x0132), (0x0140, 0x0141), (0x0150, 0x0151), (0x0200, 0x0204), (0x0210, 0x0213),
   (0x0300, 0x0308), (0x0310, 0x0311), (0x0400, 0x0408), (0x0500, 0x050E), (0x0600, 0x0609), (0x0610, 0x0613), (0x0700, 0x0710),
   (0x0800, 0x0807), (0x0900, 0x090C), (0x0A00, 0x0A0B), (0x0B00, 0x0B0B), (0x0C00, 0x0C0A), (0x0D00, 0x0D0B), (0x0E00, 0x0E05)]

/-- Every code of the running image, ascending. -/
def ybkCodes : List Nat := ybkRuns.flatMap fun r => (List.range (r.2 + 1 - r.1)).map (fun i => r.1 + i)

/-- Largest total count (R596). -/
def totalMax : Nat := 2 ^ 48 - 1

/-- The flags byte of a record (R597); `startup` is bit 1, `counting` shows bit 4. -/
def Rec.flags (r : Rec) (startup counting : Bool) : Nat :=
  b2n r.valid + 2 * b2n startup + 4 * b2n (r.total == totalMax) + 8 * b2n r.incomplete + 16 * b2n (counting && r.pending)

/-- The 256 bytes of a record (R596). -/
def Rec.bytes (r : Rec) (code : Nat) (startup counting : Bool) : List Byte :=
  let b := le 2 code ++ le 1 (r.flags startup counting) ++ le 1 (Config.binShift code) ++ le 2 r.interval ++ zeros 2 ++ le 8 r.total ++
    le 4 r.suppressed ++ le 4 r.persists ++ r.first.bytes ++ r.latest.bytes ++
    (List.range 16).flatMap (fun i => le 4 (r.bins.getD i 0)) ++ le 8 r.min ++ r.minAt.bytes ++ zeros 4 ++ le 8 r.max ++
    r.maxAt.bytes ++ zeros 4 ++ le 8 r.lastMag ++ le 8 r.lastGrid ++ le 4 r.session ++ zeros 68 ++ le 4 r.gen
  b ++ le 4 (crc32c b)

/-- Apply an occurrence to a record in one step (R598, R599, R605). -/
def Rec.count (t : Stamp) (grid bin mag : Nat) (r : Rec) : Rec :=
  { r with valid := true, total := Nat.min totalMax (r.total + 1), bins := r.bins.modify bin (fun n => sat 32 (n + 1)),
           first := if r.valid then r.first else t, latest := t,
           min := if r.valid ∧ r.min ≤ mag then r.min else mag, minAt := if r.valid ∧ r.min ≤ mag then r.minAt else t,
           max := if r.valid ∧ mag ≤ r.max then r.max else mag, maxAt := if r.valid ∧ mag ≤ r.max then r.maxAt else t,
           lastMag := mag, lastGrid := grid }

/-! ## Safe storage -/

/-- Yield Book entries of the boot-flash area lie in sectors 3 to 7, 128 to a sector (R609). -/
def bootSector (seq : Nat) : Nat := 3 + seq / 128 % 5

/-- The 512 bytes of an entry (R609); a time-base entry has code 0 and no record. -/
def BootImage.bytes (b : BootImage) : List Byte :=
  let e := (if b.code = 0 then zeros 256 else b.image.bytes b.code b.startup false) ++ le 8 b.sec ++ le 4 b.cyc ++ le 4 b.session ++ le 4 b.seq
  e ++ le 4 (crc32c e) ++ List.replicate 220 0xFF ++ (if b.merged then zeros 4 else List.replicate 4 0xFF) ++ List.replicate 4 0xFF ++ le 4 0x4D564259

/-- Write an entry of the boot-flash area, a time-base entry where no image is given: a sector is erased before its first entry, and its old entries are gone (R609). -/
def Mach.bootEntry (e : Option (Nat × Rec × Bool)) (m : Mach) : Mach :=
  let seq := m.ybk.bootEntries
  let m := if seq % 128 = 0 then
      (m.onYbk fun y => { y with bootImages := y.bootImages.filter fun b => decide (seq < b.seq + 513) }).record 0x0E04 (bootSector seq) 0
    else m
  m.onYbk fun y =>
    { y with bootEntries := seq + 1,
             bootImages := y.bootImages ++
               (let x := e.getD (0, Rec.init, false)
                [{ sec := m.lifeSec, cyc := m.lifeCyc, seq := seq, code := x.1, image := x.2.1, session := m.boot.session, startup := x.2.2,
                   merged := false }]) }

/-- A time-base entry (R601). -/
def Mach.timeBase (m : Mach) : Mach :=
  (m.bootEntry none).onClk fun k =>
    { k with entrySec := m.lifeSec, entryCyc := m.lifeCyc, entryValid := true, lastEntryAt := m.clk.now }

/-- TIME_BASE_WRITE (R601 item 4): every 60 powered seconds. -/
def execTimeBaseWrite (at_ : Nat) (s : State) : Host.Outcome State Fault Refusal :=
  .next (s.on fun _ m =>
    let m := m.advance at_
    if m.awake && m.clk.basesLoaded && decide (m.clk.lastEntryAt + 60 * Config.edgesPerSec ≤ m.clk.now) then m.timeBase else m)

/-- Queue an image of a record for the mode in force (R606, R608, R609). -/
def Mach.queueImage (code : Nat) (r : Rec) (m : Mach) : Mach :=
  if m.ybk.mode = 0 then
    if m.fencedA 0 && m.fencedA 1 then m.bootEntry (some (code, r, false))
    else m.onYbk fun y =>
      { y with images := y.images ++ [(code, r)], imagesAt := if y.images.isEmpty then m.powMs else y.imagesAt }
  else m.bootEntry (some (code, r, m.ybk.mode != 2))

/-- The book that counts: the start-up book in start-up and recovery, otherwise the main one (R609). -/
def Mach.startBook (m : Mach) : Bool := m.ybk.mode == 1 || m.ybk.mode == 3
/-- The persist interval that feature 0xC4 gives a code (04 R224). -/
def Ybk.intervalOf (y : Ybk) (code : Nat) : Nat := if Tbl.get 0 code y.ivals = 0 then y.deflt else Tbl.get 0 code y.ivals
/-- The record of a code in the main book; one that nothing has touched has the interval of its code. -/
def Mach.mainRec (m : Mach) (code : Nat) : Rec :=
  let r := Tbl.get Rec.init code m.ybk.recs
  let i := m.ybk.intervalOf code
  if r = Rec.init then { r with interval := i, nextInterval := i } else r
def Mach.ybkRec (m : Mach) (code : Nat) : Rec := if m.startBook then Tbl.get Rec.init code m.ybk.start else m.mainRec code
def Mach.setRec (code : Nat) (r : Rec) (m : Mach) : Mach :=
  if m.startBook then m.onYbk fun y => { y with start := Tbl.put Rec.init code r y.start }
  else m.onYbk fun y => { y with recs := Tbl.put Rec.init code r y.recs }

/-- A persist of a record (R606); a changed interval is in force from then on (R607). -/
def Mach.persist (code : Nat) (m : Mach) : Mach :=
  let r := m.ybkRec code
  let r := { r with gen := r.gen + 1, persists := sat 32 (r.persists + 1), pending := false, lastPersist := some m.powMs,
                    interval := r.nextInterval }
  (m.setRec code r).queueImage code r

/-- The persist interval has run since the last persist; once per second in start-up and recovery (R606, R609). -/
def Mach.mayPersist (m : Mach) (code : Nat) : Bool :=
  match (m.ybkRec code).lastPersist with
  | none => true
  | some t => decide ((if m.startBook then 1 else (m.ybkRec code).interval) * 1000 ≤ m.powMs - t)

/-! ## Counting -/

/-- Count an occurrence under a code that has a slot, or in the start-up book (R605, R606). -/
def Mach.countCode (code mag : Nat) (m : Mach) : Mach :=
  let m := m.setRec code ((m.ybkRec code).count m.stampNow m.gridNs (ybkBin code mag) mag)
  if m.mayPersist code then m.persist code
  else m.setRec code { m.ybkRec code with suppressed := sat 32 ((m.ybkRec code).suppressed + 1), pending := true }

/-- Apply an occurrence; a code without a slot is counted under 0x0E00 (R603). -/
def Mach.applyOcc (o : Occ) (m : Mach) : Mach :=
  if m.startBook || m.ybk.slots.contains o.code then m.countCode o.code o.mag
  else if m.ybk.slots.contains 0x0E00 then m.countCode 0x0E00 o.code
  else m

/-- The occurrence that the hub applies next: of those posted on the earliest edge the hub's own, then acres in ascending order
(R604). -/
def Mach.nextOcc (m : Mach) : Option Occ :=
  match m.ybk.queue with
  | [] => none
  | h :: _ => (List.range 5).findSome? fun i => m.ybk.queue.find? (fun o => o.edge == h.edge && o.src == i)

/-- The counting record of a code is written to its slot in the hub region of DRAM, and so to ports 0 and 1 (R595). -/
def Mach.bookWrite (code : Nat) (m : Mach) : Mach :=
  match m.ybk.slots.idxOf? code with
  | none => m
  | some i =>
    let b := (m.mainRec code).bytes code false true
    (List.range 4).foldl (fun m k =>
      m.hubStore { mkDram (bookLine i k) 1 .metadata true (lineOf 0 ((b.drop (64 * k)).take 64)) .hub 0 with known := true } (bookLine i k)) m

/-- OCCURRENCE_APPLY (R604, R605): at most one per datapath edge; drops are recorded once the queue that dropped has room. -/
def execOccurrenceApply (at_ : Nat) (s : State) : Host.Outcome State Fault Refusal :=
  .next (s.on fun _ m =>
    let m := m.advance at_
    match m.nextOcc with
    | none => m
    | some o =>
      let m := m.advance (m.ybk.appliedAt + 1)
      let m := (m.onYbk fun y => { y with queue := y.queue.erase o, appliedAt := m.clk.now }).applyOcc o
      let m := if m.startBook then m else m.bookWrite o.code
      let n := Tbl.get 0 (o.src - 1) m.ybk.dropOwed
      if o.src ≠ 0 ∧ 0 < n then (m.onYbk fun y => { y with dropOwed := Tbl.put 0 (o.src - 1) 0 y.dropOwed }).record 0x0E01 n 0 else m)

/-- PERSIST_INTERVAL_END (R606). -/
def execPersistIntervalEnd (code at_ : Nat) (s : State) : Host.Outcome State Fault Refusal :=
  .next (s.on fun _ m =>
    let m := m.advance at_
    if (m.ybkRec code).pending && m.mayPersist code then m.persist code else m)

/-! ## The journal (R608) -/

/-- A unit whose dies all went out of service before they programmed it: it is in the journal where one copy is, and is gathered again otherwise. -/
def Mach.journalPrune (m : Mach) : Mach :=
  let left := m.ybk.copies.filter m.dieUp
  let unit := m.ybk.unit
  if m.ybk.copies.isEmpty || !left.isEmpty then m.onYbk fun y => { y with copies := left }
  else
    let safe := m.ybk.unitSafe
    let m := m.onYbk fun y => { y with unit := [], copies := [], unitSafe := false, images := if safe then y.images else unit ++ y.images }
    if safe then (m.journalUnit unit).compact else m

/-- JOURNAL_UNIT_PROGRAM (R608): 256 images, or 1 s after the first, go to the dies of acres 0 and 1 as headland programs, one unit after another. With acres 0
and 1 both fenced the images go to the boot flash. -/
def execJournalUnitProgram (at_ : Nat) (s : State) : Host.Outcome State Fault Refusal :=
  .next (s.on fun _ m =>
    let m := (m.advance at_).journalPrune
    if m.ybk.images.isEmpty || !m.ybk.copies.isEmpty || (decide (m.ybk.images.length < 256) && decide (m.powMs < m.ybk.imagesAt + 1000)) then m
    else
      let now := m.ybk.images.take 256
      let m := m.onYbk fun y => { y with images := y.images.drop 256, imagesAt := m.powMs }
      let dies := m.journalDies
      if dies.isEmpty then now.foldl (fun m e => m.bootEntry (some (e.1, e.2, false))) m
      else
        let block := journalBlock (m.ybk.unitsDone / m.journalBlockUnits)
        dies.foldl (fun m d => m.headWrite d block .program true) (m.onYbk fun y => { y with unit := now, copies := dies, unitSafe := false }))

/-- What an image of a record shows: neither when it was last persisted, nor the interval that comes next. -/
def Rec.image (r : Rec) : Rec := { r with pending := false, lastPersist := none, nextInterval := 0 }

/-- A dump writes an image of every record that differs from its last image programmed; each counts as a persist (R611). -/
def Mach.dumpBook (m : Mach) : Mach :=
  let stale := m.ybk.recs.filter fun e =>
    let inBoot := (m.ybk.bootImages.filter (fun b => b.code == e.1 && !b.startup)).any (fun b => b.image.image == e.2.image)
    decide ((Tbl.get Rec.init e.1 m.ybk.journal).image ≠ e.2.image) && !inBoot
  let m := stale.foldl (fun m e =>
    let r := { e.2 with gen := e.2.gen + 1, persists := sat 32 (e.2.persists + 1), pending := false, lastPersist := some m.powMs,
                        interval := e.2.nextInterval }
    m.onYbk fun y => { y with recs := Tbl.put Rec.init e.1 r y.recs, journal := Tbl.put Rec.init e.1 r y.journal,
                              journalOld := Tbl.put Rec.init e.1 (Tbl.get Rec.init e.1 y.journal) y.journalOld }) m
  m.onYbk fun y => { y with images := [] }

/-! ## Restoring the book (R603, R610) -/

/-- The first stamp is not later than the second. -/
def Stamp.le (x y : Stamp) : Bool := decide (x.cyc < y.cyc) || (decide (x.cyc = y.cyc) && decide (x.sec ≤ y.sec))

/-- Add a start-up record of a session into a record (R610 step 3). -/
def Rec.merge (a : Rec) (session : Nat) (r : Rec) : Rec :=
  let newer := !r.valid || r.latest.le a.latest
  if !a.valid then { r with session := Nat.max r.session session, incomplete := r.incomplete || a.incomplete }
  else
    { r with valid := true, total := Nat.min totalMax (r.total + a.total),
             bins := (List.range 16).map (fun i => sat 32 (r.bins.getD i 0 + a.bins.getD i 0)),
             first := if r.valid && r.first.le a.first then r.first else a.first,
             latest := if newer then a.latest else r.latest,
             min := if r.valid ∧ r.min ≤ a.min then r.min else a.min, minAt := if r.valid ∧ r.min ≤ a.min then r.minAt else a.minAt,
             max := if r.valid ∧ a.max ≤ r.max then r.max else a.max, maxAt := if r.valid ∧ a.max ≤ r.max then r.maxAt else a.maxAt,
             lastMag := if newer then a.lastMag else r.lastMag, lastGrid := if newer then a.lastGrid else r.lastGrid,
             suppressed := sat 32 (r.suppressed + a.suppressed), persists := sat 32 (r.persists + a.persists),
             incomplete := r.incomplete || a.incomplete, session := Nat.max r.session session }

/-- Insert into a list of codes in ascending order, once. -/
def insertCode (c : Nat) : List Nat → List Nat
  | [] => [c]
  | x :: t => if c < x then c :: x :: t else if c = x then x :: t else x :: insertCode c t

/-- Start-up entries that are not merged, the newest of each code and session (R610 step 2). -/
def Ybk.unmerged (y : Ybk) : List BootImage :=
  let l := y.bootImages.filter fun b => b.startup && !b.merged
  l.filter fun b => !l.any fun c => c.code == b.code && c.session == b.session && decide (b.seq < c.seq)

/-- Codes whose newest image fails its check while a good image of a lower generation is used (R611). -/
def Ybk.shortCodes (y : Ybk) (bad : List Nat) : List Nat :=
  bad.filter fun c =>
    let old := { y with journal := Tbl.put Rec.init c (Tbl.get Rec.init c y.journalOld) y.journal }
    decide ((old.newest c).gen < (Tbl.get Rec.init c y.journal).gen) && decide (0 < (old.newest c).gen)

/-- The journal without the images that fail their check. -/
def Ybk.dropBad (y : Ybk) (bad : List Nat) : Ybk :=
  { y with journal := bad.foldl (fun t c => Tbl.put Rec.init c (Tbl.get Rec.init c y.journalOld) t) y.journal }

/-- Rebuild the book and go to service mode (R603, R610); `bad` lists the codes whose newest journal image fails its check. -/
def Mach.rebuildBook (bad : List Nat) (m : Mach) : Mach :=
  let bad := dedup bad
  let short := m.ybk.shortCodes bad
  let m := m.onYbk fun y => y.dropBad bad
  let y := m.ybk
  let imaged := y.journal.map (fun e => e.1) ++ (y.bootImages.filter (fun b => !b.startup && b.code != 0)).map (fun b => b.code)
  let codes := (imaged.foldl (fun l c => insertCode c l) ybkCodes).take 4096
  let base := codes.foldl (fun (t : Tbl Rec) c =>
    let r := y.newest c
    Tbl.put Rec.init c { r with pending := false, lastPersist := none, incomplete := r.incomplete || short.contains c } t) []
  let adds := (y.unmerged.map (fun b => (b.code, b.session, b.image))) ++ y.start.map (fun e => (e.1, m.boot.session, e.2))
  let adds := adds.filter (fun e => codes.contains e.1 && decide ((Tbl.get Rec.init e.1 base).session < e.2.1))
  let recs := adds.foldl (fun (t : Tbl Rec) e => Tbl.upd Rec.init e.1 (fun r => e.2.2.merge e.2.1 r) t) base
  let m := m.onYbk fun y => { y with mode := 0, slots := codes, recs := recs, start := [] }
  let m := (dedup (adds.map (fun e => e.1))).foldl (fun m c => m.persist c) m
  let m := m.onYbk fun y => { y with bootImages := y.bootImages.map fun b => if b.startup then { b with merged := true } else b }
  (short.foldl (fun m c => m.record 0x0E03 c 0) m).record 0x0E05 adds.length 0

end Sys2Proof.Machine
end

