-- ==== Sys2Proof/Machine/Logs.lean ====
section
/-! DEFINITION. Identify data and log pages: what the controller reports (04 R172, R173, R217 to R221; 02 R108, R115, R116; 03 R126,
R130, R155, R167, R168; 10 R466, R467; 11 R496, R517). Bytes that the NVMe standards lay out have their standard places (PRESUMED:
notes/assumptions/24), and those to which the spec gives no value are free (notes/assumptions/7). -/

namespace Sys2Proof.Machine

/-! ## Layouts -/

/-- Put pieces, each at its offset, over a background of `n` bytes. -/
def overlay (n : Nat) (bg : Nat → Byte) (l : List (Nat × List Byte)) : List Byte :=
  l.foldl (fun acc e => acc.take e.1 ++ e.2 ++ acc.drop (e.1 + e.2.length)) ((List.range n).map bg)

/-! ## Endurance groups and temperatures -/

/-- Beds of an endurance group: 1 the shared beds, p + 2 the isolation group of plot p (03 R124). -/
def Mach.groupBeds (m : Mach) (g : Nat) : List Nat := (List.range m.nBeds).filter fun b => (m.bed b).owner + 1 == g
def Mach.groups (m : Mach) : List Nat := 1 :: (dedup ((List.range m.nBeds).map (fun b => (m.bed b).owner + 1))).filter (fun g => g != 1)
def Mach.bedPop (m : Mach) (b : Nat) : List Nat := (bedDies b).filter fun d => (m.die d).populated

/-- Sum and largest of the P/E counts of a die's blocks. -/
def Die.peSum (d : Die) : Nat := sumBy (fun (e : Nat × Nat) => e.2) d.pe
def Die.peMax (d : Die) : Nat := (d.pe.map (fun e => e.2)).foldl Nat.max 0

/-- Available Spare of a group (03 R155). -/
def Mach.groupSpare (m : Mach) (g : Nat) : Nat :=
  ((m.groupBeds g).filter (fun b => !(m.bedPop b).isEmpty)).foldl (fun best b =>
    let left := sumBy (fun d => (m.die d).spares) (m.bedPop b)
    let init := sumBy (fun d => (m.die d).initSpares) (m.bedPop b)
    Nat.min best (if init = 0 then 100 else left * 100 / init)) 100

/-- Percentage Used of a group (03 R155). -/
def Mach.groupUsed (m : Mach) (g : Nat) : Nat :=
  Nat.min 255 ((((m.groupBeds g).flatMap (fun b => m.bedPop b)).map (fun d =>
    (m.die d).peSum * 100 / ((m.die d).good * (m.bed (dieBed d)).prof.ratedPe))).foldl
    Nat.max 0)

/-- A diode or a sense input is failed (11 R512, R516). -/
def Mach.sensorFailed (m : Mach) : Bool :=
  m.heat.diodes.any (fun e => e.2.fail != 0) || m.heat.sense.any (fun e => e.2.failed)

/-- Critical warning of an endurance group (03 R155, 01 R57, R59, 11 R516). -/
def Mach.groupCrit (m : Mach) (g : Nat) : Nat :=
  let beds := (m.groupBeds g).filter (fun b => !(m.bedPop b).isEmpty)
  let bad := beds.any fun b => decide (2 ≤ m.bedState b) && decide (m.bedState b ≤ 4)
  let worn := (!beds.isEmpty && beds.all (fun b => (m.bed b).worn)) || m.med.fGroups.contains g
  b2n (decide (m.groupSpare g < 10)) + 4 * b2n (bad || m.sensorFailed) + 8 * b2n worn

/-- Diodes of the part (11 R514) and channel groups with a thermal model. -/
def Mach.nDiodes (m : Mach) : Nat := if m.hub.part then 3 else 5
def Mach.nGroups (m : Mach) : Nat := m.nChans / 4
def Mach.diode (m : Mach) (d : Nat) : Diode := Tbl.get Diode.init d m.heat.diodes

/-- The largest of some temperatures. -/
def hottest (l : List Int) : Int := match l with
  | [] => 0
  | x :: t => t.foldl (fun a b => if a < b then b else a) x

/-- A temperature of 1/16 °C in kelvin, for the standard's fields. -/
def kelvin (t : Int) : Nat := (t / 16 + 273).toNat

/-- Composite Temperature and Temperature Sensors 1 to 8, in kelvin; 0 is not implemented (11 R514, R517). -/
def Mach.composite (m : Mach) : Nat := kelvin (hottest ((List.range m.nDiodes).map (fun d => (m.diode d).temp)))
def Mach.tempSensor (m : Mach) (n : Nat) : Nat :=
  if 1 ≤ n ∧ n ≤ m.nDiodes then kelvin (m.diode (n - 1)).temp
  else if n = 6 then kelvin (hottest ((List.range m.nGroups).map (fun g => (m.senseAt g).temp)))
  else 0

/-- Key of a threshold of feature 0x04 among a plot's features: its value plus 1 is held. -/
def featKey04 (sel type : Nat) : Nat := 0x20000 + 2 * sel + type
/-- A temperature threshold: over (0) or under (1) (11 R517); the composite's is WCTEMP until it is set. -/
def Mach.threshold (m : Mach) (p sel type : Nat) : Nat :=
  match Tbl.get 0 (featKey04 sel type) (m.plot p).feats with
  | v + 1 => v
  | 0 => if type = 1 then 0 else if sel = 0 then m.heat.onset + 273 else 0xFFFF

/-- A temperature has crossed a threshold of a plot (11 R517). -/
def Mach.tempCrossed (m : Mach) (p : Nat) : Bool :=
  (List.range 7).any fun i =>
    let t := if i = 0 then m.composite else m.tempSensor i
    decide (t ≠ 0) && (decide (m.threshold p i 0 ≤ t) || decide (t ≤ m.threshold p i 1))

/-- Critical warning of the SMART log: the worst over all endurance groups (03 R155), and bit 1 (11 R517). -/
def Mach.smartCrit (m : Mach) (p : Nat) : Nat :=
  let any := fun (i : Nat) => b2n (m.groups.any (fun g => (m.groupCrit g).testBit i))
  any 0 + 2 * b2n (m.tempCrossed p) + 4 * any 2 + 8 * any 3

/-! ## Identify -/

/-- TNVMCAP: the zoned user capacity of every slot (03 R123). -/
def Mach.totalCap (m : Mach) : Nat :=
  4096 * m.totalBlocks

/-- Largest power of a state in 0.01 W (11 R495, R496). -/
def Mach.maxPower (m : Mach) (ps : Nat) : Nat :=
  let b := m.power.decl.bMax
  100 * m.power.decl.overhead +
    (match ps with | 0 => 5500 + 100 * b | 1 => 4700 + 60 * b | 2 => 3300 + 30 * b | 3 => 450 | _ => 120)

/-- A power state descriptor (11 R495, R496). -/
def Mach.powerDesc (m : Mach) (ps : Nat) : List Byte :=
  let lat := [(0, 0), (1000, 1000), (2000, 2000), (3000, 150), (10000, 8000)].getD ps (0, 0)
  le 2 (m.maxPower ps) ++ zeros 1 ++ le 1 (if 3 ≤ ps then 2 else 0) ++ le 4 lat.1 ++ le 4 lat.2 ++ le 1 ps ++ le 1 ps ++ le 1 ps ++
    le 1 ps ++ zeros 16

/-- VWC of Identify Controller (04 R196, R197). -/
def Mach.vwcByte (m : Mach) : List Byte :=
  if m.power.vwc then le 1 7 else [Config.standardByte 0x106 525 &&& 6]

/-- Namespaces that the controller supports (10 R466). -/
def Mach.nn (m : Mach) : Nat := if m.hitch.role = 1 then 8192 else 1024

/-- Bytes of Identify Controller that report the options of NVMe Base 2.1 that the controller has, or lacks (00_scope R12, R13), at the
standard's places (PRESUMED: notes/assumptions/24): VER 2.1, CTRATT with endurance groups alone, CNTRLTYPE an I/O controller, a Format NVM of one
namespace or all (FNA 0), Copy of source format 0, SGLs for I/O commands, 256 attachments (09 R416). Zero, unsupported: RRLS, BPCAP, NVM
subsystem shutdown and power loss signalling, FGUID, command retry delays, NVMe-MI, VPD writes, host memory buffer, RPMB, keep alive, host controlled thermal management,
sanitize, NVM sets, persistent event log, domains, TCG Key Per I/O, variable capacity, fused operations, write protection, flexible data
placement, fabrics. -/
def standardOptions (p : Nat) (two : Bool) : List (Nat × List Byte) :=
  [(76, le 1 (b2n two + 2 + (if p = 0 then 0 else 4))), (80, le 4 0x00020100), (96, le 4 0x10), (100, zeros 11), (111, le 1 1), (112, zeros 141),
   (254, zeros 2), (272, zeros 8), (312, zeros 4), (320, zeros 8), (328, zeros 10), (338, zeros 2), (352, zeros 8), (384, zeros 128), (522, zeros 2),
   (524, zeros 1), (531, zeros 3), (534, le 2 1), (536, le 4 1), (540, zeros 20), (560, le 4 256), (564, zeros 204), (1024, zeros 1024)]

/-- A firmware revision: bits 31:0 of a version as 8 uppercase hexadecimal ASCII characters (13 R564). -/
def revision (v : Nat) : List Byte :=
  (List.range 8).map fun i =>
    let d := v / 16 ^ (7 - i) % 16
    BitVec.ofNat 8 (if d < 10 then 0x30 + d else 0x37 + d)

/-- Identify Controller (04 R172, R173; 10 R466, R467; 11 R496, R504, R517; 13 R564, R579). -/
def Mach.idController (m : Mach) (p : Nat) : List Byte :=
  let mgr := m.hitch.role = 1
  overlay 4096 (Config.standardByte 0x106)
    (standardOptions p m.boot.straps.portMode ++
     [(64, revision m.img.version), (270, le 2 1), (319, le 1 1), (77, le 1 9), (78, le 2 p), (84, le 4 15000000), (88, le 4 500000), (92, le 4 (0x08000100 + (if mgr then 0x800 else 0))),
      (256, le 2 0x1E), (258, le 1 15), (259, le 1 3), (260, le 1 0x14), (261, le 1 0x04), (263, le 1 4), (265, le 1 1),
      (266, le 2 (m.heat.onset + 273)), (268, le 2 403), (280, le 16 m.totalCap), (340, le 2 1025),
      (343, le 1 (if mgr then 0x07 else 0)), (344, le 4 (if mgr then 8 else 0)), (348, le 4 (if mgr then 8 else 0)),
      (512, le 1 0x66), (513, le 1 0x44), (516, le 4 m.nn), (520, le 2 0x019C), (525, m.vwcByte)] ++
     [(2048, (List.range 5).flatMap m.powerDesc ++ zeros 864), (3072, m.identity ++ zeros 1008)])

/-- The creation block of a namespace, 64 bytes (03 R126). -/
def Ns.creation (n : Ns) : List Byte :=
  le 1 (b2n n.headland) ++ le 1 (if n.headland then 0 else n.width) ++ le 2 n.bedSet ++ zeros 4 ++ le 16 n.mask.toNat ++ zeros 40

/-- Identify Namespace (03 R123, R126): thin provisioning, sharing, reservations, format progress, key per I/O and write protection are
unsupported (00_scope R12, R13); DLFEAT reports zeros, unless feature 0xC5 makes a read of an unwritten block fail (03 R150). -/
def Mach.idNs (m : Mach) (nsid : Nat) : List Byte :=
  let n := m.ns nsid
  if nsid ≠ 0xFFFFFFFF ∧ n.exists_ = false then zeros 4096
  else
    overlay 4096 (Config.standardByte 0x100)
      [(0, le 8 n.nsze), (8, le 8 n.nsze), (24, zeros 8), (32, zeros 1), (33, le 1 (if n.unwritten = 1 then 0 else 1)), (46, zeros 2), (74, le 2 512), (76, le 4 512), (80, le 1 127), (81, zeros 2), (99, zeros 3),
       (92, le 4 (if m.hitch.role = 1 then 1 else 0)), (102, le 2 n.group), (104, le 16 n.nguid), (120, zeros 8),
       (128, zeros 2 ++ le 1 12), (384, zeros 3456), (3840, n.creation), (3904, zeros 192)]

/-- A count as the standards give it, less one; what a count of 0 reads as is free (log 24). -/
def zeroBased (off n : Nat) : List Byte := if n = 0 then (List.range 4).map (fun i => Config.standardByte 0x105 (off + i)) else le 4 (n - 1)

/-- The zoned part of Identify Namespace as a plot sees it (03 R130, R137). -/
def Mach.idZoned (m : Mach) (nsid p : Nat) : List Byte :=
  let n := m.ns nsid
  let q := (m.plot p).quota
  overlay 4096 (fun _ => 0)
    [(0, le 2 1), (2, le 2 1), (4, zeroBased 4 q.active), (8, zeroBased 8 q.open_), (2816, le 8 n.zsze), (2824, le 1 1)]

/-- A list of identifiers of 4 bytes, 1,024 at most. -/
def idList (l : List Nat) : List Byte := padTo 4096 ((l.take 1024).flatMap (le 4))

/-- Namespaces attached to a plot, those of members of its ring included (10 R466). -/
def Mach.activeNs (m : Mach) (p : Nat) : List Nat :=
  (m.attachedTo p) ++ (m.hitch.memberNs.filter (fun e => e.2 == p)).map (fun e => e.1)

/-- Namespace identification descriptors: NGUID and command set identifier. -/
def Mach.nsDescs (m : Mach) (nsid : Nat) : List Byte :=
  let n := m.ns nsid
  padTo 4096 (le 1 2 ++ le 1 16 ++ zeros 2 ++ le 16 n.nguid ++ le 1 4 ++ le 1 1 ++ zeros 2 ++ le 1 (if n.headland then 0 else 2))

/-- Identify data of a CNS, or the status of one that is not supported. -/
def Mach.identifyData (m : Mach) (c : Cmd) : Sum Status (List Byte) :=
  let e := c.sqe
  let cns := Word.bits e.cdw10 7 0
  let csi := Word.bits e.cdw11 31 24
  let nsid := e.nsid.toNat
  let n := m.ns nsid
  let active := n.exists_ && n.attached.contains c.plot
  let nsOk := decide (nsid ≠ 0) && decide (nsid ≤ m.nn)
  let after := fun (l : List Nat) => l.filter (fun k => decide (nsid < k))
  match cns with
  | 0x00 => if !(nsOk || decide (nsid = 0xFFFFFFFF)) then .inl St.invalidNs
    else .inr (if active || decide (nsid = 0xFFFFFFFF) then m.idNs nsid else zeros 4096)
  | 0x01 => .inr (m.idController c.plot)
  | 0x02 => .inr (idList (after (m.activeNs c.plot)))
  | 0x03 => if nsOk && active then .inr (m.nsDescs nsid) else .inl St.invalidNs
  | 0x05 => if !nsOk then .inl St.invalidNs
    else if csi = 2 ∧ n.headland = false then .inr (if active then m.idZoned nsid c.plot else zeros 4096)
    else if csi = 0 then .inr (zeros 4096) else .inl St.invalidField
  | 0x06 => if csi = 2 then .inr (zeros 4096)
    else if csi = 0 then .inr (overlay 4096 (fun _ => 0) [(0, le 1 9), (1, le 1 9)]) else .inl St.invalidField
  | 0x07 => .inr (idList (after ((m.activeNs c.plot).filter (fun k => decide (csi = 2) == !(m.ns k).headland))))
  | 0x10 => if c.plot ≠ 0 then .inl St.invalidField else .inr (idList (after m.nsList))
  | 0x11 => if c.plot ≠ 0 then .inl St.invalidField else if nsOk then .inr (m.idNs nsid) else .inl St.invalidNs
  | 0x12 | 0x13 =>
    let first := Word.bits e.cdw10 31 16
    let l := (if cns = 0x12 then n.attached else (List.range 1024).filter (fun p => (m.plot p).st != .absent)).filter (fun p => decide (first ≤ p))
    if c.plot ≠ 0 then .inl St.invalidField else .inr (padTo 4096 (le 2 (Nat.min 2047 l.length) ++ (l.take 2047).flatMap (le 2)))
  | 0x1C => .inr (padTo 4096 (le 8 5))
  | _ => .inl St.invalidField

/-! ## Log pages of the standards -/

/-- An Error Information entry (06 R309). -/
def errEntry (i : Nat) (e : Nat × Nat) : List Byte :=
  overlay 64 (Config.standardByte (0x1000 + i)) [(0, le 8 (i + 1)), (16, le 8 e.2), (24, le 4 e.1)]

/-- SMART / Health Information (03 R155, 06 R309, 11 R517). -/
def Mach.smartLog (m : Mach) (p : Nat) : List Byte :=
  let spare := (m.groups.map m.groupSpare).foldl Nat.min 100
  overlay 512 (Config.standardByte 0x02)
    [(0, le 1 (m.smartCrit p)), (1, le 2 m.composite), (3, le 1 spare), (4, le 1 10), (5, le 1 ((m.groups.map m.groupUsed).foldl Nat.max 0)),
     (6, le 1 (m.smartCrit p)), (112, le 16 m.lifeCyc), (128, le 16 (m.lifeSec / 3600)), (160, le 16 m.med.mediaErrs),
     (176, le 16 m.med.errLog.length), (200, (List.range 8).flatMap (fun i => le 2 (m.tempSensor (i + 1)))), (232, zeros 280)]

/-- Firmware Slot Information: the two slots of 13 as slots 1 and 2 (13 R564, R572, R579). -/
def Mach.fwLog (m : Mach) : List Byte :=
  let ver := fun (i : Nat) => match (Tbl.get Slot.init i m.img.slots).hdr with | some h => revision h.version | none => zeros 8
  let next := match m.img.nextSlot with | some n => if n = m.img.running then 0 else n + 1 | none => 0
  padTo 512 (le 1 (m.img.running + 1 + 16 * next) ++ zeros 7 ++ ver 0 ++ ver 1)

/-- Endurance Group Information (03 R155). -/
def Mach.groupLog (m : Mach) (g : Nat) : List Byte :=
  overlay 512 (Config.standardByte 0x09) [(0, le 1 (m.groupCrit g)), (3, le 1 (m.groupSpare g)), (4, le 1 10), (5, le 1 (m.groupUsed g))]

/-- ANA state of the group of a position (10 R467): 1 optimized, 2 non-optimized, 3 inaccessible. -/
def Mach.anaState (m : Mach) (n : Nat) : Nat := if n = 0 then 1 else if (m.member n).st = 1 then 2 else 3

/-- Asymmetric Namespace Access, of a manager (10 R467). -/
def Mach.anaLog (m : Mach) : List Byte :=
  let nss := fun (n : Nat) => if n = 0 then m.nsList else dedup ((m.hitch.memberNs.filter (fun e => memberOf e.1 == n)).map (fun e => e.1))
  (List.range 8).map (Config.standardByte 0x0C) ++ le 2 8 ++ zeros 6 ++ (List.range 8).flatMap fun n =>
    le 4 (n + 1) ++ le 4 (nss n).length ++ (List.range 8).map (fun i => Config.standardByte 0x0C (16 + 8 * n + i)) ++ le 1 (m.anaState n) ++
      zeros 15 ++ (nss n).flatMap (le 4)

/-- Changed Zone List of a namespace for a plot (03 R134). -/
def Mach.changedZones (m : Mach) (p nsid : Nat) : List Byte :=
  let l := ((Tbl.get [] p m.front.changed).filter (fun e => e.1 == nsid)).map (fun e => e.2)
  padTo 4096 (le 2 (if m.front.changedOvf.contains p then 0xFFFF else l.length) ++ zeros 6 ++ l.flatMap (le 8))

/-- Changed Namespace List of a plot (03 R129): more than 1,024 read as one entry of all ones. -/
def Mach.changedNsLog (m : Mach) (p : Nat) : List Byte :=
  let l := Tbl.get [] p m.front.changedNs
  if 1024 < l.length then padTo 4096 (le 4 0xFFFFFFFF) else idList l

/-- Standard log pages that the controller supports. -/
def stdLogs : List Nat := [0x00, 0x01, 0x02, 0x03, 0x04, 0x06, 0x09, 0x0C, 0xBF]
def vendorLogs : List Nat := [0xC0, 0xC1, 0xC2, 0xC3, 0xC4]

/-- Supported Log Pages. -/
def supportedLogs : List Byte := (List.range 256).flatMap fun i => le 4 (b2n (stdLogs.contains i || vendorLogs.contains i))

/-- A standard log page for a command, or the status of one that is not supported. -/
def Mach.stdLog (m : Mach) (c : Cmd) : Sum Status (List Byte) :=
  let g := c.sqe.lsi
  match c.sqe.lid with
  | 0x00 => .inr supportedLogs
  | 0x01 => .inr (((m.med.errLog.mapIdx fun i e => errEntry i e).reverse).flatMap id)
  | 0x02 => .inr (m.smartLog c.plot)
  | 0x03 => .inr m.fwLog
  | 0x04 => .inr (m.changedNsLog c.plot)
  | 0x06 => .inr (overlay 564 (Config.standardByte 0x06) [(0, le 1 (if m.hub.selfTest = 0 then 0 else 1))])
  | 0x09 => if m.groups.contains g then .inr (m.groupLog g) else .inl St.invalidField
  | 0x0C => if m.hitch.role = 1 then .inr m.anaLog else .inl St.invalidLog
  | 0xBF => .inr (m.changedZones c.plot c.sqe.nsid.toNat)
  | _ => .inl St.invalidLog

/-! ## Vendor log pages -/

/-- A header of the Yield Book log: bytes 0 to 19 (04 R217, 14 R613). -/
def Mach.ybkHeader (m : Mach) : List Byte :=
  le 4 1060864 ++ le 2 m.ybk.slots.length ++ zeros 2 ++ le 8 m.lifeSec ++ le 4 m.lifeCyc

/-- The record of a slot, zeros where it has no code (14 R613). -/
def Mach.slotRecord (m : Mach) (i : Nat) : List Byte :=
  match m.ybk.slots[i]? with
  | some code => (m.mainRec code).bytes code false true
  | none => zeros 256
/-- Code of a slot. -/
def Mach.slotCode (m : Mach) (i : Nat) : Nat := m.ybk.slots.getD i 0

/-- Log page 0xC0 (04 R217), `len` bytes from `off`: only the slots that the window meets are laid out. -/
def Mach.ybkWindow (m : Mach) (off len : Nat) : List Byte :=
  let head := m.ybkHeader ++ zeros 4076 ++ (List.range 4096).flatMap (fun i => le 2 (m.slotCode i))
  if off + len ≤ 12288 then window head off len
  else
    let first := (off - 12288) / 256
    let n := (off + len - 12288) / 256 + 1 - first
    let recs := (List.range n).flatMap fun i => if first + i < 4096 then m.slotRecord (first + i) else zeros 256
    if off < 12288 then window (head ++ recs) off len
    else window recs (off - 12288 - 256 * first) len

/-- Log page 0xC1 of a plot, or of the totals (04 R218, R219). -/
def Mach.tallyLog (m : Mach) (sel : Nat) : List Byte :=
  let ring := if sel = 0xFFFF then m.plots.totals else (m.plot sel).ring
  let newest := match ring.getLast? with | some e => e.minute | none => 0
  padTo 92224 (le 2 sel ++ le 2 ring.length ++ zeros 4 ++ le 8 newest ++ zeros 48 ++ ring.flatMap tallyBytes)

/-- Media energy of a full pass of 1,000 µs at the present media power limit, in nJ (11 R495, R506). -/
def Mach.fullPass (m : Mach) : Nat :=
  let share := match m.power.ps with | 0 => 10 | 1 => 6 | 2 => 3 | _ => 0
  m.heat.budgetW * 1000000 * share * (128 - 7 * m.heat.step) / 1280

/-- The covered rate in Tight reads per second (02 R108). -/
def Mach.coveredRate (c : Cfg) (m : Mach) : Nat := m.fullPass * c.rdRes / 100 / 40

/-- A bed entry of log page 0xC2 (02 R116). -/
def Mach.gridBed (c : Cfg) (m : Mach) (b : Nat) : List Byte :=
  let x := m.bed b
  le 2 b ++ le 1 (Tbl.get 1 b c.bedP) ++ le 1 x.held.length ++ le 1 x.wd.toNat ++ le 1 (b2n (x.pForce == 1) + 2 * b2n x.bound) ++ zeros 2 ++
    le 8 (sat 64 x.tightReads) ++ le 8 (sat 64 x.tightOver) ++ le 8 (sat 64 x.arounds) ++ le 8 (sat 64 x.programs) ++ le 8 (sat 64 x.slices) ++
    le 4 (sat 32 x.longest) ++ le 4 (sat 32 x.withdrawals) ++ zeros 8 ++ (List.range 16).flatMap (fun i => le 4 (sat 32 (x.histo.getD i 0)))

/-- Log page 0xC2 (02 R115). -/
def Mach.gridLog (c : Cfg) (m : Mach) : List Byte :=
  let g := m.grid
  le 8 m.gridNs ++ le 8 g.pass ++ le 8 g.minute ++ le 1 g.st.code ++
    le 1 (b2n g.epoch + 2 * m.ptmPort c + 4 * b2n (Tbl.get false (m.ptmPort c) g.ptmEn)) ++ zeros 2 ++ le 4 (toTwos 32 (sat32 g.offset)) ++
    le 4 (toTwos 32 (sat32 g.trim)) ++ le 4 (sat 32 g.losses) ++ le 4 (sat 32 g.breaks) ++ le 4 (sat 32 g.unlockedMin) ++
    le 8 (sat 64 g.okDlg) ++ le 8 (sat 64 g.badDlg) ++ le 8 (sat 64 g.notLocked) ++ le 4 g.budget ++ le 2 g.k ++ le 1 c.rdRes ++ zeros 1 ++
    le 4 (g.lastCharge / 1000) ++ le 4 (g.lastMeasured / 1000) ++ le 4 (m.coveredRate c) ++ zeros 4 ++ le 8 (sat 64 g.waitEnergy) ++
    le 8 (sat 64 g.waitStarts) ++ le 8 (sat 64 g.waitTokens) ++ le 8 (sat 64 g.fromReserve) ++ le 2 m.nBeds ++ zeros 382 ++
    (List.range m.nBeds).flatMap (fun b => m.gridBed c b)

/-- A bed entry of log page 0xC3 (03 R168). -/
def Mach.healthBed (m : Mach) (b : Nat) : List Byte :=
  let x := m.bed b
  let pop := m.bedPop b
  let bits := fun (p : Nat → Bool) => sumBy (fun ch => b2n (p (bedDie b ch)) * 2 ^ ch) (List.range 16)
  let least := match pop.map (fun d => (m.die d).spares) with | [] => 0 | y :: t => t.foldl Nat.min y
  let n := sumBy (fun d => (m.die d).good) pop
  le 2 b ++ le 1 (m.bedState b) ++ le 1 (b2n (x.wd.getLsbD 1) + 2 * b2n (x.owner != 0)) ++
    le 2 (bits fun d => (m.die d).populated && (m.die d).failed) ++ le 2 (bits fun d => (m.die d).populated) ++ le 2 (x.owner + 1) ++
    le 2 (if x.owner = 0 then 0xFFFF else x.owner - 1) ++ le 2 least ++ zeros 2 ++ le 4 (sumBy (fun d => (m.die d).spares) pop) ++
    le 4 (sumBy (fun d => (m.die d).initSpares) pop) ++ le 4 x.prof.slots ++ le 4 (x.bound0 + x.bound1) ++ le 4 (m.halfLeft b) ++
    le 4 ((x.ret0 + x.ret1) / 2) ++
    le 4 ((m.med.zones.filter (fun e => e.2.bound && e.2.bed == b && decide (e.2.dropped ≠ 0) && !(m.ns (e.1 / 2 ^ 20)).headland)).length) ++
    le 4 ((pop.map (fun d => (m.die d).peMax)).foldl Nat.max 0) ++ le 4 (if n = 0 then 0 else sumBy (fun d => (m.die d).peSum) pop / n) ++
    le 4 (sumBy (fun d => (m.die d).retired) pop) ++ zeros 8

/-- The rated P/E count of the die profile: that of the lowest populated bed, where profiles differ (DESIGN CHOICE: notes/assumptions/129). -/
def Mach.ratedPe (m : Mach) : Nat :=
  match (List.range m.nBeds).find? (fun b => !(m.bedPop b).isEmpty) with
  | some b => (m.bed b).prof.ratedPe
  | none => Profile.ref.ratedPe

/-- Log page 0xC3 (03 R167). -/
def Mach.healthLog (m : Mach) : List Byte :=
  let count := fun (s : Nat) => ((List.range m.nBeds).filter (fun b => m.bedState b == s)).length
  le 2 m.nBeds ++ le 2 16 ++ le 4 m.ratedPe ++ le 4 (count 3) ++ le 4 (count 2) ++ zeros 48 ++ (List.range m.nBeds).flatMap m.healthBed

/-- Members of the ring, the manager not counted: positions taken. -/
def Mach.ringMembers (m : Mach) : List Nat := [1, 2, 3, 4, 5, 6, 7].filter fun n => (m.member n).st != 0
/-- Hops on the path in use to a member (10 R473): the members taken up to it, or from it on. -/
def Mach.hops (m : Mach) (n : Nat) : Nat :=
  (m.ringMembers.filter fun k => if (m.member n).path then decide (n ≤ k) else decide (k ≤ n)).length

/-- An entry of log page 0xC4 (04 R221; 10 R467). -/
def Mach.memberEntry (m : Mach) (n : Nat) : List Byte :=
  let x := m.member n
  if n = 0 then le 1 1 ++ zeros 3 ++ le 4 1 ++ le 4 1 ++ zeros 4 ++ le 8 m.img.version ++ zeros 40
  else if x.st = 0 then zeros 64
  else
    let p := m.pathPort n
    let near := decide (m.hops n = 1)
    le 1 x.st ++ le 1 (b2n x.path) ++ le 1 (m.hops n) ++ le 1 (if near then (m.hport p).miss else 0) ++ le 4 (n + 1) ++ le 4 1 ++ zeros 4 ++
      le 8 x.running ++ le 8 x.total ++ le 8 x.errs ++ zeros 24

/-- Log page 0xC4 (04 R220). -/
def Mach.hitchLog (m : Mach) : List Byte :=
  let h := m.hitch
  if h.role = 0 then zeros 576
  else
    let mgr := decide (h.role = 1)
    le 1 h.role ++ le 1 (if mgr then m.ringMembers.length + 1 else 0) ++ le 1 h.ring ++ zeros 1 ++ le 4 (sat 32 h.breaks) ++ le 8 h.forwarded ++
      le 8 h.pathErrs ++ zeros 40 ++ (if mgr then (List.range 8).flatMap m.memberEntry else zeros 512)

end Sys2Proof.Machine
end

