-- ==== Sys2Proof/Machine/Features.lean ====
section
/-! DEFINITION. Get Features and Set Features (04 R199, R222 to R224; 02 R113, R114; 03 R149, R150; 11 R497, R498, R504, R507; 07 R373).
Standard features have their standard dwords (PRESUMED: notes/assumptions/24). -/

namespace Sys2Proof.Machine

/-! ## Which features there are -/

/-- Standard features held as one value of a plot, with no further effect in the controller. -/
def plainFeats : List Nat := [0x01, 0x05, 0x08, 0x0A, 0x0B]
def vendorFeats : List Nat := [0xC0, 0xC1, 0xC2, 0xC3, 0xC4, 0xC5]

/-- The controller supports the feature; 0x06 only with a volatile write cache (R199). -/
def Mach.featOk (m : Mach) (fid : Nat) : Bool :=
  plainFeats.contains fid || vendorFeats.contains fid || [0x02, 0x04, 0x07, 0x09, 0x0C].contains fid || (fid == 0x06 && m.power.vwc)

/-- Capabilities: saveable, per namespace, changeable (04 "Vendor features"). -/
def featCaps (fid : Nat) : Nat := b2n (vendorFeats.contains fid) + 2 * b2n (fid == 0xC1 || fid == 0xC5) + 4

def featNotSaveable : Status := Status.mk2 1 0x0D
def commandSequence : Status := Status.mk2 0 0x0C

/-! ## Vendor structures -/

/-- Feature 0xC0 from the values of FUR_CFG and the P table (02 R113, R114). -/
def Mach.gridFeat (m : Mach) (ptmInt rdRes : Nat) (port use : Bool) (p : Nat → Nat) : List Byte :=
  le 1 ptmInt ++ le 1 rdRes ++ le 1 (b2n port) ++ le 1 (b2n use + 2) ++ zeros 124 ++
    (List.range 128).flatMap fun b => le 1 (if b < m.nBeds ∧ (m.bedPop b).isEmpty = false then p b else 0)

/-- Feature 0xC0 as the select field asks. -/
def Mach.getGrid (c : Cfg) (m : Mach) (sel : Nat) : List Byte :=
  let dflt := m.gridFeat 8 10 false true (fun _ => 1)
  if sel = 0 then m.gridFeat c.ptmInt c.rdRes c.ptmPort c.ptmUse (fun b => Tbl.get 1 b c.bedP)
  else if sel = 1 then dflt
  else match m.boot.savedC0 with
    | some l => m.gridFeat (l.getD 0 8) (l.getD 1 10) (l.getD 2 0 == 1) (l.getD 3 1 == 1) (fun b => l.getD (4 + b) 1)
    | none => dflt

/-- DW0 of Number of Queues: counts less one; what a quota of no queue pairs reads as is free (log 24). -/
def Mach.queuesGiven (m : Mach) (p : Nat) : Nat :=
  let n := (m.plot p).quota.qpairs
  if n = 0 then leAt ((List.range 4).map (Config.standardByte 0x107)) 0 4 else (n - 1) * 65537

/-- Feature 0xC3 (04 R223). -/
def Mach.ladderFeat (m : Mach) (l : List Nat) : List Byte :=
  le 2 (l.getD 0 0) ++ le 1 (l.getD 1 0) ++ le 1 (l.getD 2 0) ++ le 1 (l.getD 3 0) ++ le 1 (l.getD 4 0) ++ le 1 m.heat.step ++
    le 1 (b2n m.heat.held + 2 * b2n m.heat.tripEst) ++ zeros 24

/-- Values of feature 0xC3: in force, default (11 R507). -/
def Mach.ladderNow (m : Mach) : List Nat := [m.heat.budgetW, m.heat.onset, m.heat.width, m.heat.modelOnset, m.heat.hyst]
def Mach.ladderDflt (m : Mach) : List Nat := [m.power.decl.bMax, 105, 2, 70, 3]

/-- Feature 0xC4 of a code, or of every code without its own value (04 R224). -/
def Mach.ybkRate (m : Mach) (sel code : Nat) : Nat :=
  let own := fun (dflt : Nat) (t : Tbl Nat) => if code = 0xFFFF ∨ Tbl.get 0 code t = 0 then dflt else Tbl.get 0 code t
  if sel = 0 then own m.ybk.deflt m.ybk.ivals
  else if sel = 1 then 10
  else own (if m.ybk.savedDeflt = 0 then 10 else m.ybk.savedDeflt) m.ybk.savedIvals

/-! ## Get Features -/

/-- DW0 and data of a supported feature for select 0 to 2, or a status. -/
def Mach.getFeature (cfg : Cfg) (m : Mach) (c : Cmd) : Sum Status (Nat × List Byte) :=
  let e := c.sqe
  let sel := e.sel
  let p := c.plot
  let x := m.plot p
  let now := decide (sel = 0)
  let code := Word.bits e.cdw11 15 0
  match e.fid with
  | 0x02 => .inr (if now then m.power.want.getD m.power.ps else 0, [])
  | 0x04 =>
    let s := Word.bits e.cdw11 19 16
    let t := Word.bits e.cdw11 21 20
    if 6 < s ∨ 1 < t then .inl St.invalidField
    else .inr (if now then m.threshold p s t else if t = 1 then 0 else if s = 0 then m.heat.onset + 273 else 0xFFFF, [])
  | 0x06 => .inr (1, [])
  | 0x07 => .inr (m.queuesGiven p, [])
  | 0x09 => if 512 < code then .inl St.invalidField
    else .inr (code + 65536 * (if now then Tbl.get 0 (featKey09 code) x.feats else 0), [])
  | 0x0C =>
    let l := if now then m.power.apstIdle else []
    .inr (b2n (now && m.power.apst), padTo 256 (l.flatMap fun t => le 8 (8 * t.1 + 256 * t.2)))
  | 0xC0 => .inr (0, m.getGrid cfg sel)
  | 0xC1 => match m.nsStatus c with
    | some s => .inl s
    | none =>
      let n := m.ns e.nsid.toNat
      .inr (0, (if sel = 0 then n.dflt else if sel = 1 then Ext.init else n.dfltSaved).bytes)
  | 0xC2 =>
    let t := if p = 0 then code else p
    if 1024 ≤ t then .inl St.invalidField
    else .inr (0, quotaBytes (if sel = 0 then (m.plot t).quota
                              else if sel = 1 then (if t = 0 then Quota.init0 else Quota.init) else (m.plot t).quotaSaved))
  | 0xC3 => .inr (0, m.ladderFeat (if sel = 0 then m.ladderNow else if sel = 1 ∨ m.heat.savedC3.isEmpty = true then m.ladderDflt
                                   else m.heat.savedC3))
  | 0xC4 => if code ≠ 0xFFFF ∧ m.ybk.slots.contains code = false then .inl St.invalidField else .inr (m.ybkRate sel code, [])
  | 0xC5 => match m.nsStatus c with
    | some s => .inl s
    | none =>
      let n := m.ns e.nsid.toNat
      .inr (if sel = 0 then n.unwritten else if sel = 1 then 0 else n.unwrittenSaved, [])
  | f => .inr (if now then Tbl.get 0 f x.feats else 0, [])

/-- The feature's value is a namespace of a member of the ring (10 R466). -/
def Mach.featRemote (m : Mach) (c : Cmd) : Bool := (c.sqe.fid == 0xC1 || c.sqe.fid == 0xC5) && m.remote c.sqe.nsid.toNat

/-- GET_FEATURES (02 R114; 04 R199, R222 to R224; 11 R497): an unsupported feature or select fails with Invalid Field. -/
def execGetFeatures (stamp : Nat) (s : State) : Host.Outcome State Fault Refusal :=
  .next (s.on fun cfg m => m.admin stamp 0x0A fun c m =>
    if !m.featOk c.sqe.fid || decide (3 < c.sqe.sel) then m.failWith stamp St.invalidField
    else if c.sqe.sel = 3 then m.finish stamp Status.ok (BitVec.ofNat 32 (featCaps c.sqe.fid))
    else if m.featRemote c then m.toMember c
    else match m.getFeature cfg c with
      | .inl st => m.failWith stamp st
      | .inr r => (m.updCmd stamp fun k => { k with outData := r.2 }).finish stamp Status.ok (BitVec.ofNat 32 r.1))

/-! ## Set Features -/

/-- Features with a row of their own. -/
def ownRow : List Nat := [0x02, 0x06, 0x0C, 0xC0, 0xC1, 0xC2, 0xC3, 0xC4, 0xC5]

/-- Set Features of one feature: the front-end task of the command that names it. -/
def Mach.setFeat (stamp fid : Nat) (f : Cmd → Mach → Mach) (m : Mach) : Mach :=
  m.adminIf stamp 0x09 (fun c => c.sqe.fid == fid) f

/-- A feature that plot 0 alone may set (02 R113; 04 R222 to R224; 11 R497), and one that cannot be saved. -/
def Mach.only0 (c : Cmd) (f : Mach → Mach) (m : Mach) : Mach := if c.plot = 0 then f m else m.failWith c.stamp St.invalidField
def Mach.unsaved (c : Cmd) (f : Mach → Mach) (m : Mach) : Mach := if c.sqe.save then m.failWith c.stamp featNotSaveable else f m

/-- The bits of CDW11 that NVMe Base and the NVM and ZNS command sets define in a feature that is held as one value (PRESUMED:
notes/assumptions/23): a reserved bit reads 0 (00_scope R8). -/
def featMask (fid : Nat) : Word :=
  match fid with
  | 0x01 => 0xFFFFFF07
  | 0x05 => 0x0001FFFF
  | 0x08 => 0x0000FFFF
  | 0x0A => 0x00000001
  | 0x0B => 0x0800FF3F
  | _ => 0

/-- Standard features with no row of their own. -/
def Mach.setStd (c : Cmd) (m : Mach) : Mach :=
  let v := c.sqe.cdw11
  let set := fun (k n : Nat) (m : Mach) => m.updPlot c.plot fun x => { x with feats := Tbl.put 0 k n x.feats }
  match c.sqe.fid with
  | 0x04 =>
    let sel := Word.bits v 19 16
    let t := Word.bits v 21 20
    if (6 < sel ∧ sel ≠ 15) ∨ 1 < t then m.failWith c.stamp St.invalidField
    else
      let which := if sel = 15 then List.range 7 else [sel]
      (which.foldl (fun m i => set (featKey04 i t) (Word.bits v 15 0 + 1) m) m).succeed c.stamp
  | 0x07 =>
    if Word.bits v 15 0 = 0xFFFF ∨ Word.bits v 31 16 = 0xFFFF then m.failWith c.stamp St.invalidField
    else if m.qpairs c.plot ≠ 0 then m.failWith c.stamp commandSequence
    else m.finish c.stamp Status.ok (BitVec.ofNat 32 (m.queuesGiven c.plot))
  | 0x09 =>
    if 512 < Word.bits v 15 0 then m.failWith c.stamp St.invalidField
    else (set (featKey09 (Word.bits v 15 0)) (Word.bits v 16 16) m).succeed c.stamp
  | f => if plainFeats.contains f then (set f (v &&& featMask f).toNat m).succeed c.stamp else m.failWith c.stamp St.invalidField

/-- SET_FEATURES (00_scope R13): the standard features without a row of their own, and those that are not supported. -/
def execSetFeatures (stamp : Nat) (s : State) : Host.Outcome State Fault Refusal :=
  .next (s.on fun _ m => m.adminIf stamp 0x09 (fun c => !ownRow.contains c.sqe.fid) fun c m =>
    if !m.featOk c.sqe.fid then m.failWith stamp St.invalidField else m.unsaved c (fun m => m.setStd c))

/-- Power state of a Set Features 0x02, and its workload hint. -/
def powerStateOf (e : Sqe) : Nat := Word.bits e.cdw11 4 0

/-- The controller enters non-operational states: a worker and a manager with a worker up do not (11 R504). -/
def Mach.mayIdle (m : Mach) : Bool :=
  m.hitch.role != 2 && !(m.hitch.role == 1 && m.hitch.members.any (fun e => e.2.st == 1))

/-- SET_FEATURES_POWER_MGMT (11 R497 to R499): an operational state completes at once and is in force from the next pass boundary; a
non-operational one is being entered, and the command completes when it has been or the entry is refused (R501). -/
def execSetFeaturesPowerMgmt (stamp : Nat) (s : State) : Host.Outcome State Fault Refusal :=
  .next (s.on fun _ m => m.setFeat stamp 0x02 fun c m => m.only0 c (fun m => m.unsaved c (fun m =>
    let ps := powerStateOf c.sqe
    if 4 < ps ∨ Word.bits c.sqe.cdw11 7 5 ≠ 0 then m.failWith stamp St.invalidField
    else if ps < 3 then (m.onPower fun p => { p with want := some ps }).succeed stamp
    else if !m.mayIdle then m.succeed stamp
    else (m.onPower fun p => { p with entering := some ps, entryCmd := stamp, closing := false }).setStage stamp .media)))

/-- Entries of feature 0x0C: target state and idle time in ms. -/
def apstEntries (bs : List Byte) : List (Nat × Nat) :=
  (List.range 32).map fun i => (leAt bs (8 * i) 1 / 8, leAt bs (8 * i + 1) 3)

/-- SET_FEATURES_APST (11 R497, R504): the transitions go to PS3 and PS4. -/
def execSetFeaturesApst (stamp : Nat) (s : State) : Host.Outcome State Fault Refusal :=
  .next (s.on fun _ m => m.setFeat stamp 0x0C fun c m => m.only0 c (fun m => m.unsaved c (fun m =>
    let l := (apstEntries c.sqe.data).take 5
    if l.any (fun t => decide (t.2 ≠ 0) && !(t.1 == 3 || t.1 == 4)) then m.failWith stamp St.invalidField
    else (m.onPower fun p => { p with apst := c.sqe.cdw11.getLsbD 0, apstIdle := l }).succeed stamp)))

/-- SET_FEATURES_VWC (04 R199). -/
def execSetFeaturesVwc (stamp : Nat) (s : State) : Host.Outcome State Fault Refusal :=
  .next (s.on fun _ m => m.setFeat stamp 0x06 fun c m =>
    if m.power.vwc && c.sqe.cdw11.getLsbD 0 then m.unsaved c (fun m => m.succeed stamp) else m.failWith stamp St.invalidField)

/-- A structure of feature 0xC0 is within its ranges (02 R113, R114). -/
def Mach.gridFeatOk (m : Mach) (bs : List Byte) : Bool :=
  let port := leAt bs 2 1
  furCfgOk (leAt bs 0 1) (leAt bs 1 1) && (port == 0 || (port == 1 && m.boot.straps.portMode)) &&
    (!(leAt bs 3 1).testBit 1 || (List.range m.nBeds).all (fun b => decide (leAt bs (128 + b) 1 ≤ 16)))

/-- Apply a structure of feature 0xC0: it is equivalent to writing FUR_CFG and the P fields (02 R114). -/
def State.applyGrid (bs : List Byte) (s : State) : State :=
  let s := s.setFurCfg (leAt bs 0 1) (leAt bs 1 1) (leAt bs 2 1 == 1) ((leAt bs 3 1).testBit 0)
  if (leAt bs 3 1).testBit 1 then
    (List.range s.m.nBeds).foldl (fun s b => s.setBedP b (leAt bs (128 + b) 1)) s
  else s

/-- The saved form of feature 0xC0. -/
def Cfg.grid (c : Cfg) : List Nat := [c.ptmInt, c.rdRes, b2n c.ptmPort, b2n c.ptmUse] ++ (List.range 128).map (fun b => Tbl.get 1 b c.bedP)

/-- A Set Features of 0xC0 that its front-end task finds in order: issued by plot 0, its structure within range. -/
def Mach.gridSet (m : Mach) (stamp : Nat) : Option Cmd :=
  match m.adminCmd stamp with
  | some c =>
    if c.sqe.opc = 0x09 ∧ c.sqe.fid = 0xC0 ∧ m.adminTurn c = true ∧ c.plot = 0 ∧ (c.sqe.buf = .prp ∨ c.sqe.buf = .sgl) ∧ m.gridFeatOk c.sqe.data = true then some c
    else none
  | none => none

/-- SET_FEATURES_FURROW_GRID (02 R113): the structure is applied whole, or not at all. What is saved for a bed whose P the structure does not set, its byte 0 or
its table not valid, is the P in force (DESIGN CHOICE: notes/assumptions/141). -/
def execSetFeaturesFurrowGrid (stamp : Nat) (s : State) : Host.Outcome State Fault Refusal :=
  match s.m.gridSet stamp with
  | some c =>
    let s := ({ s with m := s.m.dropTasks stamp } : State).applyGrid c.sqe.data
    let m := if c.sqe.save then (s.m.onBoot fun b => { b with savedC0 := some s.cfg.grid }).copyAll c.sqe else s.m
    .next { s with m := (m.succeed stamp).actsOnce stamp }
  | none => .next (s.on fun _ m => m.setFeat stamp 0xC0 fun _ m => m.failWith stamp St.invalidField)

/-- SET_FEATURES_PLACEMENT (03 R149): bytes 0 to 31 of the extension layout, with the host tag reserved. -/
def execSetFeaturesPlacement (stamp : Nat) (s : State) : Host.Outcome State Fault Refusal :=
  .next (s.on fun _ m => m.setFeat stamp 0xC1 fun c m =>
    let i := c.sqe.nsid.toNat
    if m.remote i then m.toMember c
    else match m.nsStatus c with
      | some st => m.failWith stamp st
      | none =>
        if !extOk c.sqe.data (m.nsBeds (m.ns i)) || decide (leAt c.sqe.data 24 8 ≠ 0) then m.failWith stamp St.invalidField
        else
          let e := Ext.parse c.sqe.data
          let m := m.updNs i fun n => { n with dflt := e, dfltSaved := if c.sqe.save then e else n.dfltSaved }
          (if c.sqe.save then m.saveHub 0x10 else m).succeed stamp)

/-- Serve the requests of a plot that waited at a quota of a pool that is now raised (07 R373). -/
def Mach.quotaRaised (m : Mach) : Mach :=
  (List.range m.nAcres).foldl (fun m a => (List.range 5).foldl (fun m k => m.serveWaits a k) m) m

/-- The quotas of a plot are set, and saved where asked (04 R222). -/
def Mach.setQuota (t : Nat) (q : Quota) (save : Bool) (m : Mach) : Mach :=
  let m := m.updPlot t fun x => { x with quota := q, quotaSaved := if save then q else x.quotaSaved }
  (if save then m.saveHub 0x11 else m).quotaRaised

/-- SET_FEATURES_PLOT_QUOTAS (04 R222, 07 R373). -/
def execSetFeaturesPlotQuotas (stamp : Nat) (s : State) : Host.Outcome State Fault Refusal :=
  .next (s.on fun _ m => m.setFeat stamp 0xC2 fun c m => m.only0 c (fun m =>
    let t := Word.bits c.sqe.cdw11 15 0
    let q := quotaOf c.sqe.data
    if 1024 ≤ t ∨ quotaOk q = false ∨ q.active < q.open_ ∨ q.qpairs < m.qpairs t ∨ m.quotasFit t q = false then
      m.failWith stamp St.invalidField
    else
      ((m.setQuota t q c.sqe.save).copyAll c.sqe).succeed stamp))

/-- Copy a saved vendor feature to the members (10 R469). -/
def Mach.copySaved (e : Sqe) (m : Mach) : Mach := if e.save then m.copyAll e else m

/-- The values of feature 0xC3 that a structure gives are in force, and saved where asked. -/
def Mach.setLadder (d : List Byte) (save : Bool) (m : Mach) : Mach :=
  let l := [leAt d 0 2, leAt d 2 1, leAt d 3 1, leAt d 4 1, leAt d 5 1]
  m.onHeat fun x => { x with budgetW := l.getD 0 0, onset := l.getD 1 0, width := l.getD 2 0, modelOnset := l.getD 3 0, hyst := l.getD 4 0,
                             savedC3 := if save then l else x.savedC3 }

/-- SET_FEATURES_THROTTLE (04 R223, 11 R507). -/
def execSetFeaturesThrottle (stamp : Nat) (s : State) : Host.Outcome State Fault Refusal :=
  .next (s.on fun _ m => m.setFeat stamp 0xC3 fun c m => m.only0 c (fun m =>
    let d := c.sqe.data
    let b := leAt d 0 2
    let o := leAt d 2 1
    let w := leAt d 3 1
    let mo := leAt d 4 1
    let h := leAt d 5 1
    if decide (10 ≤ b) && decide (b ≤ 120) && decide (b ≤ m.power.decl.bMax) && decide (85 ≤ o) && decide (o ≤ 125) && decide (1 ≤ w) &&
        decide (w ≤ 8) && decide (50 ≤ mo) && decide (mo ≤ 90) && decide (1 ≤ h) && decide (h ≤ 10) then
      ((m.setLadder d c.sqe.save).copySaved c.sqe).succeed stamp
    else m.failWith stamp St.invalidField))

/-- Every record takes the interval that feature 0xC4 gives it, from its next persist (14 R607). -/
def Mach.newIntervals (m : Mach) : Mach :=
  m.onYbk fun y => { y with recs := y.recs.foldr (fun e t => Tbl.put Rec.init e.1 { e.2 with nextInterval := y.intervalOf e.1 } t) [] }

/-- The persist interval of a code, or the default one for 0xFFFF, is set, and saved where asked. -/
def Mach.setYbkRate (code v : Nat) (save : Bool) (m : Mach) : Mach :=
  let m := if code = 0xFFFF then
      let d := if v = 0 then 10 else v
      m.onYbk fun y => { y with deflt := d, savedDeflt := if save then d else y.savedDeflt }
    else m.onYbk fun y =>
      { y with ivals := Tbl.put 0 code v y.ivals, savedIvals := if save then Tbl.put 0 code v y.savedIvals else y.savedIvals }
  m.newIntervals

/-- SET_FEATURES_YBK_RATE (04 R224). -/
def execSetFeaturesYbkRate (stamp : Nat) (s : State) : Host.Outcome State Fault Refusal :=
  .next (s.on fun _ m => m.setFeat stamp 0xC4 fun c m => m.only0 c (fun m =>
    let code := Word.bits c.sqe.cdw11 15 0
    let v := Word.bits c.sqe.cdw12 15 0
    if 3600 < v ∨ (code ≠ 0xFFFF ∧ m.ybk.slots.contains code = false) then m.failWith stamp St.invalidField
    else ((m.setYbkRate code v c.sqe.save).copySaved c.sqe).succeed stamp))

/-- SET_FEATURES_UNWRITTEN_READ (03 R150). -/
def execSetFeaturesUnwrittenRead (stamp : Nat) (s : State) : Host.Outcome State Fault Refusal :=
  .next (s.on fun _ m => m.setFeat stamp 0xC5 fun c m =>
    let i := c.sqe.nsid.toNat
    let v := Word.bits c.sqe.cdw11 1 0
    if m.remote i then m.toMember c
    else match m.nsStatus c with
      | some st => m.failWith stamp st
      | none =>
        if 2 ≤ v then m.failWith stamp St.invalidField
        else let m := m.updNs i fun n => { n with unwritten := v, unwrittenSaved := if c.sqe.save then v else n.unwrittenSaved }
          (if c.sqe.save then m.saveHub 0x10 else m).succeed stamp)

end Sys2Proof.Machine
end

