-- ==== Sys2Proof/Machine/Admin.lean ====
section
/-! DEFINITION. The other admin commands (04 R172 to R174, R204 to R221): queues, Identify, log pages, events, Abort, namespaces, Format NVM,
self-test, and the opcodes that are not supported. -/

namespace Sys2Proof.Machine

/-! ## Queues (04 R171, R174, R204) -/

/-- I/O submission, and completion, queues of the whole controller. -/
def Mach.ioSqs (m : Mach) : Nat := (m.front.sqs.filter (fun e => decide (e.1 % 1024 ≠ 0))).length
def Mach.ioCqs (m : Mach) : Nat := (m.front.cqs.filter (fun e => decide (e.1 % 1024 ≠ 0))).length

/-- A queue identifier that a plot may use for an I/O queue. -/
def Mach.qidOk (m : Mach) (p q : Nat) : Bool := decide (q ≠ 0) && decide (q ≤ 512) && decide (q ≤ (m.plot p).quota.qpairs)

/-- The first case of 04 R174 that a Create I/O Submission Queue meets. -/
def Mach.createSqStatus (m : Mach) (c : Cmd) : Option Status :=
  let e := c.sqe
  let cq := Word.bits e.cdw11 31 16
  if !m.qidOk c.plot e.qid || decide ((m.sq c.plot e.qid).size ≠ 0) then some St.invalidQid
  else if e.qsize < 2 ∨ 16384 < e.qsize then some St.invalidQsize
  else if !e.cdw11.getLsbD 0 then some St.invalidField
  else if cq = 0 ∨ 512 < cq ∨ (m.cq c.plot cq).size = 0 then some St.cqInvalid
  else if 8192 ≤ m.ioSqs then some St.invalidQid
  else none

/-- The first case of 04 R174 that a Create I/O Completion Queue meets. -/
def Mach.createCqStatus (m : Mach) (c : Cmd) : Option Status :=
  let e := c.sqe
  if !m.qidOk c.plot e.qid || decide ((m.cq c.plot e.qid).size ≠ 0) then some St.invalidQid
  else if e.qsize < 2 ∨ 16384 < e.qsize then some St.invalidQsize
  else if !e.cdw11.getLsbD 0 then some St.invalidField
  else if 512 < Word.bits e.cdw11 31 16 then some St.invalidVector
  else if 8192 ≤ m.ioCqs then some St.invalidQid
  else none

/-- CREATE_IO_SQ (04 R174). -/
def execCreateIoSq (stamp : Nat) (s : State) : Host.Outcome State Fault Refusal :=
  .next (s.on fun _ m => m.admin stamp 0x01 fun c m =>
    match m.createSqStatus c with
    | some st => m.failWith stamp st
    | none =>
      (m.updSq c.plot c.sqe.qid fun _ =>
        { Sq.init with base := c.sqe.prp1, size := c.sqe.qsize, cq := Word.bits c.sqe.cdw11 31 16 }).succeed stamp)

/-- CREATE_IO_CQ (04 R174). -/
def execCreateIoCq (stamp : Nat) (s : State) : Host.Outcome State Fault Refusal :=
  .next (s.on fun _ m => m.admin stamp 0x05 fun c m =>
    match m.createCqStatus c with
    | some st => m.failWith stamp st
    | none =>
      (m.updCq c.plot c.sqe.qid fun _ =>
        { Cq.init with base := c.sqe.prp1, size := c.sqe.qsize, iv := Word.bits c.sqe.cdw11 31 16, ien := c.sqe.cdw11.getLsbD 1 }).succeed stamp)

/-- DELETE_IO_SQ (04 R204): commands of the queue that are not committed are squashed, and the Delete completes when every completion of
the queue has been posted. -/
def execDeleteIoSq (stamp : Nat) (s : State) : Host.Outcome State Fault Refusal :=
  .next (s.on fun _ m => m.admin stamp 0x00 fun c m =>
    let q := c.sqe.qid
    if q = 0 ∨ 512 < q ∨ (m.sq c.plot q).size = 0 ∨ (m.sq c.plot q).deleting = true then m.failWith stamp St.invalidQid
    else
      let mine := m.front.inflight.filter fun k => k.plot == c.plot && k.sq == q && !k.committed
      let m := (m.setStage stamp .media).updSq c.plot q fun x => { x with deleting := true }
      (mine.foldl (fun m k => m.squash k.stamp (some St.sqDeletion)) m).tryDeleteSq c.plot q)

/-- DELETE_IO_CQ (04 R204). -/
def execDeleteIoCq (stamp : Nat) (s : State) : Host.Outcome State Fault Refusal :=
  .next (s.on fun _ m => m.admin stamp 0x04 fun c m =>
    let q := c.sqe.qid
    if q = 0 ∨ 512 < q ∨ (m.cq c.plot q).size = 0 then m.failWith stamp St.invalidQid
    else if m.front.sqs.any (fun e => decide (e.1 / 1024 = c.plot) && e.2.cq == q) then m.failWith stamp St.invalidQueueDel
    else (m.updCq c.plot q fun _ => Cq.init).succeed stamp)

/-! ## Identify and log pages -/

/-- Why a command cannot return `n` bytes: they are above MDTS, or the host buffer does not hold them (04 R172, R211). -/
def Cmd.replyStatus (c : Cmd) (n : Nat) : Option Status :=
  if 2097152 < n then some St.invalidField
  else if c.sqe.bufLen < n then some (if c.sqe.buf = .sgl then St.sglLength else St.prpOffset)
  else none

/-- Return `n` bytes, if the host buffer holds them and they lie within MDTS. -/
def Mach.replyIn (c : Cmd) (n : Nat) (data : List Byte) (m : Mach) : Mach :=
  match c.replyStatus n with
  | some st => m.failWith c.stamp st
  | none => m.reply c.stamp data

/-- IDENTIFY (03 R123, R126, R130; 04 R172, R173; 10 R466; 11 R496): data that describe a member's namespace come from the member. -/
def execIdentify (stamp : Nat) (s : State) : Host.Outcome State Fault Refusal :=
  .next (s.on fun _ m => m.admin stamp 0x06 fun c m =>
    let cns := Word.bits c.sqe.cdw10 7 0
    if (cns = 0 ∨ cns = 3 ∨ cns = 5) ∧ m.remote c.sqe.nsid.toNat = true then m.toMember c
    else match m.identifyData c with
      | .inl st => m.failWith stamp st
      | .inr data => m.replyIn c 4096 data)

/-- A log page has been read: with Retain Asynchronous Event clear its event type is unmasked, the lists that it reports are cleared, and a
waiting event can complete a request (15 R640, 03 R134). -/
def Mach.logRead (c : Cmd) (m : Mach) : Mach :=
  if c.sqe.rae then m
  else
    let lid := c.sqe.lid
    let p := c.plot
    let m := m.onFront fun f => { f with masked := f.masked.filter (fun k => !(k.1 == p && k.2.2 == lid)) }
    let m := if lid = 0xBF then m.onFront fun f =>
        { f with changed := Tbl.upd [] p (fun l => l.filter (fun e => e.1 != c.sqe.nsid.toNat)) f.changed,
                 changedOvf := f.changedOvf.filter (fun q => q != p) }
      else if lid = 0x04 then m.onFront fun f => { f with changedNs := Tbl.put [] p [] f.changedNs }
      else m
    m.pumpEvents p 4

/-- Return the part of a log page that a command asks for: zeros beyond its end; a command that fails changes nothing (04 R211). -/
def Mach.logReply (c : Cmd) (data : List Byte) (m : Mach) : Mach :=
  if c.sqe.logOff % 4 ≠ 0 then m.failWith c.stamp St.invalidField
  else match c.replyStatus c.sqe.logLen with
    | some st => m.failWith c.stamp st
    | none => (m.reply c.stamp data).logRead c

/-- GET_LOG_PAGE (04 R211, R212): the log pages of the standards, and those that the controller lacks. -/
def execGetLogPage (stamp : Nat) (s : State) : Host.Outcome State Fault Refusal :=
  .next (s.on fun _ m => m.adminIf stamp 0x02 (fun c => !vendorLogs.contains c.sqe.lid) fun c m =>
    match m.stdLog c with
    | .inl st => m.failWith stamp st
    | .inr data => m.logReply c (window data c.sqe.logOff c.sqe.logLen))

/-- A vendor log page: plot 0 alone reads it (04 "Vendor log pages"). -/
def Mach.vendorLog (stamp lid : Nat) (f : Cmd → Mach → Mach) (m : Mach) : Mach :=
  m.adminIf stamp 0x02 (fun c => c.sqe.lid == lid) fun c m =>
    if c.plot = 0 then f c m else m.failWith stamp St.invalidLog

/-- Bytes of a member's Yield Book (14 R614): the model does not hold another controller's book (notes/assumptions/7). -/
def Mach.memberBook (m : Mach) (n off len : Nat) : List Byte :=
  (List.range len).map fun i => if off + i < 1060864 then Config.standardByte (0x2000 + n + 8 * m.clk.now) (off + i) else 0

/-- GET_LOG_YIELD_BOOK (04 R217; 14 R613, R614). -/
def execGetLogYieldBook (stamp : Nat) (s : State) : Host.Outcome State Fault Refusal :=
  .next (s.on fun _ m => m.vendorLog stamp 0xC0 fun c m =>
    let n := c.sqe.lsi
    if n = 0 then m.logReply c (m.ybkWindow c.sqe.logOff c.sqe.logLen)
    else if n ≤ 7 ∧ m.hitch.role = 1 ∧ (m.member n).st = 1 then m.logReply c (m.memberBook n c.sqe.logOff c.sqe.logLen)
    else m.failWith stamp St.invalidField)

/-- GET_LOG_TALLY (04 R218, R219). -/
def execGetLogTally (stamp : Nat) (s : State) : Host.Outcome State Fault Refusal :=
  .next (s.on fun _ m => m.vendorLog stamp 0xC1 fun c m =>
    if 1023 < c.sqe.lsi ∧ c.sqe.lsi ≠ 0xFFFF then m.failWith stamp St.invalidField
    else m.logReply c (window (m.tallyLog c.sqe.lsi) c.sqe.logOff c.sqe.logLen))

/-- GET_LOG_GRID_STATS (02 R115, R116). -/
def execGetLogGridStats (stamp : Nat) (s : State) : Host.Outcome State Fault Refusal :=
  .next (s.on fun cfg m => m.vendorLog stamp 0xC2 fun c m => m.logReply c (window (m.gridLog cfg) c.sqe.logOff c.sqe.logLen))

/-- GET_LOG_BED_HEALTH (03 R167, R168). -/
def execGetLogBedHealth (stamp : Nat) (s : State) : Host.Outcome State Fault Refusal :=
  .next (s.on fun _ m => m.vendorLog stamp 0xC3 fun c m => m.logReply c (window m.healthLog c.sqe.logOff c.sqe.logLen))

/-- GET_LOG_HITCH_STATUS (04 R220, R221). -/
def execGetLogHitchStatus (stamp : Nat) (s : State) : Host.Outcome State Fault Refusal :=
  .next (s.on fun _ m => m.vendorLog stamp 0xC4 fun c m => m.logReply c (window m.hitchLog c.sqe.logOff c.sqe.logLen))

/-! ## Events and Abort -/

/-- ASYNC_EVENT_REQUEST (04 R172): four are outstanding at most; a waiting event completes one at once. -/
def execAsyncEventRequest (stamp : Nat) (s : State) : Host.Outcome State Fault Refusal :=
  .next (s.on fun _ m => m.admin stamp 0x0C fun c m =>
    if 4 ≤ (m.heldAers c.plot).length then m.failWith stamp (Status.mk2 1 0x05)
    else (m.setStage stamp .held).pumpEvents c.plot 4)

/-- Admin commands that are never caught (04 R207). -/
def neverCaught (c : Cmd) : Bool :=
  c.sq == 0 && ([0x08, 0x0C, 0x10, 0x0D, 0x15, 0x80].contains c.sqe.opc.toNat || decide (0xC0 ≤ c.sqe.opc.toNat))

/-- The command that an Abort names and that can still be caught (04 R206, R207). -/
def Mach.abortTarget (m : Mach) (c : Cmd) : Option Cmd :=
  m.front.inflight.find? fun k =>
    k.plot == c.plot && k.sq == Word.bits c.sqe.cdw10 15 0 && k.sqe.cid.toNat == Word.bits c.sqe.cdw10 31 16 && !neverCaught k &&
      !k.committed && k.stage != .finished && !k.caught

/-- Aborts of a command's plot that are outstanding and were fetched before it. -/
def Mach.abortsBefore (m : Mach) (c : Cmd) : Nat :=
  (m.front.inflight.filter (fun k => k.plot == c.plot && k.sq == 0 && k.sqe.opc == 0x08 && decide (k.stamp < c.stamp))).length

/-- An Abort ends: DW0 bit 0 is 0 when its target is caught (04 R209, R225). -/
def Mach.abortEnds (c : Cmd) (caught : Bool) (m : Mach) : Mach :=
  if caught then (m.finish c.stamp Status.ok 0).record 0x0400 (m.usSince c.fetchedAt) 0
  else (m.finish c.stamp Status.ok 1).record 0x0401 (Word.bits c.sqe.cdw10 31 16) 0

/-- ABORT (04 R206 to R210): a forwarded target is caught, or not, by its member, and the Abort waits for the answer (10 R477). -/
def execAbort (stamp at_ : Nat) (s : State) : Host.Outcome State Fault Refusal :=
  .next (s.on fun _ m => (m.advance at_).admin stamp 0x08 fun c m =>
    if 16 ≤ m.abortsBefore c then m.failWith stamp St.abortLimit
    else match m.abortTarget c with
      | none => m.abortEnds c false
      | some k =>
        match m.fwd? k.stamp with
        | some f => (m.cancelFwd f 0).setStage stamp .media
        | none => (m.squash k.stamp (some St.abortRequested)).abortEnds c true)

/-! ## Namespaces (03 R124 to R129; 09 R416, R426, R428; 10 R466) -/

/-- NAMESPACE_CREATE: Namespace Management with a select field of 0, or one that is not defined. -/
def execNamespaceCreate (stamp : Nat) (s : State) : Host.Outcome State Fault Refusal :=
  .next (s.on fun _ m => m.adminIf stamp 0x0D (fun c => Word.bits c.sqe.cdw10 3 0 != 1) fun c m =>
    let i := c.sqe.nsid.toNat
    let n := i - 0xFFFFFF00
    if c.plot ≠ 0 then m.failWith stamp St.invalidOpcode
    else if Word.bits c.sqe.cdw10 3 0 ≠ 0 then m.failWith stamp St.invalidField
    else if m.hitch.role = 1 ∧ 0xFFFFFF01 ≤ i ∧ n ≤ 7 then
      (if (m.member n).st = 0 then m.failWith stamp St.invalidField
       else if (m.member n).st = 1 then m.forward c n
       else m.failWith stamp St.anaInaccessible)
    else match m.createNs c.sqe.data with
      | .inl st => m.failWith stamp st
      | .inr r => (r.2.updCmd stamp fun k => { k with committed := true }).finish stamp Status.ok (BitVec.ofNat 32 r.1))

/-- A namespace is attached to a Frozen plot. -/
def Mach.nsFrozen (m : Mach) (i : Nat) : Bool := (m.ns i).attached.any fun p => (m.plot p).st == .frozen

/-- NAMESPACE_DELETE (03 R129): a command fetched after it finds no such namespace; it acts when its locks are granted. -/
def execNamespaceDelete (stamp : Nat) (s : State) : Host.Outcome State Fault Refusal :=
  .next (s.on fun cfg m => m.adminIf stamp 0x0D (fun c => Word.bits c.sqe.cdw10 3 0 == 1) fun c m =>
    let i := c.sqe.nsid.toNat
    let l := m.nsNamed c.sqe
    if c.plot ≠ 0 then m.failWith stamp St.invalidOpcode
    else if m.remote i then m.toMember c
    else if c.sqe.nsid ≠ 0xFFFFFFFF ∧ ((m.ns i).exists_ = false ∨ m.deletedBefore c = true) then m.failWith stamp St.invalidNs
    else if l.any m.nsFrozen then m.failWith stamp St.ctrlListInvalid
    else
      let m := l.foldl (fun m k => m.updNs k fun n => { n with deleting := if n.deleting = 0 then stamp else n.deleting }) m
      (m.setStage stamp .locked).pump cfg)

/-- The controller identifiers of a Namespace Attachment: a count and that many identifiers of 2 bytes. -/
def ctrlList (bs : List Byte) : List Nat := (List.range (leAt bs 0 2)).map fun i => leAt bs (2 + 2 * i) 2
def ctrlListOk (bs : List Byte) : Bool :=
  let l := ctrlList bs
  !l.isEmpty && decide (l.length ≤ 2047) && l.all (fun p => decide (p < 1024)) && (dedup l == l)

/-- Why plot `p` cannot be attached to a namespace. -/
def Mach.attachStatus (m : Mach) (i p : Nat) : Option Status :=
  let n := m.ns i
  if n.attached.contains p then some (Status.mk2 1 0x18)
  else if n.bedSet ≠ 0xFFFF ∧ n.bedSet ≠ p then some St.ctrlListInvalid
  else if 256 ≤ m.attachCount p then some St.attachLimit
  else none

/-- Why plot `p` cannot be detached from a namespace. -/
def Mach.detachStatus (m : Mach) (i p : Nat) : Option Status :=
  if !(m.ns i).attached.contains p then some (Status.mk2 1 0x1A)
  else if m.frozenLast p then some St.ctrlListInvalid
  else none

/-- The common part of Namespace Attachment: the whole list is attached or detached, or nothing changes. -/
def Mach.attachment (c : Cmd) (st : Mach → Nat → Nat → Option Status) (f : Nat → Nat → Mach → Mach) (m : Mach) : Mach :=
  let i := c.sqe.nsid.toNat
  let l := ctrlList c.sqe.data
  if c.plot ≠ 0 then m.failWith c.stamp St.invalidOpcode
  else if m.remote i then m.toMember c
  else if (m.ns i).exists_ = false ∨ m.deletedBefore c = true then m.failWith c.stamp St.invalidNs
  else if !ctrlListOk c.sqe.data then m.failWith c.stamp St.ctrlListInvalid
  else match l.findSome? (st m i) with
    | some s => m.failWith c.stamp s
    | none => ((l.foldl (fun m p => f i p m) m).updCmd c.stamp fun k => { k with committed := true }).succeed c.stamp

/-- NAMESPACE_ATTACH (09 R416, R426). -/
def execNamespaceAttach (stamp : Nat) (s : State) : Host.Outcome State Fault Refusal :=
  .next (s.on fun _ m => m.adminIf stamp 0x15 (fun c => Word.bits c.sqe.cdw10 3 0 == 0) fun c m =>
    m.attachment c Mach.attachStatus Mach.attachPlot)

/-- NAMESPACE_DETACH (09 R428): select 1; a select field above 1 is not defined. -/
def execNamespaceDetach (stamp : Nat) (s : State) : Host.Outcome State Fault Refusal :=
  .next (s.on fun _ m => m.adminIf stamp 0x15 (fun c => Word.bits c.sqe.cdw10 3 0 != 0) fun c m =>
    if c.plot = 0 ∧ Word.bits c.sqe.cdw10 3 0 ≠ 1 then m.failWith stamp St.invalidField
    else m.attachment c Mach.detachStatus Mach.detachPlot)

/-- FORMAT_NVM (04 R213): it acts when its locks are granted. -/
def execFormatNvm (stamp : Nat) (s : State) : Host.Outcome State Fault Refusal :=
  .next (s.on fun cfg m => m.admin0 stamp 0x80 fun c m =>
    let i := c.sqe.nsid.toNat
    if Word.bits c.sqe.cdw10 11 9 ≠ 0 then m.failWith stamp St.invalidField
    else if m.remote i then m.toMember c
    else if c.sqe.nsid ≠ 0xFFFFFFFF ∧ ((m.ns i).exists_ = false ∨ m.deletedBefore c = true) then m.failWith stamp St.invalidNs
    else (m.setStage stamp .locked).pump cfg)

/-! ## Self-test and unsupported opcodes -/

/-- A self-test ends: images go to the journal again (14 R609). -/
def Mach.endSelfTest (m : Mach) : Mach :=
  if m.hub.selfTest = 0 then m
  else (m.onHub fun h => { h with selfTest := 0 }).onYbk fun y => { y with mode := if y.mode = 2 then 0 else y.mode }

/-- DEVICE_SELF_TEST (04 R212, 14 R609): code 1 or 2 starts a self-test and completes, code 0xF ends one. -/
def execDeviceSelfTest (stamp : Nat) (s : State) : Host.Outcome State Fault Refusal :=
  .next (s.on fun _ m => m.admin0 stamp 0x14 fun c m =>
    let stc := Word.bits c.sqe.cdw10 3 0
    if stc = 0xF then (m.endSelfTest).succeed stamp
    else if stc ≠ 1 ∧ stc ≠ 2 then m.failWith stamp St.invalidField
    else if m.hub.selfTest ≠ 0 then m.failWith stamp (Status.mk2 1 0x1D)
    else ((m.onHub fun h => { h with selfTest := stamp }).onYbk fun y => { y with mode := if y.mode = 0 then 2 else y.mode }).succeed stamp)

/-- DEVICE_SELF_TEST_END (14 R609). -/
def execDeviceSelfTestEnd (s : State) : Host.Outcome State Fault Refusal := .next (s.on fun _ m => m.endSelfTest)

/-- Admin opcodes of every plot, and of plot 0 (04 R212). -/
def adminOpsAll : List Nat := [0x00, 0x01, 0x02, 0x04, 0x05, 0x06, 0x08, 0x09, 0x0A, 0x0C]
def adminOps0 : List Nat := [0x0D, 0x10, 0x11, 0x14, 0x15, 0x80, 0xC1, 0xC2, 0xC3, 0xC4, 0xC5, 0xC8]

/-- The opcode of a command is one that its plot may use. -/
def Cmd.opcodeOk (c : Cmd) : Bool :=
  if c.sq = 0 then adminOpsAll.contains c.sqe.opc.toNat || (decide (c.plot = 0) && adminOps0.contains c.sqe.opc.toNat)
  else ioOpcodes.contains c.sqe.opc

/-- INVALID_COMMAND_OPCODE (04 R212, R214). -/
def execInvalidCommandOpcode (stamp : Nat) (s : State) : Host.Outcome State Fault Refusal :=
  .next (s.on fun _ m =>
    match m.cmd? stamp with
    | some c => if c.stage = .fetched ∧ c.opcodeOk = false then (m.dropTasks stamp).failWith stamp St.invalidOpcode else m
    | none => m)

end Sys2Proof.Machine
end

