-- ==== Sys2Proof/Machine/Heat.lean ====
section
/-! DEFINITION. Heat (11): current-sense inputs and the thermal model (R509 to R512), diodes and their estimates (R513 to R516), the throttle
ladder (R508), and the compare of the thermal trip (R519). Temperatures count 1/16 °C. -/

namespace Sys2Proof.Machine

def Mach.updSense (g : Nat) (f : Sense → Sense) (m : Mach) : Mach :=
  m.onHeat fun h => { h with sense := Tbl.upd Sense.init g f h.sense }
def Mach.updDiode (d : Nat) (f : Diode → Diode) (m : Mach) : Mach :=
  m.onHeat fun h => { h with diodes := Tbl.upd Diode.init d f h.diodes }

/-! ## The throttle ladder (R508) -/

/-- k(T) for an onset and a step width in °C. -/
def ladderK (t : Int) (onset width : Nat) : Nat :=
  let o : Int := 16 * onset
  if t < o then 0 else Nat.min 16 (((t - o) / (16 * (Nat.max width 1) : Nat)).toNat + 1)

/-- Readings in use with their source codes and onsets: diodes, then model temperatures. -/
def Mach.readings (m : Mach) : List (Nat × Int × Nat) :=
  (List.range m.nDiodes).map (fun d => (d, (m.diode d).temp, m.heat.onset)) ++
    (List.range m.nGroups).map (fun g => (0x10 + g, (m.senseAt g).temp, m.heat.modelOnset))

/-- Raise the step to `n`, from source `src` (R508, R516, R518). -/
def Mach.raiseStep (n src : Nat) (m : Mach) : Mach :=
  if n ≤ m.heat.step then m
  else ((m.onHeat fun h => { h with step := n, src := src }).record 0x0B02 n 0).hubInt 6

/-- The step over every reading in use (R508). -/
def Mach.evalStep (m : Mach) : Mach :=
  let k := fun (add : Int) (r : Nat × Int × Nat) => ladderK (r.2.1 + 16 * add) r.2.2 m.heat.width
  let l := m.readings
  let t := (l.map (k 0)).foldl Nat.max 0
  let u := (l.map (k m.heat.hyst)).foldl Nat.max 0
  if m.heat.step < t then m.raiseStep t (((l.find? (fun r => k 0 r == t)).map (fun r => r.1)).getD 0xFF)
  else if u < m.heat.step ∧ m.heat.held = false ∧ m.heat.lastFall + 1000 ≤ m.grid.passes then
    m.onHeat fun h => { h with step := h.step - 1, lastFall := m.grid.passes, src := if h.step = 1 then 0xFF else h.src }
  else m

/-- THROTTLE_EVAL (R508): every 100 passes. -/
def execThrottleEval (s : State) : Host.Outcome State Fault Refusal :=
  .next (s.on fun _ m =>
    if !m.awake || decide (m.grid.passes < m.heat.evalAt + 100) then m
    else (m.onHeat fun h => { h with evalAt := m.grid.passes }).evalStep)

/-! ## Sense inputs (R509 to R512) -/

/-- Samples of 10 s, one per furrow. -/
def tenSeconds : Nat := 1250000

/-- One sample of an input. A sample of 0 counts toward the failure in passes in which operations of the group are granted. -/
def Mach.sample (g v : Nat) (m : Mach) : Mach :=
  let granted := decide (0 < Tbl.get 0 g m.grid.grpCharge)
  let x := m.senseAt g
  let sat := if v = 4095 then x.sat + 1 else 0
  let nil := if v ≠ 0 then 0 else if granted then x.zero + 1 else x.zero
  let good := if v = 4095 ∨ (v = 0 ∧ granted = true) then 0 else x.goodRun + 1
  let fails := !x.failed && (decide (1000 ≤ sat) || decide (tenSeconds ≤ nil))
  let back := x.failed && decide (tenSeconds ≤ good)
  let m := m.updSense g fun y =>
    { y with sum := y.sum + Nat.min v 4095, sat := sat, zero := if back then 0 else nil, goodRun := if fails then 0 else good,
             failed := (y.failed || fails) && !back }
  if fails then (m.record 0x0B05 g 0).hubInt 7 else m

/-- ISNS_SAMPLE (R509, R512): the samples of one furrow, in the order of the inputs. -/
def execIsnsSample (samples : List Nat) (s : State) : Host.Outcome State Fault Refusal :=
  .next (s.on fun _ m =>
    if !m.awake then m else (List.range m.nGroups).foldl (fun m g => m.sample g (samples.getD g 0)) m)

/-- Group energy of the pass in nJ: samples × full scale × 8 µs, or the charges of a failed input (R509, R512). -/
def Mach.groupEnergy (m : Mach) (g : Nat) : Nat :=
  if (m.senseAt g).failed then Tbl.get 0 g m.grid.grpCharge
  else (m.senseAt g).sum * (m.power.decl.fullScale.getD g 0) * 8 / 4095

/-- One pass of the thermal model of a group for an energy in nJ (R511). -/
def Sense.pass (d : PowerDecl) (e : Nat) (x : Sense) : Sense :=
  let goal := fun (r : Nat) => ((e * r * 2 ^ 32 / 100000000 : Nat) : Int)
  let a := x.a + (goal d.ra - x.a) / ((10 * Nat.max d.tauA 1 : Nat) : Int)
  let b := x.b + (goal d.rb - x.b) / ((100 * Nat.max d.tauB 1 : Nat) : Int)
  let t := 16 * (d.tRef : Int) + (a + b) / 268435456
  { x with a := a, b := b, temp := t, maxTemp := if x.maxTemp < t then t else x.maxTemp, pwr := Nat.min 32767 (e / 10000000), sum := 0 }

/-- The measured media energy of the pass that ends, and the thermal model of every group (R510, R511): no power in a non-operational
state. -/
def Mach.passEnergy (m : Mach) : Mach :=
  let e := fun (g : Nat) => if 3 ≤ m.power.ps then 0 else m.groupEnergy g
  let total := sumBy e (List.range m.nGroups)
  let m := (List.range m.nGroups).foldl (fun x g => x.updSense g (Sense.pass x.power.decl (e g))) m
  (m.onGrid fun g =>
    { g with charges := if g.kPasses = 999 then 0 else g.charges, measured := if g.kPasses = 999 then 0 else g.measured + total,
             kPasses := (g.kPasses + 1) % 1000, kDue := if g.kPasses = 999 then some (g.charges, g.measured + total) else g.kDue, lastMeasured := total, lastCharge := g.passCharge, passCharge := 0, grpCharge := [], allow := [], allowHit := [] }).onPlots
    fun p => { p with minuteE := p.minuteE + total }

/-! ## Diodes (R513 to R516) -/

/-- The estimate of a failed diode's die (R515). -/
def Mach.estimate (m : Mach) (d : Nat) : Int :=
  let working := ((List.range m.nDiodes).filter (fun i => (m.diode i).fail = 0)).map (fun i => (m.diode i).temp)
  let lid := match working with
    | [] => hottest ((List.range m.nGroups).map (fun g => (m.senseAt g).temp))
    | x :: t => t.foldl (fun a b => if b < a then b else a) x
  lid + (Config.dieRise d m.grid.pass : Nat) + 160

/-- The hub reads each diode every pass; the estimate replaces a failed one's reading (R513, R515). -/
def Mach.passDiodes (readings : List Int) (m : Mach) : Mach :=
  let m := (List.range m.nDiodes).foldl (fun m d =>
    if (m.diode d).fail = 0 then m.updDiode d fun x => { x with temp := readings.getD d x.temp } else m) m
  (List.range m.nDiodes).foldl (fun m d =>
    if (m.diode d).fail = 0 then m
    else
      let t := m.estimate d
      m.updDiode d fun x => { x with temp := t, estAt := m.clk.now }) m

/-- What a self-check finds: 0 working, 1 open, 2 shorted, 3 out of range (R513). Voltages are in mV, the reading in 1/16 °C. -/
def selfCheck (mv10 mv100 : Nat) (reading : Int) : Nat :=
  if 1000 < mv100 then 1
  else if mv10 < 200 ∨ ((mv100 : Int) - mv10).natAbs < 20 then 2
  else if reading < -960 ∨ 2560 < reading then 3
  else 0

/-- TRIP_EST and HELD follow the failed diodes (R516, R518). -/
def Mach.noteFailed (m : Mach) : Mach :=
  let any := (List.range m.nDiodes).any fun d => (m.diode d).fail != 0
  m.onHeat fun h => { h with tripEst := any, held := h.held && any }

/-- A diode fails (R516). -/
def Mach.diodeFails (d kind : Nat) (m : Mach) : Mach :=
  let m := m.updDiode d fun x => { x with fail := kind, est := true, good := 0, estAt := m.clk.now }
  let t := m.estimate d
  let m := m.updDiode d fun x => { x with temp := t }
  let m := (m.record 0x0B03 d 0).hubInt 7
  let m := m.raiseStep (Nat.min 16 (m.heat.step + 2)) d
  (m.onHeat fun h => { h with held := true }).noteFailed

/-- DIODE_SELF_CHECK (R513, R516): ten checks in a row that pass return a failed diode to use. -/
def execDiodeSelfCheck (diode : Nat) (mv10 mv100 : Nat) (reading : Int) (s : State) : Host.Outcome State Fault Refusal :=
  .next (s.on fun _ m =>
    if !m.awake || decide (m.nDiodes ≤ diode) then m
    else
      let x := m.diode diode
      let k := selfCheck mv10 mv100 reading
      if x.fail = 0 then (if k = 0 then m else m.diodeFails diode k)
      else if k ≠ 0 then m.updDiode diode fun y => { y with fail := k, good := 0 }
      else if x.good + 1 < 10 then m.updDiode diode fun y => { y with good := y.good + 1 }
      else
        ((m.updDiode diode fun y => { y with fail := 0, est := false, good := 0, temp := reading }).noteFailed).record 0x0B04 diode 0)

/-! ## Aging with temperature (03 R156) -/

/-- AF of 03 R156 for a temperature, in units of 2^-20, rounded down: 2 to the power 12,765 log2(e) (1/313.15 K − 1/(T + 273.15) K). -/
def agingFactor (t : Int) : Nat :=
  let d : Int := 100 * t + 437040
  if d ≤ 0 then 0
  else
    let y := 12765 * 14426950408889634 * 2 ^ 32 * (100 * d - 50104000) / (10000000000000000 * 31315 * d)
    let z := ((y % 2 ^ 32) * 6931471805599453 / 10000000000000000).toNat
    let series := (List.range 16).foldl (fun (acc : Nat × Nat) k =>
      let next := acc.2 * z / 2 ^ 32 / (k + 1)
      (acc.1 + next, next)) (2 ^ 40, 2 ^ 40)
    let n := y / 2 ^ 32
    if 0 ≤ n then series.1 * 2 ^ n.toNat / 2 ^ 20 else series.1 / 2 ^ (20 + n.natAbs)

end Sys2Proof.Machine
end

