-- ==== Sys2Proof/Machine/Power.lean ====
section
/-! DEFINITION. Non-operational power states (11 R499 to R504): their entry step by step, its refusal, and the exit. -/

namespace Sys2Proof.Machine

/-- Commands in flight, outstanding event requests and the Set Features that asks for the state left out (11 R499 step 1). -/
def Mach.quiet (m : Mach) : Bool :=
  m.front.inflight.all fun c => c.stage == .held || (decide (c.stamp ≠ 0) && decide (c.stamp = m.power.entryCmd))

/-- A submission queue is fetchable (11 R504). -/
def Mach.anyFetchable (m : Mach) : Bool := !m.ioFetchable.isEmpty || !m.admFetchable.isEmpty

/-- Dies whose erase runs, in acres that are up. -/
def Mach.erasing (m : Mach) : List Nat :=
  (m.med.dies.filter (fun e => e.2.st == .erasing && e.2.op.isSome && e.2.timedOut.isNone && m.acreUp (dieAcre e.1))).map (fun e => e.1)

/-- APST_IDLE_TIMEOUT (11 R504): the idle time of the present state's transition has passed. -/
def execApstIdleTimeout (at_ : Nat) (s : State) : Host.Outcome State Fault Refusal :=
  .next (s.on fun _ m =>
    let m := m.advance at_
    let t := m.power.apstIdle.getD m.power.ps (0, 0)
    if m.inService && m.power.apst && m.mayIdle && m.power.entering.isNone && m.quiet && !m.anyFetchable && decide (t.2 ≠ 0) &&
        decide (m.power.ps < t.1) && decide (m.power.idleAt + t.2 * Config.edgesPerMs ≤ m.clk.now) then
      m.onPower fun p => { p with entering := some t.1, entryCmd := 0, closing := false }
    else m)

/-- NONOP_ENTRY (11 R499 steps 1 to 3): no command is in flight; grants stop, running erases are suspended, and the acres close. From
PS3, whose domains are closed already, PS4 is entered at once. -/
def execNonopEntry (at_ : Nat) (s : State) : Host.Outcome State Fault Refusal :=
  .next (s.on fun c m =>
    let m := m.advance at_
    match m.power.entering with
    | none => m
    | some _ =>
      if m.power.closing || !m.quiet || m.power.pfail || m.heat.active then m
      else
        let m := m.onPower fun p => { p with closing := true, closeAt := none }
        if 3 ≤ m.power.ps then m.trySleep c
        else ((m.erasing.filter (fun d => decide ((m.die d).suspends < 64))).foldl (fun m d => m.suspendDie d m.clk.now) m).beginClosing)

/-- A drill of an acre still runs a chunk. -/
def Mach.chunksRun (m : Mach) : Bool :=
  m.drill.any fun g => decide (g.1 < 4) && m.acreUp g.1 && g.2.queue.any (fun x => x.engine.isSome)

/-- Owner mark of the pool D buffers that hold an acre's SRAM in PS4: the model's own, of no requester (11 R499 step 4). -/
def sramOwner : Nat := internalOwner 7

/-- An acre copies its SRAM into 24 pool D buffers of the internal reserve (11 R499 step 4). -/
def Mach.saveSram (a : Nat) (m : Mach) : Mach :=
  (List.range 24).foldl (fun m _ =>
    match m.serveBuf a sramOwner 3 with
    | .inl r => r.2.2.dramWrite a (poolAddr a (r.2.2.port a).cap 3 r.2.1) mib .background .other 0
    | .inr _ => m) m

/-- The acre restores its SRAM and frees the buffers (11 R503). -/
def Mach.restoreSram (a : Nat) (m : Mach) : Mach :=
  ((m.pool a 3).bufs.filter (fun e => e.2.held && e.2.owner == sramOwner)).foldl (fun m e =>
    (m.dramRead a (poolAddr a (m.port a).cap 3 e.1) mib .background .other 0).bufferFree a 3 e.1 sramOwner) m

/-- DOMAIN_DRAIN_DONE (11 R499 steps 3 to 5): every chunk and every operation of the dies has ended; for PS4 the SRAM of acres 1 to 3 is
saved, and every port is asked to enter self-refresh. -/
def execDomainDrainDone (at_ : Nat) (s : State) : Host.Outcome State Fault Refusal :=
  .next (s.on fun c m =>
    let m := m.advance at_
    match m.power.entering with
    | none => m
    | some ps =>
      if !m.power.closing || m.power.closeAt.isNone || m.chunksRun || m.diesRun then m
      else
        let up := (List.range m.nAcres).filter fun a => m.acreUp a && (m.port a).st == 2 && !(m.port a).srWanted
        let m := if ps = 4 then (up.filter (fun a => decide (a ≠ 0))).foldl (fun m a => m.saveSram a) m else m
        let m := up.foldl (fun m a => m.updPort a fun p => { p with srWanted := true, srForRate := false, srReq := m.clk.now }) m
        m.trySleep c)

/-- DRAIN_BOUND_EXPIRY (11 R500): a chunk still runs 200 µs after the closing began. -/
def execDrainBoundExpiry (at_ : Nat) (s : State) : Host.Outcome State Fault Refusal :=
  .next (s.on fun _ m =>
    let m := m.advance at_
    match m.power.closeAt with
    | some t => if m.power.closing && m.chunksRun && decide (t + 200 * Config.edgesPerUs ≤ m.clk.now) then m.refuseEntry 1 else m
    | none => m)

/-- The controller leaves a non-operational state for state `ps` (11 R503): the acres are ungated and their channels driven; each port
leaves self-refresh by its own sequence, and from PS4 centres its lanes again before it serves, as every channel is checked before its first grant. -/
def Mach.wake (c : Cfg) (ps : Nat) (m : Mach) : Mach :=
  if m.power.ps < 3 then m
  else
    let was := m.power.ps
    let m := m.onPower fun p => { p with ps := ps, lastOp := ps, want := none, idleAt := m.clk.now }
    let m := (List.range m.nChans).foldl (fun m i => m.updChan i fun x => { x with inService := !x.failed && !x.training && decide (x.rate ≠ 0) }) m
    let m := if was = 4 then ((List.range m.nAcres).filter (fun a => decide (a ≠ 0) && m.acreUp a)).foldl (fun m a => m.restoreSram a) m else m
    let m := if was = 4 then (List.range m.nAcres).foldl (fun m a => m.updPort a fun p => { p with recentre := p.st == 3 }) m else m
    let m := if was = 4 then (List.range m.nChans).foldl (fun m i => m.updChan i fun x => { x with unchecked := decide (x.rate ≠ 0) }) m else m
    (m.updWdAll c).record 0x0B00 ps 0

/-- NONOP_EXIT (11 R503). -/
def execNonopExit (at_ : Nat) (s : State) : Host.Outcome State Fault Refusal :=
  .next (s.on fun c m =>
    let m := m.advance at_
    match m.power.want with
    | some ps => m.wake c ps
    | none => m)

end Sys2Proof.Machine
end

