-- ==== Sys2Proof/Machine/Passes.lean ====
section
/-! DEFINITION. Tally minutes (09 R438 to R440; 03 R156; 10 R472) and pass boundaries (02 R80 to R87, R98 to R101; 11 R498, R506, R509 to
R515). -/

namespace Sys2Proof.Machine

/-! ## The energy of a minute (09 R439) -/

/-- Insert a plot by remainder, the largest first and the lower plot first on a tie. -/
def remInsert (x : Nat × Nat) : List (Nat × Nat) → List (Nat × Nat)
  | [] => [x]
  | y :: t => if y.2 < x.2 ∨ (y.2 = x.2 ∧ x.1 < y.1) then x :: y :: t else y :: remInsert x t

/-- Energy in mJ of each plot for the measured energy `mj` and the charges of the plots. -/
def splitEnergy (mj : Nat) (charges : List (Nat × Nat)) : List (Nat × Nat) :=
  let d := sumBy (fun c => c.2) charges
  if d = 0 then charges.map fun c => (c.1, if c.1 = 0 then mj else 0)
  else
    let floors := charges.map fun c => (c.1, mj * c.2 / d)
    let r := mj - sumBy (fun c => c.2) floors
    let order := charges.foldl (fun l c => remInsert (c.1, mj * c.2 % d) l) []
    let lucky := (order.take r).map (fun c => c.1)
    floors.map fun c => (c.1, if lucky.contains c.1 then c.2 + 1 else c.2)

/-! ## Closing a minute (09 R438) -/

/-- A ring keeps its newest 1,440 entries. -/
def pushTally (e : TallyEntry) (ring : List TallyEntry) : List TallyEntry := (ring ++ [e]).drop (ring.length + 1 - 1440)

/-- The plot has something to enter: it is not Absent, or a count of it is not zero. -/
def Plot.counts (x : Plot) : Bool :=
  x.st != .absent || x.acc.rd != 0 || x.acc.wr != 0 || x.acc.ops != 0 || x.acc.charge != 0 || decide (1000 ≤ x.acc.zonePasses)

/-- The entry of a plot for the minute that closes. -/
def Plot.entry (x : Plot) (minute energy : Nat) (unlocked brk incomplete : Bool) : TallyEntry :=
  { minute := minute, unlocked := unlocked, epochBreak := brk, frozen := x.acc.frozen || x.st == .frozen, incomplete := incomplete,
    bytesRead := x.acc.rd, bytesWritten := x.acc.wr, mediaOps := x.acc.ops, zoneSeconds := x.acc.zonePasses / 1000, energy := energy }

/-- The minute carries the unlocked flag (02 R81, 10 R471). -/
def Mach.minuteUnlocked (m : Mach) : Bool :=
  m.grid.leftLocked || m.grid.st != .locked || (m.hitch.role == 2 && !m.hitch.mgrLocked)

/-- Close the minute in progress: an entry for every plot and one for the totals (09 R438, R439). -/
def Mach.closeTally (incomplete : Bool) (m : Mach) : Mach :=
  let u := m.minuteUnlocked
  let b := m.grid.breakFlag
  let mj := (m.plots.minuteE + 500000) / 1000000
  let l := m.plots.tbl.filter fun e => e.2.counts
  let es := splitEnergy mj (l.map fun e => (e.1, e.2.acc.charge))
  let entries := l.map fun e => (e.1, e.2.entry m.grid.minute ((es.find? (fun x => x.1 == e.1)).map (fun x => x.2) |>.getD 0) u b incomplete)
  let total : TallyEntry :=
    { minute := m.grid.minute, unlocked := u, epochBreak := b, frozen := entries.any (fun e => e.2.frozen), incomplete := incomplete,
      bytesRead := sumBy (fun e => e.2.bytesRead) entries, bytesWritten := sumBy (fun e => e.2.bytesWritten) entries,
      mediaOps := m.plots.minuteOps, zoneSeconds := sumBy (fun e => e.2.zoneSeconds) entries, energy := mj }
  let m := entries.foldl (fun m e => m.updPlot e.1 fun x =>
    { x with ring := pushTally e.2 x.ring,
             acc := { Acc.init with zonePasses := x.acc.zonePasses % 1000, frozen := x.st == .frozen } }) m
  let m := m.onPlots fun p => { p with totals := pushTally total p.totals, minuteE := 0, overhead := 0, minuteOps := 0 }
  m.onGrid fun g =>
    { g with leftLocked := g.st != .locked, breakFlag := false, unlockedMin := if u then g.unlockedMin + 1 else g.unlockedMin }

/-- Mark the entries of a minute incomplete. -/
def markMinute (minute : Nat) (l : List TallyEntry) : List TallyEntry :=
  l.map fun e => if e.minute = minute then { e with incomplete := true } else e

/-- Members whose tallies of an earlier minute have not come by the end of the one after it (10 R472); the minute that closes is awaited
of every member that is up. -/
def Mach.missingTallies (m : Mach) : Mach :=
  if m.hitch.role ≠ 1 then m
  else
    let late := m.plots.missing.filter fun e => e.2 != m.grid.minute
    let m := late.foldl (fun m e =>
      (m.onPlots fun p => { p with tbl := p.tbl.map (fun x => (x.1, { x.2 with ring := markMinute e.2 x.2.ring })), totals := markMinute e.2 p.totals }).record
        0x0A0B e.1 0) m
    m.onPlots fun p => { p with missing := (m.ringMembers.filter (fun n => (m.member n).st = 1)).map fun n => (n, m.grid.minute) }

/-- Zones age with time and temperature (03 R156, R161): the highest model temperature of the minute over the groups of the bed's
acre. -/
def Mach.ageZones (m : Mach) : Mach :=
  let zs := (m.med.zones.filter (fun e => e.2.bound && !(m.ns (e.1 / 2 ^ 20)).headland)).map fun e => (e.1 / 2 ^ 20, e.1 % 2 ^ 20, e.2.bed)
  let m := zs.foldl (fun m z =>
    let a := bedAcre z.2.2
    let t := hottest ((List.range 4).map fun i => (m.senseAt (4 * a + i)).maxTemp)
    (m.updZone z.1 z.2.1 fun x => { x with retent := x.retent + agingFactor t }).ageZone z.1 z.2.1) m
  (List.range m.nGroups).foldl (fun m g => m.updSense g fun x => { x with maxTemp := x.temp }) m

/-- A background task in every acre that is up aggregates the tallies of a minute that closes (01 R17); the zone kind is the one whose tasks write records
(DESIGN CHOICE: notes/assumptions/137). -/
def Mach.tallyTasks (m : Mach) : Mach :=
  if m.tinesRun then ((List.range m.nAcres).filter m.acreUp).foldl (fun m a => m.place (mkTask .zone 3 a)) m else m

/-- Everything that the end of a tally minute brings: a worker's closed entries go to its manager, each with its plot in the reserved bytes 56 and 57 (10 R472; DESIGN
CHOICE: notes/assumptions/140), its records written to the hub region (07 R338); the host time is journalled while the epoch is valid (03 R157), and drift indices
are saved (05 R276). -/
def Mach.closeMinute (m : Mach) : Mach :=
  let m := m.missingTallies
  let minute := m.grid.minute
  let m := m.closeTally false
  let closed := m.plots.tbl.filterMap fun e => (e.2.ring.getLast?.filter (fun t => t.minute == minute)).map fun t => (e.1, t)
  let total := (m.plots.totals.getLast?.filter (fun t => t.minute == minute)).toList.map fun t => (0xFFFF, t)
  let m := if m.hitch.role = 2 then m.sendBack 0x33 0 (le 8 minute ++ (closed ++ total).flatMap fun e => (tallyBytes e.2).take 56 ++ le 2 e.1 ++ zeros 6) else m
  let m := m.ageZones
  let m := m.tallyTasks.hubWrite
  let m := (m.onMed fun x => { x with driftUnsaved := [] }).saveHub 0x13
  if m.grid.epoch then m.onBoot fun b => { b with hostNew := some m.gridNs } else m

/-- TALLY_MINUTE_BOUNDARY (02 R73, 09 R438). -/
def execTallyMinuteBoundary (s : State) : Host.Outcome State Fault Refusal :=
  .next (s.on fun _ m =>
    if !m.awake then m
    else
      let m := (m.gridTo (minuteStart (m.grid.minute + 1))).closeMinute
      m.onGrid fun g => { g with minute := g.minute + 1 })

/-! ## Adoption (02 R85, R86) -/

/-- Time without power is added when the grid first adopts a valid epoch, to every zone bound before the last reset (03 R157). -/
def Mach.addOffTime (host : Nat) (m : Mach) : Mach :=
  match m.boot.hostTime with
  | none => m
  | some saved =>
    let add := (host - saved) * 1048576 / 60000000000
    let zs := (m.med.zones.filter (fun e => e.2.bound && e.2.offTime && !(m.ns (e.1 / 2 ^ 20)).headland)).map (fun e => (e.1 / 2 ^ 20, e.1 % 2 ^ 20))
    zs.foldl (fun m z =>
      (m.updZone z.1 z.2 fun x => { x with retent := x.retent + add, offTime := x.offBefore }).ageZone z.1 z.2) m

/-- Adoption: the minute closes, grid time jumps to the host time predicted for this edge, and the epoch is valid. -/
def Mach.adopt (m : Mach) : Mach :=
  let first := !m.grid.epoch
  let brk := m.grid.adoptBreak
  let e := m.grid.offset - m.grid.sinceDlgSlew
  let m := if brk then
      ((m.onGrid fun g => { g with breaks := g.breaks + 1, breakFlag := true }).record 0x0202 (sat 32 (e.natAbs / 1000000)) 0).hubInt 10
    else m
  let m := m.closeMinute
  let t := (((m.grid.time : Nat) : Int) + e * (Config.gridNs : Nat)).toNat
  let ns := t / Config.gridNs
  let m := if first then m.addOffTime ns else m
  (m.setGrid .slew).onGrid fun g =>
    { g with time := t, furrow := ns / 8000, pass := ns / 1000000, minute := ns / 60000000000, epoch := true, adoptReady := false,
             adoptBreak := false, breakFlag := brk, slewSince := g.sinceDlgSlew + e, slew := 0, passLen := 1000000 - ns % 1000000 }

/-! ## Pass boundaries -/

/-- Trim and slew of the coming pass, and its length in host time (02 R83, R87, R98); the slew of the pass that ends has been applied whole. -/
def Mach.passClock (adopted : Bool) (m : Mach) : Mach :=
  m.onGrid fun g =>
    let since := g.slewSince + g.slew
    let left := g.offset - since
    let s : Int := if g.st ≠ .slew then 0 else if 8000 < left then 8000 else if left < -8000 then -8000 else left
    { g with trim := g.nextTrim, slew := s, slewSince := since, slewPasses := if s = 0 then g.slewPasses else g.slewPasses + 1,
             passLen := if adopted then g.passLen else (1000000 - s).toNat }

/-- An operational power state requested comes into force (11 R498). -/
def Mach.passPower (m : Mach) : Mach :=
  match m.power.want with
  | some p =>
    if p < 3 ∧ m.power.ps < 3 then
      let was := m.power.ps
      let m := m.onPower fun x => { x with ps := p, lastOp := p, want := none }
      if was = p then m else m.record 0x0B00 p 0
    else m
  | none => m

/-- The budget of the coming pass and its shares (02 R98, R100, R101; 11 R506). -/
def Mach.passBudget (c : Cfg) (m : Mach) : Mach :=
  let nj := m.fullPass * m.grid.passLen / 1000000
  let res := nj * c.rdRes / 100
  let sw := (List.range m.nSwaths).filter fun s => !m.fencedA (swathAcre s)
  let share := if sw.isEmpty then 0 else nj * 40 / 100 / sw.length
  m.onGrid fun g =>
    { g with budget := nj / 1000, reserve := res, base := sw.foldl (fun t s => Tbl.put 0 s share t) [], pool := nj - res - share * sw.length }

/-- Program concurrency and the Tight bound of every bed (01 R40, 02 R109 to R111). -/
def Mach.passBeds (c : Cfg) (m : Mach) : Mach :=
  ((List.range m.nBeds).foldl (fun m b => m.updBed b fun x => { x with pForce := Tbl.get 1 b c.bedP }) m).updWdAll c

/-- Counts that every pass adds to: passes not in LOCKED, and zones that count against active quotas (09 R438). -/
def Mach.passCounts (m : Mach) : Mach :=
  let m := m.onGrid fun g => { g with pass := g.pass + 1, passes := g.passes + 1, notLocked := if g.st = .locked then g.notLocked else g.notLocked + 1 }
  m.plots.tbl.foldl (fun m e =>
    let n := m.activeCount e.1
    if n = 0 then m else m.updPlot e.1 fun x => { x with acc := { x.acc with zonePasses := x.acc.zonePasses + n } }) m

/-- The PTM dialogue of the coming pass (02 R80, 11 R502); a worker awaits a TIME frame in each pass, and counts one that has not come as a
failed dialogue (10 R471). -/
def Mach.passDialogue (c : Cfg) (m : Mach) : Mach :=
  if m.hitch.role = 2 then
    if !m.hitch.admitted then m
    else
      let m := if m.grid.awaiting.isSome then m.dialogueFails 0 else m
      m.onGrid fun g => { g with awaiting := some m.clk.now }
  else if !m.ptmOn c || decide (3 ≤ m.power.ps) || m.grid.awaiting.isSome then m
  else if (if m.grid.st = .locked then c.ptmInt else 1) ≤ m.grid.sinceDlg + 1 then
    m.onGrid fun g => { g with awaiting := some m.clk.now, sinceDlg := 0 }
  else m.onGrid fun g => { g with sinceDlg := g.sinceDlg + 1 }

/-- A manager sends TIME to each member that is up (10 R471). -/
def Mach.sendTimes (m : Mach) : Mach :=
  if m.hitch.role ≠ 1 then m
  else (m.ringMembers.filter (fun n => (m.member n).st = 1)).foldl (fun m n => m.sendBody 0x06 n (m.pathPort n) 0 (le 8 m.gridNs ++ le 8 m.grid.pass)) m

/-- PASS_BOUNDARY (02 R73, R98): with the readings of the diodes in 1/16 °C. -/
def execPassBoundary (diodes : List Int) (s : State) : Host.Outcome State Fault Refusal :=
  .next (s.on fun c m =>
    if !m.awake then m
    else
      let m := ((m.gridTo (passStart (m.grid.pass + 1))).passEnergy).passDiodes diodes
      let m := m.passCounts
      let go := m.grid.st == .adopt && m.grid.adoptReady
      let m := if go then m.adopt else m
      let m := ((m.passClock go).passPower).passBeds c
      ((m.passBudget c).passDialogue c).sendTimes)

end Sys2Proof.Machine
end

