-- ==== Sys2Proof/Machine/Resets.lean ====
section
/-! DEFINITION. Warm and cold resets (00_scope R10; 12 R533 to R538), the power-fail dump (11 R524, R527, R528; 16 R655), the thermal trip (11
R519 to R523), and the start of a warm start. -/

namespace Sys2Proof.Machine

/-! ## What a reset leaves -/

/-- The program that a reset of the controller, or a time-out before it, interrupted on a die (05 R250). -/
def Die.cutProgram (d : Die) : Option SlotReq :=
  let prog : Option SlotReq → Option SlotReq := fun o => match o with
    | some r => if r.op = DieOp.program then some r else none
    | none => none
  match prog d.timedOut with
  | some r => some r
  | none => if d.st == DieState.programming || d.st == DieState.suspProgramming then prog d.op else none

/-- What the headland and the die itself keep of a die. `op` keeps an interrupted program until replay. -/
def Die.restart (d : Die) : Die :=
  { Die.init with
      op := d.cutProgram, populated := d.populated, spares := d.spares, initSpares := d.initSpares, used := d.used, retired := d.retired,
      bad := d.bad, pe := d.pe, headPe := d.headPe, good := d.good }

/-- What the headland keeps of a bed. Isolation is loaded again at the end of replay. -/
def Bed.restart (b : Bed) : Bed :=
  { Bed.init with
      bound0 := b.bound0, bound1 := b.bound1, ret0 := b.ret0, ret1 := b.ret1, hslots := b.hslots, worn := b.worn, lowSpare := b.lowSpare,
      noted := b.noted, prof := b.prof }

def Ns.restart (n : Ns) : Ns := { n with dflt := n.dfltSaved, unwritten := n.unwrittenSaved, safe := false, mapBufs := [], deleting := 0 }
/-- Nothing that was admitted and not committed survives (04 R200 step 5). -/
def Zone.restart (z : Zone) : Zone := { z with adm := z.wp, lastAdm := 0 }
/-- What the headland keeps of a plot, and its tally minute in progress. -/
def Plot.restart (p : Nat) (x : Plot) : Plot :=
  { (if p = 0 then Plot.init0 else Plot.init) with
      key := x.key, saved := x.saved, acc := x.acc, ring := x.ring, saveSeq := x.saveSeq, quotaSaved := x.quotaSaved, portSaved := x.portSaved }

def mapTbl {α : Type} [DecidableEq α] (d : α) (f : Nat → α → α) (t : Tbl α) : Tbl α :=
  t.foldr (fun e acc => Tbl.put d e.1 (f e.1 e.2) acc) []

/-- The media and what the journals hold of them. Units stay until replay has told which of them the last dump holds. -/
def Media.restart (x : Media) : Media :=
  { Media.reset with
      ns := mapTbl Ns.init (fun _ n => n.restart) x.ns, zones := mapTbl Zone.init (fun _ z => z.restart) x.zones, store := x.store,
      units := x.units, beds := mapTbl Bed.init (fun _ b => b.restart) x.beds, dies := mapTbl Die.init (fun _ d => d.restart) x.dies,
      till := x.till, drift := x.drift, driftUnsaved := x.driftUnsaved, lastSweep := x.lastSweep, errLog := x.errLog,
      mediaErrs := x.mediaErrs, nextId := x.nextId }

/-- The tally minute in progress is kept by a complete dump, and closed incomplete otherwise (09 R440). -/
def Mach.minuteAtReset (m : Mach) : Mach :=
  if m.boot.phase ≠ 9 ∨ m.boot.lastEnd = 2 then m
  else
    let short := (m.plots.tbl.filter (fun e => e.2.counts)).map (fun e => e.1)
    (m.closeTally true).onBoot fun b => { b with tallyShort := short }

/-- The boot records of a service that ends: its saved host time is what it wrote itself with a valid epoch (03 R157); before start-up complete the
previous dump stays valid (12 R536). -/
def Mach.bootAtReset (cold restart : Bool) (m : Mach) : Boot :=
  let b := m.boot
  { Boot.reset with
      dumpsMade := b.dumpsMade, lastDumpMs := b.lastDumpMs, tallyShort := b.tallyShort, restart := restart,
      lastEnd := if b.phase = 8 ∧ cold = false then (if b.dumpRes = 1 then 2 else if b.dumpRes = 2 then 3 else 1) else b.lastEnd,
      dumpUnits := b.dumpUnits, hostTime := if b.phase = 9 then b.hostNew else b.hostTime, isoOwner := b.isoOwner,
      savedC0 := b.savedC0, records := b.records, session := b.session,
      fencedLast := if b.phase = 0 then b.fencedLast else (List.range m.nAcres).filter fun a => m.fencedA a || m.fencingA a }

/-- A slot being written is invalid after a reset (13 R578). -/
def Img.slotsAtReset (i : Img) : Tbl Slot :=
  match i.writing with
  | some w => Tbl.put Slot.init w.1 Slot.init i.slots
  | none => i.slots

/-- A warm reset (00_scope R10): the warm domain and every domain below it take their reset values; the always-on domain, the media, the
headland and the boot flash keep theirs. -/
def Mach.warmReset (cold nssro restart : Bool) (m : Mach) : Mach :=
  let m := m.minuteAtReset
  { Mach.reset with
      clk := m.clk,
      hub := { Hub.reset with part := m.hub.part, stepping := m.hub.stepping, serial := m.hub.serial, lostAfter := m.hub.lostAfter,
                              freeCtr := m.hub.freeCtr },
      front := { Front.reset with bar0 := if nssro then Tbl.put Bar0.init 0 { Bar0.init with nssro := true } [] else [] },
      med := m.med.restart,
      plots := { Plots.reset with tbl := mapTbl Plot.init Plot.restart m.plots.tbl, migKeys := m.plots.migKeys, keyVals := m.plots.keyVals, totals := m.plots.totals,
                                  minuteE := m.plots.minuteE, overhead := m.plots.overhead, minuteOps := m.plots.minuteOps,
                                  keyCount := m.plots.keyCount },
      heat := { Heat.reset with savedC3 := m.heat.savedC3, trips := m.heat.trips, active := m.heat.active, backstop := m.heat.backstop,
                                lastEst := m.heat.lastEst, tripDie := m.heat.tripDie, tripAt := m.heat.tripAt, coolAt := m.heat.coolAt,
                                thermtrip := m.heat.thermtrip },
      power := { Power.reset with pfail := m.power.pfail, pfailOffAt := m.power.pfailOffAt },
      boot := m.bootAtReset cold restart,
      img := { Img.reset with slots := m.img.slotsAtReset, floor := m.img.floor, mirror := m.img.mirror, mirrorSec := m.img.mirrorSec, epochFuse := m.img.epochFuse,
                              revoked := m.img.revoked },
      polez := { Polez.reset with framing := m.polez.framing, alert2 := m.polez.alert2, alert3 := m.polez.alert3 },
      ybk := { Ybk.reset with journal := m.ybk.journal, journalOld := m.ybk.journalOld, unitsDone := m.ybk.unitsDone, journalFree := m.ybk.journalFree,
                              bootEntries := m.ybk.bootEntries, bootImages := m.ybk.bootImages, savedDeflt := m.ybk.savedDeflt,
                              savedIvals := m.ybk.savedIvals } }

/-- A warm reset of the whole state; HUB_SCRATCH is in the cold domain (15 R642). -/
def State.warmReset (nssro restart : Bool) (s : State) : State :=
  { s with cfg := Cfg.reset s.cfg.scratch, m := s.m.warmReset false nssro restart }

/-! ## The power-fail dump (11 R524) -/

/-- A program is in progress on a die. -/
def Mach.progRunning (m : Mach) : Bool := m.med.dies.any fun e => e.2.st == .programming || e.2.st == .suspProgramming

/-- Steps 1 to 4 (11 R524): fetch stops; commands not past their commit point are squashed; a non-operational state is left; running erases
are suspended whatever their count; every merge buffer empties. A dump-start record comes first (12 R556). -/
def Mach.beginDump (c : Cfg) (cause : Nat) (m : Mach) : Mach :=
  let m := m.discardWhere fun k => !k.committed && k.stage != .done && k.stage != .finished
  let m := m.onPower fun p => { p with entering := none, closing := false, entryCmd := 0, want := none }
  let m := m.wake c m.power.lastOp
  let m := m.erasing.foldl (fun m d => m.suspendDie d m.clk.now) m
  let m := (List.range m.nAcres).foldl (fun m a => if m.acreUp a then m.emptyMerge a else m) m
  let m := m.onPower fun p => { p with dumping := true, dumpCause := cause, dumpAt := m.clk.now, dumpDoneF := false }
  m.onBoot fun b => { b with lastEnd := 3 }

/-- A data unit whose bytes are not on its die: folded units lie in no die (06 R296). -/
def PUnit.dirty (u : PUnit) : Bool := !(u.done && u.issued) && decide (0 < u.bytes)

/-- Apply every occurrence that waits (14 R604). -/
def Mach.applyAll (m : Mach) : Mach :=
  (List.range m.ybk.queue.length).foldl (fun m _ =>
    match m.nextOcc with
    | some o => (m.onYbk fun y => { y with queue := y.queue.erase o }).applyOcc o
    | none => m) m

/-- Steps 5 to 7 (11 R524): the dirty units, the metadata, and the valid mark; every NFcc_WP_N is driven low. -/
def Mach.endDump (m : Mach) : Mach :=
  let ms := (m.clk.now - m.power.dumpAt) / Config.edgesPerMs
  let m := if m.power.dumpCause = 1 then m.record 0x0B09 ms 0 else m
  let m := ((m.applyAll).dumpBook).timeBase
  let salvaged := m.boot.dumpUnits.filter fun u => m.fencedA (bedAcre (m.zone u.nsid u.zone).bed)
  let m := m.onBoot fun b =>
    { b with dumpUnits := salvaged ++ m.med.units.filter PUnit.dirty, lastEnd := 2, dumpsMade := sat 16 (b.dumpsMade + 1),
             lastDumpMs := sat 12 ms, hostNew := if m.grid.epoch then some m.gridNs else b.hostNew }
  let m := (m.onMed fun x => { x with driftUnsaved := [] }).saveHub 0x13
  let m := (List.range m.nChans).foldl (fun m i => m.updChan i fun x => { x with inService := false }) m
  m.onPower fun p => { p with dumpDoneF := true }

/-- The dump can be marked complete: it runs, and no program is in progress. -/
def Mach.dumpEnds (m : Mach) : Bool := m.power.dumping && !m.power.dumpDoneF && !m.progRunning

/-- PWRFAIL_N counts as asserted (11 R524). One dump serves a failure that finds a dump running (11 R528, 12 R535). Before start-up complete
nothing can have been admitted, and the previous dump stays (12 R536). -/
def Mach.powerFails (c : Cfg) (m : Mach) : Mach :=
  if !m.awake then m
  else
    let m := m.onPower fun p => { p with pfail := true, pfailOffAt := none }
    if m.power.dumping then m.onPower fun p => { p with dumpCause := if p.dumpCause = 3 then 1 else p.dumpCause }
    else if m.heat.active then m
    else if m.inService then m.beginDump c 1
    else m.onPower fun p => { p with dumping := true, dumpCause := 1, dumpAt := m.clk.now, dumpDoneF := true }

/-- POWER_FAIL (11 R524). -/
def execPowerFail (at_ : Nat) (s : State) : Host.Outcome State Fault Refusal :=
  .next (s.on fun c m => (m.advance at_).powerFails c)

/-- SUPPLY_OUT_OF_LIMITS (16 R655): 2 µs or longer outside the limits while PWRFAIL_N is deasserted acts as its assertion; the pin
itself stays deasserted, which governs the end of the dump (11 R527). -/
def execSupplyOutOfLimits (us : Nat) (at_ : Nat) (s : State) : Host.Outcome State Fault Refusal :=
  .next (s.on fun c m =>
    let m := m.advance at_
    if decide (us < 2) || m.power.pfail || !m.awake then m
    else (m.powerFails c).onPower fun p => { p with pfailOffAt := some m.clk.now })

/-- DUMP_DONE (11 R524 steps 5 to 7). The warm reset of a pre-reset dump follows its valid mark (12 R535). -/
def execDumpDone (at_ : Nat) (s : State) : Host.Outcome State Fault Refusal :=
  let s := s.on fun _ m => m.advance at_
  if !s.m.dumpEnds then .next s
  else
    let ms := (s.m.clk.now - s.m.power.dumpAt) / Config.edgesPerMs
    let s := s.on fun _ m => m.endDump
    if s.m.power.dumpCause = 3 then
      .next ((s.warmReset (s.m.bar0 0).nssro false).on fun _ m => m.record 0x0C0A ms 0)
    else .next s

/-- The power failure no longer holds the restart: PWRFAIL_N has stayed deasserted for 100 ms and the dump has run to its end (11 R527). -/
def Mach.pfailOver (m : Mach) : Bool :=
  match m.power.pfailOffAt with
  | some t => m.power.dumpDoneF && decide (t + 100 * Config.edgesPerMs ≤ m.clk.now)
  | none => false

/-- The restart after a trip or a power failure (11 R522, R527, R528): a warm reset, with THERMTRIP_N deasserted. -/
def State.restart (s : State) : State :=
  let s := s.on fun _ m => (m.onHeat fun h => { h with active := false, thermtrip := false, gated := false }).onPower fun p =>
    { p with pfail := false, pfailOffAt := none }
  s.warmReset false true

/-- POWERFAIL_DEASSERT (11 R527): PWRFAIL_N is deasserted, or has stayed so. -/
def execPowerfailDeassert (at_ : Nat) (s : State) : Host.Outcome State Fault Refusal :=
  let s := s.on fun _ m => m.advance at_
  if !s.m.power.pfail then .next s
  else if s.m.power.pfailOffAt.isNone then .next (s.on fun _ m => m.onPower fun p => { p with pfailOffAt := some m.clk.now })
  else if s.m.pfailOver && !s.m.heat.active then .next s.restart
  else .next s

/-! ## The thermal trip (11 R519 to R522) -/

/-- 130 °C and 100 °C in 1/16 °C. -/
def tripLimit : Int := 2080
def coolLimit : Int := 1600

/-- The reading of a die that the always-on domain compares: an estimate not written for 1 s counts as 130 °C (11 R519). -/
def Mach.tripReading (readings : List Int) (m : Mach) (d : Nat) : Int :=
  let x := m.diode d
  if x.fail = 0 then readings.getD d x.temp
  else if x.estAt + Config.edgesPerSec ≤ m.clk.now then tripLimit
  else x.temp

/-- A trip from a die (11 R520): fetch and grants stop, commands without a posted completion are never completed, and the dump runs. -/
def Mach.trip (c : Cfg) (die : Nat) (hot : Int) (m : Mach) : Mach :=
  let est := (m.diode die).fail != 0
  let m := m.onHeat fun h =>
    { h with trips := sat 16 (h.trips + 1), active := true, backstop := false, lastEst := est, tripDie := die, tripAt := m.clk.now, coolAt := none,
             gated := false }
  let m := (m.record 0x0B06 (hot / 16).toNat 0).onPolez fun x => { x with alert3 := true }
  let m := if m.power.dumping then m
    else if m.inService then m.beginDump c 2
    else m.onPower fun p => { p with dumping := true, dumpCause := 2, dumpAt := m.clk.now, dumpDoneF := true }
  m.onFront fun f => { f with inflight := [] }

/-- TRIP_SAMPLE (11 R519, R522): every 40 µs, with the readings of the diodes. -/
def execTripSample (readings : List Int) (at_ : Nat) (s : State) : Host.Outcome State Fault Refusal :=
  .next (s.on fun c m =>
    let m := m.advance at_
    if m.clk.coldHeld then m
    else
      let ts := (List.range m.nDiodes).map fun d => (d, m.tripReading readings d)
      let m := ts.foldl (fun m t => m.updDiode t.1 fun x => { x with hot := if tripLimit ≤ t.2 then Nat.min 2 (x.hot + 1) else 0 }) m
      let m := m.onHeat fun h =>
        { h with coolAt := if h.active && ts.all (fun t => decide (t.2 < coolLimit)) then (match h.coolAt with | some t => some t | none => some m.clk.now)
                   else none }
      if m.heat.active then m
      else match (List.range m.nDiodes).find? (fun d => decide (2 ≤ (m.diode d).hot)) with
        | some d => m.trip c d (hottest (ts.map (fun t => t.2)))
        | none => m)

/-- Steps 4 to 6 of a trip (11 R520): the acres are gated, THERMTRIP_N is asserted, and the PCIe link is dropped. -/
def Mach.gate (m : Mach) : Mach :=
  let m := (List.range m.nChans).foldl (fun m i => m.updChan i fun x => { x with inService := false }) m
  ((m.onHeat fun h => { h with gated := true, thermtrip := true }).onBoot fun b => { b with link := [], eq := [] }).onGrid fun g =>
    { g with linkUp := [] }

/-- TRIP_DUMP_DONE (11 R520): programs and the dump have ended. -/
def execTripDumpDone (at_ : Nat) (s : State) : Host.Outcome State Fault Refusal :=
  .next (s.on fun _ m =>
    let m := m.advance at_
    if !m.heat.active || m.heat.gated then m
    else
      let m := if m.dumpEnds then m.endDump else m
      if m.power.dumpDoneF then m.gate else m)

/-- TRIP_BACKSTOP (11 R521): 250 ms after the trip without the dump done. -/
def execTripBackstop (at_ : Nat) (s : State) : Host.Outcome State Fault Refusal :=
  .next (s.on fun _ m =>
    let m := m.advance at_
    if !m.heat.active || m.heat.gated || m.power.dumpDoneF || decide (m.clk.now < m.heat.tripAt + 250 * Config.edgesPerMs) then m
    else ((m.gate).onHeat fun h => { h with backstop := true }).record 0x0B07 (ceilDiv m.stg.dirty mib) 0)

/-- TRIP_RESTART (11 R522, R528): every diode has stayed below 100 °C for 30 s, and no power failure holds the restart. -/
def execTripRestart (at_ : Nat) (s : State) : Host.Outcome State Fault Refusal :=
  let s := s.on fun _ m => m.advance at_
  let cool := match s.m.heat.coolAt with
    | some t => decide (t + 30 * Config.edgesPerSec ≤ s.m.clk.now)
    | none => false
  if s.m.heat.active && s.m.heat.gated && cool && (!s.m.power.pfail || s.m.pfailOver) then
    let sec := (s.m.clk.now - s.m.heat.tripAt) / Config.edgesPerSec
    .next (s.restart.on fun _ m => m.record 0x0B08 sec 0)
  else .next s

/-! ## Resets from outside (12 R533 to R537) -/

/-- A reset from outside while the controller runs: in service the dump of 11 R524 comes first (12 R535), before start-up complete the
warm reset comes at once (12 R536). One that finds a dump running shares it; after a trip's dump there is no other. -/
def State.outsideReset (s : State) : State :=
  if !s.m.awake then s
  else if s.m.power.dumping && !s.m.power.dumpDoneF then s
  else if s.m.inService && !s.m.power.dumping then s.on fun c m => m.beginDump c 3
  else s.warmReset (s.m.bar0 0).nssro false

/-- PTM that is disabled or whose link is down leaves the grid FREE (02 R82). -/
def Mach.linkFree (c : Cfg) (m : Mach) : Mach := if m.ptmOn c then m else m.toFree

/-- PERST_ASSERT (12 R535, R536): the link of port 0 goes down on the assertion edge. -/
def execPerstAssert (at_ : Nat) (s : State) : Host.Outcome State Fault Refusal :=
  let s := s.on fun c m =>
    let m := (m.advance at_).updBar0 0 fun b => { b with nssro := false }
    ((m.onBoot fun b => { b with link := Tbl.put false 0 false b.link, eq := Tbl.put false 0 false b.eq }).onGrid fun g =>
      { g with linkUp := Tbl.put false 0 false g.linkUp }).linkFree c
  .next s.outsideReset

/-- NVM_SUBSYSTEM_RESET (15 R621, 12 R535): a write of NSSR; another value, or another plot, is ignored. -/
def execNvmSubsystemReset (plot : Nat) (value : Word) (s : State) : Host.Outcome State Fault Refusal :=
  if plot = 0 ∧ value = 0x4E564D65 ∧ s.m.barUp 0 = true then
    .next ((s.on fun _ m => m.updBar0 0 fun b => { b with nssro := true }).outsideReset)
  else .next s

/-- PERST1_ASSERT (12 R537): in the 2 × x8 mode the plots of port 1 act as if VF Enable had been cleared. Its link goes down and its PTM is disabled, on which
a grid that follows it goes to FREE (02 R82). -/
def execPerst1Assert (at_ : Nat) (s : State) : Host.Outcome State Fault Refusal :=
  .next (s.on fun c m =>
    let m := m.advance at_
    if !m.awake || !m.boot.straps.portMode then m
    else
      let m := (m.plotsOn 1 (Tbl.get 0 1 m.plots.vfEn)).foldl (fun m p => m.makeAbsent p) m
      let m := m.onPlots fun x => { x with vfEn := Tbl.put 0 1 0 x.vfEn }
      let m := m.onBoot fun b => { b with link := Tbl.put false 1 false b.link, eq := Tbl.put false 1 false b.eq }
      let m := m.onGrid fun g => { g with linkUp := Tbl.put false 1 false g.linkUp, ptmEn := Tbl.put false 1 false g.ptmEn }
      m.linkFree c)

/-- COLD_RESET_RELEASE (12 R533, 14 R601): VDD_AON and the reference have held for 2 ms; the powered-time counter starts at zero. -/
def execColdResetRelease (at_ : Nat) (s : State) : Host.Outcome State Fault Refusal :=
  .next (s.on fun _ m =>
    let m := m.advance at_
    if !m.clk.coldHeld then m
    else m.onClk fun k => { k with powered := true, coldHeld := false, releasedAt := k.now, basesLoaded := false, secBase := 0, cycBase := 0 })

/-- LOSS_OF_POWER (12 R561): VDD_AON falls, and the cold reset is held from its rise on. What a dump had not marked is lost. -/
def execLossOfPower (s : State) : Host.Outcome State Fault Refusal :=
  let m := s.m.warmReset true false false
  let m := { m with
    heat := { Heat.reset with savedC3 := m.heat.savedC3 }, power := Power.reset, polez := Polez.reset }
  let m := m.onClk fun k =>
    { k with powered := false, coldHeld := true, basesLoaded := false, secBase := 0, cycBase := 0, releasedAt := k.now }
  .next { s with cfg := Cfg.reset [], m := m }

/-! ## The warm start (12 R534, R538; 14 R601, R609) -/

/-- The time base of the first warm start after a cold reset (14 R601 step 2). -/
def Mach.loadBases (m : Mach) : Mach :=
  if m.clk.basesLoaded then m
  else (m.onClk fun k =>
    { k with basesLoaded := true, secBase := if k.entryValid then k.entrySec else 0, cycBase := if k.entryValid then k.entryCyc + 1 else 1 }).timeBase

/-- WARM_START (12 R534): every condition holds, the straps are latched (R538), and the boot ROM starts phase 1 with every Media Guard bit
set (05 R279); SPI_RESET_N is asserted for 10 µs (16 R661). ROLE 0b11 comes up standalone with both hitch ports in reset (10 R452); SVC_EN of a worker is ignored (10 R453). -/
def execWarmStart (straps : Straps) (suppliesGood perstHigh : Bool) (at_ : Nat) (s : State) : Host.Outcome State Fault Refusal :=
  .next (s.on fun _ m =>
    let m := m.advance at_
    if m.awake || m.clk.coldHeld || !suppliesGood || !perstHigh || m.heat.active || m.power.pfail then m
    else
      let st : Straps := { straps with role := straps.role % 4 }
      let m := m.onBoot fun b => { b with straps := st, phase := 1, warmAt := m.clk.now, session := b.session + 1, flashMode := 0, spiReset := m.clk.now + 10 * Config.edgesPerUs }
      let m := m.onHitch fun _ =>
        { Hitch.reset with role := if st.role = 3 then 0 else st.role,
                           ports := if st.role = 1 ∨ st.role = 2 then [(0, { HPort.init with st := 1 }), (1, { HPort.init with st := 1 })] else [] }
      m.loadBases)

end Sys2Proof.Machine
end

