-- ==== Sys2Proof/Machine/Startup.lean ====
section
/-! DEFINITION. Start-up (12 R540 to R562): the phases, NAND and DRAM bring-up, headland replay, start-up complete; the checks of an image and
the floors (13 R563 to R573). -/

namespace Sys2Proof
open Sys2Proof.Machine

/-! ## Die profiles at start-up (05 R236) -/

/-- A Gnotas header of 4,096 bytes (13 R563), its signature verified (R564): r and s are big-endian. -/
def ImageHdr.ofBytes (bs : List Byte) : ImageHdr :=
  { magic := leAt bs 0 4, format := leAt bs 4 2, family := leAt bs 6 2, parts := leAt bs 8 2, hdrLen := leAt bs 12 4,
    crcOk := crc32c (window bs 0 4092) == leAt bs 4092 4, version := leAt bs 16 8, epoch := leAt bs 24 1, keyIndex := leAt bs 25 1,
    live := (leAt bs 26 2).testBit 0, bodyLen := leAt bs 28 4, digest := leAt bs 32 48, stateFmt := leAt bs 80 2, oldestFmt := leAt bs 82 2,
    sigOk := ecdsaValid (Config.imageKey (leAt bs 25 1)) (sha384 (window bs 0 3968)) (leAt (window bs 3968 48).reverse 0 48)
      (leAt (window bs 4016 48).reverse 0 48) }

/-- A power declaration block (11 R493). -/
def PowerDecl.ofBytes (bs : List Byte) : PowerDecl :=
  { bMax := leAt bs 0 2, pDump := leAt bs 2 2, eHold := leAt bs 4 4, overhead := leAt bs 8 2,
    fullScale := (List.range 16).map fun g => leAt bs (16 + 2 * g) 2, ra := leAt bs 48 2, tauA := leAt bs 50 2, rb := leAt bs 52 2,
    tauB := leAt bs 54 2, tRef := leAt bs 56 1 }

/-- The block of a board record; one that fails its magic or CRC-32C counts as absent (13 R573). -/
def boardDecl (bs : List Byte) : Option PowerDecl :=
  if leAt bs 0 4 = 0x4A445242 ∧ leAt bs 12 4 = crc32c (window bs 16 4080) then some (PowerDecl.ofBytes (bs.drop 64)) else none

/-- The profile that a die matches: the one whose identification it answers with, the reference profile where `idents` names nothing of it; none for a die
that does not answer, has no correct parameter page or matches no profile (05 R236; 12 R544 steps 3 and 4). -/
def PhaseInfo.profileOf (info : PhaseInfo) (d : Nat) : Option Profile :=
  if info.unmatched.contains d then none
  else match info.idents.find? (fun e => e.1 == d) with
    | none => some Profile.ref
    | some e => info.profiles.find? (fun p => p.ident == e.2)

/-- The profile of a bed: that of the most of its dies, that of the lower-numbered channel on a tie (05 R236). -/
def PhaseInfo.bedProfile (info : PhaseInfo) (b : Nat) : Option Profile :=
  let ps := (bedDies b).filterMap info.profileOf
  (ps.map fun p => (p, ps.count p)).foldl (fun (best : Option (Profile × Nat)) e =>
    match best with
    | some x => if x.2 < e.2 then some e else some x
    | none => some e) none |>.map fun e => e.1

end Sys2Proof

namespace Sys2Proof.Machine

/-! ## Image checks and floors (13 R563 to R573) -/

/-- The first of checks 1 to 7 that a header fails, 0 when it passes them all (13 R565). A key index above 3 selects no key. -/
def Mach.headerCheck (m : Mach) (floor : Nat) (h : ImageHdr) : Nat :=
  if h.magic ≠ 0x53544E47 ∨ h.format ≠ 1 ∨ h.hdrLen ≠ 4096 ∨ h.crcOk = false then 1
  else if h.family ≠ 1 ∨ h.parts.testBit (b2n m.hub.part) = false then 2
  else if h.bodyLen = 0 ∨ 2617344 < h.bodyLen then 3
  else if m.img.revoked.contains h.keyIndex then 4
  else if h.sigOk = false ∨ 3 < h.keyIndex then 5
  else if h.epoch < m.img.epochFuse ∨ 128 < h.epoch then 6
  else if h.version < floor then 7
  else 0

def Mach.slot (m : Mach) (i : Nat) : Slot := Tbl.get Slot.init i m.img.slots
/-- Slot `i` passes checks 1 to 8 against a version floor. -/
def Mach.slotPasses (m : Mach) (floor i : Nat) : Bool :=
  match (m.slot i).hdr with
  | some h => (m.slot i).bodyOk && m.headerCheck floor h == 0
  | none => false
def Mach.slotVersion (m : Mach) (i : Nat) : Nat := match (m.slot i).hdr with | some h => h.version | none => 0

/-- The slot that the boot ROM uses: the higher version among those that pass, slot 0 on a tie (13 R572). -/
def Mach.bootSlot (m : Mach) : Option Nat :=
  match m.slotPasses m.img.mirror 0, m.slotPasses m.img.mirror 1 with
  | true, true => some (if m.slotVersion 0 < m.slotVersion 1 then 1 else 0)
  | true, false => some 0
  | false, true => some 1
  | false, false => none

/-- A write of the floor mirror goes to the sector that does not hold the newest copy (13 R567). -/
def Mach.writeMirror (v : Nat) (m : Mach) : Mach := m.onImg fun i => { i with mirror := v, mirrorSec := 3 - i.mirrorSec }

/-- An image has been activated: the version floor rises to it, mirror first, then the headland record, and epoch fuses are blown up to
its epoch (13 R568). -/
def Mach.raiseFloors (slot : Nat) (h : ImageHdr) (m : Mach) : Mach :=
  let m := if m.img.floor < h.version ∨ m.img.mirror < h.version then
      (((m.writeMirror h.version).onImg fun i => { i with floor := h.version }).saveHub 0x14).record 0x0D07 slot 0
    else m
  if m.img.epochFuse < h.epoch then (m.onImg fun i => { i with epochFuse := h.epoch }).record 0x0D08 h.epoch 0 else m

/-- Start-up stops at phase 2, or at the end of replay, and the recovery path is entered (12 R543; 13 R567, R585). -/
def Mach.recoveryPath (m : Mach) : Mach :=
  ((m.onBoot fun b => { b with phase := 15, recovery := true }).onYbk fun y => { y with mode := 3 }).record 0x0D09 2 0

/-! ## Phase 1: the board record (11 R493, R494) -/

/-- Offset of the first field of a power declaration that is outside its range. -/
def badField (d : PowerDecl) : Option Nat :=
  let rng := fun (lo hi v : Nat) => decide (lo ≤ v) && decide (v ≤ hi)
  let l : List (Nat × Bool) := [(0, rng 10 120 d.bMax), (2, rng 20 400 d.pDump), (4, rng 0 4294967295 d.eHold), (8, rng 0 200 d.overhead)] ++
    (List.range 16).map (fun g => (16 + 2 * g, rng 1 65535 (d.fullScale.getD g 0))) ++
    [(48, rng 1 2000 d.ra), (50, rng 10 6000 d.tauA), (52, rng 1 2000 d.rb), (54, rng 10 36000 d.tauB), (56, rng 0 85 d.tRef)]
  (l.find? (fun e => !e.2)).map (fun e => e.1)

/-- The end of phase 1: the power declaration is taken, or its defaults, and the boot flash is read in the fastest mode that it advertises (12 R542). -/
def Mach.phaseOne (info : PhaseInfo) (m : Mach) : Mach :=
  let r : PowerDecl × Option Nat := match boardDecl info.board with
    | none => (PowerDecl.dflt, some 65535)
    | some d => match badField d with
      | some o => (PowerDecl.dflt, some o)
      | none => (d, none)
  let m := match r.2 with | some o => m.record 0x0B0B o 0 | none => m
  ((m.onPower fun p => { p with decl := r.1 }).onHeat fun h => { h with budgetW := r.1.bMax }).onBoot fun b =>
    { b with phase := 2, flashMode := (info.flashModes.filter (fun k => decide (k ≤ 2))).foldl Nat.max 0 }

/-! ## Phase 2: the image, and the self-test (13 R572; 01 R45, R46, R53) -/

/-- An acre that comes up fenced: nothing is staged, so nothing is salvaged (12 R543). -/
def Mach.bootFence (c : Cfg) (a cause : Nat) (m : Mach) : Mach := (m.fenceStart a cause).fenceEnd c a 0

/-- Tines that fail their self-test stay quarantined; a swath left with fewer than two, or an acre that fails, fences the acre. -/
def Mach.selfTests (c : Cfg) (info : PhaseInfo) (m : Mach) : Mach :=
  let m := ((info.badTines.filter (fun t => decide (t < m.nTines)))).foldl (fun m t => m.setTine t { (m.tine t) with quar := true }) m
  let m := (List.range m.nSwaths).foldl (fun m sw => if m.healthy sw < 2 then m.bootFence c (swathAcre sw) 4 else m) m
  (info.badAcres.filter (fun a => decide (a < m.nAcres))).foldl (fun m a => m.bootFence c a 6) m

/-- The end of phase 2: the body is loaded and verified, or start-up stops. -/
def Mach.phaseTwo (c : Cfg) (info : PhaseInfo) (m : Mach) : Mach :=
  let m := m.onImg fun i => { i with valid := [0, 1].filter (fun k => m.slotPasses i.mirror k) }
  match m.bootSlot with
  | none => (m.record 0x0C01 2 0).recoveryPath
  | some k =>
    let m := m.onImg fun i => { i with running := k, runHdr := (m.slot k).hdr, version := m.slotVersion k }
    (m.selfTests c info).onBoot fun b => { b with phase := 3, slot := k }

/-! ## Phases 3 to 6: NAND and DRAM (12 R544 to R546; 07 R334 to R336, R351 to R361) -/

/-- The port populations of 07 R334: width code, density code, ranks, capacity. -/
def populations : List (Nat × Nat × Nat × Nat) :=
  [(2, 0, 1, 8), (2, 0, 2, 16), (2, 1, 1, 16), (2, 1, 2, 32), (1, 0, 1, 16), (1, 0, 2, 32), (1, 1, 1, 32)]

/-- A bed takes its profile, and those of its dies that match it are populated; every other die is unpopulated, recorded where it answers (05 R236). Dies of
a profile that is new to the bed start with its good blocks and spares (03 R121; notes/assumptions/101). -/
def Mach.populate (info : PhaseInfo) (b : Nat) (m : Mach) : Mach :=
  match info.bedProfile b with
  | none => (bedDies b).foldl (fun m d => if (m.die d).populated then m.updDie d fun x => { x with populated := false } else m) m
  | some p =>
    let new := decide ((m.bed b).prof ≠ p)
    let m := (bedDies b).foldl (fun m d =>
      let fits := info.profileOf d == some p
      let m := m.updDie d fun x =>
        { x with populated := fits, good := if fits && new then p.minGood else x.good,
                 spares := if fits && new then p.sparesOf p.minGood else x.spares,
                 initSpares := if fits && new then p.sparesOf p.minGood else x.initSpares }
      if !fits && !info.unmatched.contains d then m.record 0x050E b (bedAcre b + 1) else m) m
    m.updBed b fun x => { x with prof := p }

/-- The common ladder of a channel: the rungs of every profile of its dies (05 R228). -/
def Mach.commonLadder (m : Mach) (ch : Nat) : List (Nat × Nat) :=
  match (((List.range 32).map fun i => 32 * ch + i).filter m.dieUp).map fun d => (m.bed (dieBed d)).prof.ladder with
  | [] => []
  | l :: t => l.filter fun r => t.all fun k => k.contains r

/-- A channel of a group at the VCCQ measured is trained at its safe rate, the lowest rung of its common ladder that is allowed (05 R227, R228; 12 R544
step 5); a channel with dies and no rung allowed cannot pass and fails with those that do not (DESIGN CHOICE: notes/assumptions/131). -/
def Mach.safeRate (c : Cfg) (info : PhaseInfo) (ch : Nat) (m : Mach) : Mach :=
  let m := m.updChan ch fun x => { x with vccq12 := !(info.vccq18.getD (chanGroup ch) false), ladder := m.commonLadder ch }
  let x := m.chan ch
  match x.allowed.getLast? with
  | none => if x.ladder.isEmpty && !info.badChans.contains ch && !(List.range 32).any (fun i => m.dieUp (32 * ch + i)) then m else m.failChannel c ch
  | some r => if info.badChans.contains ch then m.failChannel c ch else m.updChan ch fun x => { x with mode := r.1, rate := r.2 }

/-- A DRAM port starts to train at the highest rate that its population and TARGET allow, or its acre fences (07 R335, R336). -/
def Mach.startPort (c : Cfg) (info : PhaseInfo) (a : Nat) (m : Mach) : Mach :=
  if !m.acreUp a then m
  else
    let pop := info.dramPop.getD a (0, 0, 0, 0)
    if !populations.contains pop then m.bootFence c a 6
    else m.updPort a fun p =>
      let p := { p with st := 1, width := pop.1, dens := pop.2.1 == 1, ranks2 := pop.2.2.1 == 2, cap := pop.2.2.2, startup := true,
                        attemptAt := m.clk.now }
      { p with attempt := p.firstRate (Tbl.get 0x370 a c.rateTarget) }

/-- The end of phase 3: dies that answer nothing or match no profile, dies that are not ready, channels that fail; then the ports train. A Get Features reply
that differs from the values just set is an interface error of its channel (05 R232 item 2). -/
def Mach.phaseThree (c : Cfg) (info : PhaseInfo) (m : Mach) : Mach :=
  let m := (List.range m.nBeds).foldl (fun m b => m.populate info b) m
  let dead := info.deadDies.filter (fun d => decide (d < m.nDies) && (m.die d).populated)
  let m := dead.foldl (fun m d => (m.record 0x0C02 (dieBed d) 0).markFailed c d) m
  let m := (List.range m.nChans).foldl (fun m i => m.safeRate c info i) m
  let m := (info.featErrs.filter fun i => decide (i < m.nChans)).foldl (fun m i => m.ifError c i 2) m
  ((List.range m.nAcres).foldl (fun m a => m.startPort c info a) m).onBoot fun b => { b with phase := 4 }

/-- The end of phase 4, once no port trains: acres whose port failed come up fenced. -/
def Mach.phaseFour (c : Cfg) (m : Mach) : Mach :=
  if (List.range m.nAcres).any (fun a => m.acreUp a && decide ((m.port a).attempt ≠ 0)) then m
  else
    let m := (List.range m.nAcres).foldl (fun m a => if m.fencingA a then m.fenceEnd c a 0 else m) m
    m.onBoot fun b => { b with phase := 5 }

/-- A channel has a die to run. -/
def Mach.chanAlive (m : Mach) (i : Nat) : Bool :=
  m.acreUp (chanAcre i) && !(m.chan i).failed && (List.range 32).any (fun p => m.dieUp (32 * i + p))

/-- The end of phase 5: every line is a clean zero (07 R359), the pools are set up (07 R374), and the channels train at the highest rate
of their ladder. -/
def Mach.phaseFive (m : Mach) : Mach :=
  let m := (List.range m.nAcres).foldl (fun m a =>
    if m.acreUp a then (m.updPort a fun p => { p with lines := [] }).setupPools a (m.port a).cap else m) m
  let m := (List.range m.nChans).foldl (fun m i =>
    if m.chanAlive i then m.updChan i fun x => { x with training := true, trainAt := m.clk.now, attempt := x.allowed.head?, heldRate := none } else m) m
  m.onBoot fun b => { b with phase := 6 }

/-- The end of phase 6, once no channel trains. -/
def Mach.phaseSix (m : Mach) : Mach :=
  if m.med.chans.any (fun e => e.2.training && m.acreUp (chanAcre e.1)) then m else m.onBoot fun b => { b with phase := 7 }

/-- A training attempt of phase 6 fails: the next rung, due while the channel gathers training data, is held until the pass ends; a later one replaces it
(12 R545, R546). A channel without a lower rate fails (01 R49). -/
def Mach.nextRung (c : Cfg) (ch : Nat) (m : Mach) : Mach :=
  match (m.chan ch).attempt.bind (m.chan ch).under with
  | some r => (m.updChan ch fun y => { y with heldRate := some r }).record 0x0C03 (10 * r.2) (chanAcre ch + 1)
  | none => m.failChannel c ch

/-- A training pass has ended: a rate change that was held is carried out at once (12 R546). -/
def Mach.takeHeld (ch : Nat) (m : Mach) : Mach :=
  m.updChan ch fun y => match y.heldRate with
    | some r => { y with attempt := some r, heldRate := none, trainAt := m.clk.now }
    | none => y

/-- A channel trains in phase 6. -/
def Mach.chanTrains (m : Mach) (ch : Nat) : Bool :=
  m.boot.phase == 6 && decide (ch < m.nChans) && m.acreUp (chanAcre ch) && (m.chan ch).training

/-- A channel enters service at the rate at which it trained (12 R545; 05 R231). -/
def Chan.trained (x : Chan) : Chan :=
  { x with training := false, inService := true, mode := (x.attempt.getD (x.mode, x.rate)).1, rate := (x.attempt.getD (x.mode, x.rate)).2, attempt := none,
           heldRate := none }

/-- NAND_TRAINING_DONE (12 R545, R546): a training pass ends. One that ends on the edge of its time-out counts as it passed or failed; after a time-out the
rung that was held is trained. -/
def execNandTrainingDone (ch : Nat) (result : TrainEnd) (s : State) : Host.Outcome State Fault Refusal :=
  .next (s.on fun c m =>
    if !m.chanTrains ch then m
    else match result with
      | .passed =>
        if (m.chan ch).heldRate.isSome && decide ((m.chan ch).trainAt + 50 * Config.edgesPerMs < m.clk.now) then m.takeHeld ch
        else m.updChan ch Chan.trained
      | .failed => (if (m.chan ch).heldRate.isSome then m else m.nextRung c ch).takeHeld ch)

/-- NAND_TRAINING_TIMEOUT (12 R545): 50 ms, with the attempt still running. -/
def execNandTrainingTimeout (ch at_ : Nat) (s : State) : Host.Outcome State Fault Refusal :=
  .next (s.on fun c m =>
    let m := m.advance at_
    if !m.chanTrains ch || (m.chan ch).heldRate.isSome || decide (m.clk.now < (m.chan ch).trainAt + 50 * Config.edgesPerMs) then m else m.nextRung c ch)

/-! ## Phase 7: records (12 R550 to R554) -/

/-- What replay finds of a record (12 R553): the content used with the number of copies that differ from it, or none. -/
inductive RecFound where
  | used (gen : Nat) (payload : List Byte) (differ : Nat)
  | unresolved
  | lost
deriving DecidableEq, Repr

/-- The choice of 12 R553 among the copies of a record. -/
def chooseRec (cs : List (List Byte)) : RecFound :=
  let valid := cs.filter copyOk
  if valid.isEmpty then .lost
  else
    let g := (valid.map copyGen).foldl Nat.max 0
    let top := (valid.filter (fun e => copyGen e == g)).map copyPayload
    match top.find? (fun p => top.all (fun q => q == p) || decide (2 ≤ top.count p)) with
    | some p => .used g p (cs.filter (fun e => !(copyOk e && copyGen e == g && copyPayload e == p))).length
    | none => .unresolved

/-- Keys of the records that the headland holds (12 R551). -/
def Mach.recordKeys (m : Mach) : List Nat :=
  ((List.range m.nAcres).flatMap fun a => [1, 2, 3, 4].map fun k => recKey k a) ++ [0x10, 0x11, 0x12, 0x13, 0x14].map fun k => recKey k 7

/-- The three copies of a record as start-up finds them; a record never written since the factory has three copies that agree. -/
def Mach.copiesFound (m : Mach) (info : PhaseInfo) (key : Nat) : List (List Byte) :=
  let cs := match Tbl.get [] key m.boot.records with
    | [] => recordCopies key 0 (Config.recordPayload key 0)
    | l => l
  (info.badCopies.filter (fun b => b.1 == key)).foldl (fun cs b => cs.set b.2.1 b.2.2) cs

/-- Namespaces that a record concerns: those with zones on its acre, or every one for a hub record (12 R554). -/
def Mach.concerned (m : Mach) (key : Nat) : List Nat :=
  if key % 8 = 7 then m.nsList
  else m.nsList.filter fun n => (m.zonesOf n).any fun z => z.2.bound && bedAcre z.2.bed == key % 8

/-- The read-only safe state of the namespaces that a record concerns (12 R554). -/
def Mach.safeState (key : Nat) (m : Mach) : Mach :=
  let m := (m.concerned key).foldl (fun m n => (m.updNs n fun x => { x with safe := true }).markGroup (m.ns n).group) m
  m.onBoot fun b => { b with unresolved := sat 8 (b.unresolved + 1), safe := b.safe || !(m.concerned key).isEmpty }

/-- The zones that a lost record described can no longer be read: a zone journal segment, splice records, or the namespace table
(12 R551, R554). -/
def Mach.loseDescribed (key : Nat) (m : Mach) : Mach :=
  let kind := key / 8
  let hit := fun (k : Nat) =>
    match m.locate (k / 2 ^ 44) (k % 2 ^ 44) with
    | some (z, _) => bedAcre (m.zone (k / 2 ^ 44) z).bed == key % 8
    | none => false
  if kind = 0x10 then m.onMed fun x => { x with store := x.store.map fun e => (e.1, { e.2 with lost := true }) }
  else if kind = 1 ∨ kind = 3 then m.onMed fun x => { x with store := x.store.map fun e => if hit e.1 then (e.1, { e.2 with lost := true }) else e }
  else m

/-- Reconcile one record (12 R553). -/
def Mach.reconcile (info : PhaseInfo) (key : Nat) (m : Mach) : Mach :=
  let cs := m.copiesFound info key
  let kind := key / 8
  let keep := fun (m : Mach) => m.onBoot fun b => { b with records := Tbl.put [] key cs b.records }
  match chooseRec cs with
  | .used g p n =>
    if n = 0 then m
    else
      let m := m.onBoot fun b =>
        { b with records := Tbl.put [] key (recordCopies key (g + 1) p) b.records, repaired := sat 16 (b.repaired + n) }
      (List.range n).foldl (fun m _ => m.record 0x0C05 kind 0) m
  | .unresolved => ((keep m).safeState key).record 0x0C06 kind 0
  | .lost => ((((keep m).onBoot fun b => { b with lostRec := true }).loseDescribed key).safeState key).record 0x0C07 kind 0

/-! ## Phase 7: the dump areas and the seed bins (12 R555 to R557; 07 R379; 06 R297) -/

def PUnit.same (u v : PUnit) : Bool := u.nsid == v.nsid && u.zone == v.zone && u.row == v.row && u.col == v.col

/-- Bytes of a dirty unit that the headland gives back: what a dump, a salvage or a Flush kept of it, or what a dump without valid mark
still holds whole. -/
def Mach.restoredBytes (m : Mach) (info : PhaseInfo) (u : PUnit) : Nat :=
  match m.boot.dumpUnits.find? (fun v => u.same v) with
  | some v => Nat.min u.bytes v.bytes
  | none => if m.boot.lastEnd = 3 ∧ info.dumpValid.contains (u.nsid, u.zone, u.row, u.col) = true then u.bytes else 0

/-- The blocks of a unit from byte `lo` on are lost (01 R59). -/
def Mach.loseUnit (u : PUnit) (lo : Nat) (m : Mach) : Mach :=
  let n := m.ns u.nsid
  let z := m.zone u.nsid u.zone
  let hit := fun (k : Nat) => decide (k / 2 ^ 44 = u.nsid) &&
    (match m.locate u.nsid (k % 2 ^ 44) with
     | some (zi, o) => decide (zi = u.zone) && decide (rowOf z.a n.unitLen o = u.row) && decide (dcolOf z.a n.unitLen o = u.col) &&
         decide (lo ≤ 4096 * (o % n.unitLen))
     | none => false)
  m.onMed fun x => { x with store := x.store.map fun e => if hit e.1 then (e.1, { e.2 with lost := true }) else e }

/-- A zone that lost committed data, or whose service ended without dump, becomes Read Only (01 R59, 12 R556), which its plots are told (03 R134). -/
def Mach.zoneLost (e : Nat × Nat) (m : Mach) : Mach :=
  let m := m.markGroup (m.ns e.1).group
  if (m.ns e.1).headland then m
  else
    let was := (m.zone e.1 e.2).st
    let m := m.updZone e.1 e.2 fun z => { z with st := .readOnly, adm := z.wp }
    if was = .readOnly then m else m.zoneNotice e.1 e.2

/-- Units that a salvage kept of acres that now return (01 R58). -/
def Mach.salvagedUnits (m : Mach) : List PUnit :=
  m.boot.dumpUnits.filter fun u =>
    let z := m.zone u.nsid u.zone
    z.bound && m.boot.fencedLast.contains (bedAcre z.bed) && m.acreUp (bedAcre z.bed) && !m.med.units.any (fun v => u.same v)

/-- Restore the units of every stripe row whose parity is not programmed: those on their dies are read back, dirty ones come from the
dump areas, and the rest is lost. Answers the zones that lost data. -/
def Mach.restoreUnits (info : PhaseInfo) (m : Mach) : List (Nat × Nat) × Mach :=
  let all := (m.med.units ++ m.salvagedUnits).filter fun u => u.col + 1 != (m.zone u.nsid u.zone).a
  let got := all.map fun u => (u, if u.dirty then m.restoredBytes info u else u.bytes)
  let short := got.filter fun e => decide (e.2 < e.1.bytes)
  let m := short.foldl (fun m e => m.loseUnit e.1 e.2) m
  let kept := (got.filter (fun e => !e.1.dirty || decide (0 < e.2))).map fun e =>
    { e.1 with bytes := e.2, full := e.1.full && decide (e.2 = e.1.bytes), issued := e.1.issued && e.1.done,
               folded := e.1.full && decide (e.2 = e.1.bytes) }
  let later := m.boot.dumpUnits.filter fun u => m.fencedA (bedAcre (m.zone u.nsid u.zone).bed)
  let m := (m.onMed fun x => { x with units := kept, reqs := [], wants := [] }).onBoot fun b => { b with dumpUnits := later }
  ((short.map (fun e => (e.1.nsid, e.1.zone))).foldl (fun l e => if l.contains e then l else l ++ [e]) [], m)

/-- The program of a unit is already asked for, by the splice of its column (05 R250). -/
def Mach.unitWanted (m : Mach) (u : PUnit) : Bool :=
  (m.med.wants ++ m.med.reqs).any fun r => match r.purp with
    | .unit a b row col => a == u.nsid && b == u.zone && row == u.row && col == u.col
    | _ => false

/-- Seed-bin slots and accumulators of the restored rows (07 R379; 06 R297), the dirty staging (12 R557), and what is still to be
programmed. -/
def Mach.refillBins (m : Mach) : Mach :=
  let rows := (m.med.units.map (fun u => (u.nsid, u.zone, u.row))).foldl (fun l e => if l.contains e then l else l ++ [e]) []
  let m := rows.foldl (fun m r =>
    let z := m.zone r.1 r.2.1
    let us := m.rowUnits r.1 r.2.1 r.2.2
    let p := if z.st.isActive then z.actPlot else ((us.flatMap (fun u => u.plots)).map (fun e => e.1)).headD 0
    (m.reserveRow r.1 r.2.1 r.2.2 (if p = 1024 then internalOwner 5 else p)).getD m) m
  let m := m.onStg fun g => { g with dirty := sumBy (fun (u : PUnit) => if u.dirty then u.bytes else 0) m.med.units }
  let m := m.onStg fun g => { g with high := g.dirty }
  let m := m.med.units.foldl (fun m u => if u.full && !u.done && !m.unitWanted u then m.wantUnit u else m) m
  let m := (m.med.ns.map (fun e => e.1)).foldl (fun m k => m.takeMaps k) m
  rows.foldl (fun m r => m.tryParity r.1 r.2.1 r.2.2) m

/-- Programs that the reset interrupted: their columns are spliced (05 R250). -/
def Mach.cutPrograms (m : Mach) : Mach :=
  (m.med.dies.map (fun e => e.1)).foldl (fun m d =>
    match (m.die d).op with
    | none => m
    | some r =>
      let m := m.updDie d fun x => { x with op := none }
      match r.purp with
      | .unit n z row col => if (m.zone n z).bound then m.unitFailed n z row col false else m
      | _ => m) m

/-- Erase-in-progress entries become Needs erase, and every block of the lists is to be erased (05 R255, R258). -/
def Mach.tillAgain (m : Mach) : Mach :=
  let m := m.onMed fun x => { x with till := x.till.map fun t => { t with inProgress := false } }
  m.med.till.foldl (fun m t =>
    m.want { (mkReq t.die .erase (.till t.block) t.block t.lane 0) with slc := t.slc, plots := if t.plot < 1024 then onePlot t.plot else [] }) m

/-- Drift indices of blocks that were not saved after their last change (05 R276). -/
def Mach.driftAgain (m : Mach) : Mach :=
  let m := m.med.driftUnsaved.foldl (fun m k =>
    let die := k / 8192
    let idx := match (m.zonesOn (dieBed die)).find? (fun e => match e.2.2.colOn die with
        | some ci => (e.2.2.colAt ci).blocks.any (fun b => b.1 == k % 8192)
        | none => false) with
      | some e => Nat.min 63 (8 + e.2.2.consumed (m.ns e.1).prof / 10)
      | none => 8
    (List.range 8).foldl (fun m g => m.onMed fun x => { x with drift := Tbl.put 8 (k * 8 + g) idx x.drift }) m) m
  m.onMed fun x => { x with driftUnsaved := [] }

/-- Treat the dump area by what the last service left (12 R556), with the zones of acres that return (01 R58, R59). -/
def Mach.treatDump (info : PhaseInfo) (m : Mach) : Mach :=
  let staged := sumBy (fun (u : PUnit) => if u.dirty then u.bytes else 0) m.med.units
  let back := m.boot.fencedLast.filter (fun a => m.acreUp a)
  let r := m.restoreUnits info
  let m := r.2
  let active := (m.med.zones.filter (fun e => e.2.st.isActive && !(m.ns (e.1 / 2 ^ 20)).headland)).map (fun e => (e.1 / 2 ^ 20, e.1 % 2 ^ 20))
  let ro := if m.boot.lastEnd = 4 then active ++ r.1.filter (fun e => !active.contains e) else r.1
  let more := m.hub.lostAfter.filter (fun e => !ro.contains e)
  let m := (ro ++ more).foldl (fun m e => m.zoneLost e) m
  let m := m.onHub fun h => { h with lostAfter := [] }
  let m := if m.boot.lastEnd = 3 then (m.record 0x0C08 ro.length 0).record 0x0B0A (ceilDiv staged mib) 0 else m
  let m := if m.boot.lastEnd = 4 then (m.record 0x0C09 ro.length 0).onBoot fun b => { b with unclean := true } else m
  let zs := (m.med.zones.filter (fun e => e.2.bound && back.contains (bedAcre e.2.bed) && !(m.ns (e.1 / 2 ^ 20)).headland)).map fun e =>
    (e.1 / 2 ^ 20, e.1 % 2 ^ 20)
  zs.foldl (fun m e => m.zoneNotice e.1 e.2) m

/-! ## Phase 7: the rest of the headland (12 R555) -/

/-- The bed table, the plot table and the saved features of plots, and the isolation registers (09 R419, R420, R424). -/
def Mach.loadTables (m : Mach) : Mach :=
  let m := m.boot.isoOwner.foldl (fun m e => m.updBed e.1 fun b => { b with owner := e.2 }) m
  let mask := fun (p : Nat) => m.boot.isoOwner.foldl (fun (w : BitVec 128) e => if e.2 = p + 1 then w ||| (1#128 <<< e.1) else w) 0
  let ps := dedup (0 :: m.plots.tbl.map (fun e => e.1) ++ (m.boot.isoOwner.filter (fun e => decide (0 < e.2))).map (fun e => e.2 - 1))
  ps.foldl (fun m p => m.updPlot p fun x =>
    { x with port := x.portSaved, quota := x.quotaSaved, feats := x.saved, isoMask := mask p }) m

/-- Saved values of features 0xC3 and 0xC4 (11 R507; 14 R607), and the Yield Book rebuilt with them (14 R610). A saved ladder above the
board's declared budget is not applied. -/
def Mach.loadFeatures (bad : List Nat) (m : Mach) : Mach :=
  let m := m.onYbk fun y => { y with deflt := if y.savedDeflt = 0 then 10 else y.savedDeflt, ivals := y.savedIvals }
  let m := (m.rebuildBook bad).newIntervals
  let m := m.onYbk fun y => { y with recs := mapTbl Rec.init (fun _ r => { r with interval := r.nextInterval }) y.recs }
  match m.heat.savedC3 with
  | [b, o, w, mo, h] =>
    if b ≤ m.power.decl.bMax then m.onHeat fun x => { x with budgetW := b, onset := o, width := w, modelOnset := mo, hyst := h } else m
  | _ => m

/-- The version floor is the larger of the mirror and the headland record, and the lower of the two is rewritten (13 R567). -/
def Mach.joinFloors (m : Mach) : Mach :=
  let i := m.img
  if i.mirror < i.floor then
    let m := m.writeMirror i.floor
    m.record 0x0D0B m.img.mirrorSec 0
  else if i.floor < i.mirror then (m.onImg fun x => { x with floor := x.mirror }).saveHub 0x14
  else m

/-- Covered dirty staging in units of 256 MiB, 32 at most (11 R525, R526): the dump's 30 ms with its channel and die times lie within
0.9 × E_hold / P_dump. Nothing is covered where even an empty dump does not fit. -/
def Mach.covered (m : Mach) : Nat :=
  let p := m.power.decl.pDump
  let e := m.power.decl.eHold
  let live := (List.range m.nChans).filter fun i => (m.chan i).inService && m.acreUp (chanAcre i)
  let nch := live.length
  let r := match live.map (fun i => (m.chan i).rate) with
    | [] => 0
    | x :: t => t.foldl Nat.min x
  let nd := ((List.range m.nDies).filter fun d => m.dieUp d && (m.chan (dieChan d)).inService).length
  let fits := fun (k : Nat) =>
    let d := k * 268435456
    decide (30000000 * p * nch * r + 225 * d * p ≤ 900000 * e * nch * r) && decide (300 * p * nd * 65536 + 8 * d * p ≤ 9 * e * nd * 65536)
  (((List.range 33).filter fits).getLast?).getD 0

/-- The controller's own entry in a DISCOVER or ANNOUNCE frame (10 R459): on the recovery path version 0 and no namespaces (13 R585). -/
def Mach.ownEntry (m : Mach) : MemberEntry :=
  { identity := leAt m.identity 0 16, version := if m.boot.recovery then 0 else m.img.version,
    namespaces := if m.boot.recovery then 0 else m.nsList.length }

/-- The hub's discovery begins: DISCOVER goes out of port 0 (10 R461). -/
def Mach.startDiscovery (cmd : Nat) (m : Mach) : Mach :=
  (m.sendBody 0x02 0 0 0 (memberBytes m.ownEntry)).onHitch fun h => { h with discAt := some m.clk.now, discCmd := cmd, ring := 1 }

/-- Phase 7 on everything but the configuration. -/
def Mach.replay (info : PhaseInfo) (m : Mach) : Mach :=
  let m := m.recordKeys.foldl (fun m k => m.reconcile info k) m
  let m := m.loadTables
  let m := m.onMed fun x => { x with zones := mapTbl Zone.init (fun _ z => if z.bound then { z with offBefore := z.offTime, offTime := true } else z) x.zones }
  let m := m.treatDump info
  let m := (((m.cutPrograms).refillBins).tillAgain).driftAgain
  let m := m.boot.tallyShort.foldl (fun m p => m.record 0x090C p 0) m
  let m := (m.loadFeatures info.badImages).joinFloors
  m.onBoot fun b =>
    { b with replayed := true, hostNew := none, tallyShort := [], dumps := b.dumpsMade, dumpMs := b.lastDumpMs,
             dumpRes := if b.lastEnd = 2 then 1 else if b.lastEnd = 3 then 2 else 0 }

/-- The end of phase 7 (12 R555): replay, the saved feature 0xC0 (02 R113; a saved port 1 under an x16 strap is taken as port 0, the rest as saved, DESIGN
CHOICE: notes/assumptions/144), the dirty cap with its lock (07 R381, R383), and the
service-start mark; a running image below the floor stops start-up (13 R567). -/
def State.phaseSeven (info : PhaseInfo) (s : State) : State :=
  let s := s.on fun _ m => m.replay info
  let s := match s.m.boot.savedC0 with
    | none => s
    | some l =>
      let s := s.setFurCfg (l.getD 0 8) (l.getD 1 10) (l.getD 2 0 == 1 && s.m.boot.straps.portMode) (l.getD 3 1 == 1)
      (List.range s.m.nBeds).foldl (fun s b => s.setBedP b (l.getD (4 + b) 1)) s
  let cov := s.m.covered
  let cap := Nat.max 16 cov
  let s := { s with cfg := { s.cfg with dirtyCap := cap, dirtyLock := true } }
  let s := s.on fun _ m => m.onPower fun p => { p with vwc := decide (cov < cap) }
  s.on fun _ m =>
    if m.img.version < m.img.floor then m.recoveryPath
    else
      let m := (m.onBoot fun b => { b with lastEnd := 4, phase := 8 }).saveHub 0x14
      if m.hitch.role = 1 then m.startDiscovery 0 else m

/-! ## Start-up complete (12 R540, R541) -/

/-- The image that runs is above the floor: the floors rise to it (13 R568). -/
def Mach.floorsAtStart (m : Mach) : Mach :=
  match m.img.runHdr with
  | some h => m.raiseFloors m.img.running h
  | none => m

/-- Start-up complete, on the hub edge after phase 8. A manager's phase 8 ends with its discovery (10 R461). -/
def Mach.complete (c : Cfg) (m : Mach) : Mach :=
  if m.hitch.discAt.isSome then m
  else
    let ms := sat 20 ((m.clk.now - m.boot.warmAt) / Config.edgesPerMs)
    let m := m.onBoot fun b => { b with phase := 9, elapsed := ms }
    let m := m.record 0x0C00 ms 0
    let m := m.onPlots fun x => { x with tbl := mapTbl Plot.init (fun _ p => if p.st = .absent then p else { p with st := .ready, after := .ready }) x.tbl }
    let m := m.onFront fun f => { f with bar0 := mapTbl Bar0.init (fun _ b => { b with rdy := b.cc.getLsbD 0 && !b.cfs }) f.bar0 }
    let m := (List.range m.nBeds).foldl (fun m b => m.updBed b fun x => { x with pForce := Tbl.get 1 b c.bedP }) m
    let m := (m.updWdAll c).onGrid fun g => { g with started := true }
    let m := if m.boot.restart then m.hubInt 8 else m
    let m := if m.boot.safe || m.boot.lostRec || m.boot.unclean || decide (m.boot.dumpRes = 2) then m.hubInt 16 else m
    m.floorsAtStart

/-- A start-up phase can go on: no failure of power and no trip has stopped the controller (11 R520, R524). -/
def Mach.starting (m : Mach) : Bool := !m.power.dumping && !m.power.pfail && !m.heat.active

/-- STARTUP_PHASE_DONE (12 R540): the phase that runs ends, with what it found; phase 1 reads the boot flash once SPI_RESET_N is deasserted (16 R661). -/
def execStartupPhaseDone (info : PhaseInfo) (at_ : Nat) (s : State) : Host.Outcome State Fault Refusal :=
  let s := s.on fun _ m => m.advance at_
  if !s.m.starting then .next s
  else if s.m.boot.phase = 7 then .next (s.phaseSeven info)
  else .next (s.on fun c m =>
    match m.boot.phase with
    | 1 => if m.clk.now < m.boot.spiReset then m else m.phaseOne info
    | 2 => m.phaseTwo c info
    | 3 => m.phaseThree c info
    | 4 => m.phaseFour c
    | 5 => m.phaseFive
    | 6 => m.phaseSix
    | 8 => m.complete c
    | _ => m)

/-! ## The host link (12 R547 to R549) -/

/-- HOST_LINK_TRAINED (12 R547, R549): Data Link Active; a worker trains no host port (10 R453). Equalization to the full speed follows. -/
def execHostLinkTrained (port : Nat) (s : State) : Host.Outcome State Fault Refusal :=
  .next (s.on fun _ m =>
    if !m.awake || decide (m.hitch.role = 2) || decide (2 ≤ port) || (decide (port = 1) && !m.boot.straps.portMode) then m
    else (m.onBoot fun b => { b with link := Tbl.put false port true b.link, eq := Tbl.put false port true b.eq }).onGrid fun g =>
      { g with linkUp := Tbl.put false port true g.linkUp })

/-- EQUALIZATION_DONE (12 R548): a speed change held meanwhile is carried out at once, by way of Recovery; it is the last one asked. -/
def execEqualizationDone (port : Nat) (requestedGTs : Option Nat) (s : State) : Host.Outcome State Fault Refusal :=
  .next (s.on fun _ m =>
    if !Tbl.get false port m.boot.eq then m
    else match requestedGTs with
      | none => m.onBoot fun b => { b with eq := Tbl.put false port false b.eq, heldSpeed := Tbl.put 0 port 0 b.heldSpeed }
      | some r => (m.onBoot fun b => { b with heldSpeed := Tbl.put 0 port r b.heldSpeed }).record 0x0C04 r 0)

end Sys2Proof.Machine
end

