-- ==== Sys2Proof/Machine/Bar0.lean ====
section
/-! DEFINITION. Writes of CC in BAR0 (15 R620, R621): enable, controller reset (04 R200) and shutdown (04 R202). -/

namespace Sys2Proof.Machine

/-- The defined bits of CC (NVMe Base): EN, CSS, MPS, AMS, SHN, IOSQES, IOCQES. A reserved bit reads 0 (00_scope R8). -/
def ccMask : Word := 0x00FFFFF1

/-- CC.EN. -/
def Bar0.en (b : Bar0) : Bool := b.cc.getLsbD 0

/-- CC selects a memory page size, a command set and an arbitration that are supported (15 R621). -/
def ccOk (cc : Word) : Bool :=
  Word.bits cc 10 7 == 0 && (Word.bits cc 6 4 == 0 || Word.bits cc 6 4 == 6) && Word.bits cc 13 11 == 0

/-- The admin queues of a plot, from AQA, ASQ and ACQ: their sizes are 0's based (15 R620). -/
def Mach.adminQueues (p : Nat) (m : Mach) : Mach :=
  let b := m.bar0 p
  let m := m.updSq p 0 fun _ => { Sq.init with base := b.asq, size := Word.bits b.aqa 11 0 + 1 }
  m.updCq p 0 fun _ => { Cq.init with base := b.acq, size := Word.bits b.aqa 27 16 + 1, ien := true }

/-- CONTROLLER_ENABLE (15 R621, 12 R541, R547): CC.EN goes from 0 to 1 with these values of the registers. CSTS.RDY follows at once in
service, and otherwise at start-up complete. -/
def execControllerEnable (port plot : Nat) (cc aqa : Word) (asq acq : Nat) (s : State) : Host.Outcome State Fault Refusal :=
  .next (s.on fun _ m =>
    if !m.barTakes port plot || (m.bar0 plot).en then m
    else
      let m := m.updBar0 plot fun b => { b with cc := (cc &&& ccMask) ||| 1, aqa := aqa &&& aqaMask, asq := asq / 4096 * 4096, acq := acq / 4096 * 4096 }
      if !ccOk cc then m.updBar0 plot fun b => { b with rdy := false, cfs := true }
      else (m.adminQueues plot).updBar0 plot fun b => { b with rdy := m.inService })

/-- What a reset leaves of a plot: it is Ready again unless it is Absent or Frozen; a plot reset that runs comes to its end (09 R418). -/
def Plot.afterCtrlReset (x : Plot) : Plot :=
  { x with
      st := match x.st with
        | .absent => .absent
        | .frozen => .frozen
        | .resetting => x.after
        | _ => .ready,
      resetCmds := [], freezeCmd := 0 }

/-- What the controller reset takes from one plot: its queues and the registers of its domain, but the admin queue properties. -/
def Mach.ctrlResetPlot (p : Nat) (m : Mach) : Mach :=
  let b := m.bar0 p
  ((m.plotDomain p).updBar0 p fun x => { x with nssro := b.nssro, aqa := b.aqa, asq := b.asq, acq := b.acq }).updPlot p Plot.afterCtrlReset

/-- The plots that the controller reset resets. -/
def Mach.resetPlots (m : Mach) : List Nat :=
  dedup (0 :: m.plots.tbl.map (fun e => e.1) ++ m.front.bar0.map (fun e => e.1) ++ m.front.sqs.map (fun e => e.1 / 1024))

/-- Every member that is up is told of a controller reset; commands forwarded to it are forgotten (10 R477). -/
def Mach.orphanMembers (m : Mach) : Mach :=
  let m := m.onHitch fun h => { h with fwd := [], members := mapTbl Member.init (fun _ x => { x with fwd := 0 }) h.members }
  [1, 2, 3, 4, 5, 6, 7].foldl (fun m n => if m.hitch.role = 1 ∧ (m.member n).st = 1 then m.sendBody 0x09 n (m.pathPort n) 0 (le 1 1) else m) m

/-- The controller reset domain (00_scope R10; 04 R200; 05 R280, R281; 11 R516). -/
def Mach.controllerReset (m : Mach) : Mach :=
  let held := (m.front.inflight.filter (fun c => c.stage == .finished)).length
  let m := m.orphanMembers
  let m := m.discardWhere fun _ => true
  let m := m.onMed fun x =>
    { x with zones := mapTbl Zone.init (fun _ z => { z with adm := z.wp }) x.zones, wp := [], bootWp := [], windows := [] }
  let m := m.resetPlots.foldl (fun m p => m.ctrlResetPlot p) m
  let m := m.onFront fun f => { f with locks := [], inflight := [] }
  let m := m.onHub fun h => { h with fatal := false, selfTest := 0 }
  let m := m.onHeat fun h => { h with held := false }
  m.record 0x0406 held 0

/-- CONTROLLER_RESET (04 R200; 01 R64): CC.EN of plot 0 goes from 1 to 0. -/
def execControllerReset (at_ : Nat) (s : State) : Host.Outcome State Fault Refusal :=
  .next (s.on fun _ m =>
    let m := m.advance at_
    if !m.barUp 0 || !(m.bar0 0).en then m else m.controllerReset)

/-- CC.SHN is written, and the shutdown goes as far as it can (04 R202). -/
def Mach.shutdown (plot shn : Nat) (m : Mach) : Mach :=
  (m.updBar0 plot fun b => { b with shst := 1, cc := (b.cc &&& ~~~(3#32 <<< 14)) ||| (BitVec.ofNat 32 shn <<< 14) }).shutdownStep plot

/-- SHUTDOWN_NORMAL (04 R202). -/
def execShutdownNormal (port plot at_ : Nat) (s : State) : Host.Outcome State Fault Refusal :=
  .next (s.on fun _ m =>
    let m := m.advance at_
    if !m.barTakes port plot || !m.inService then m else m.shutdown plot 1)

/-- SHUTDOWN_ABRUPT (04 R202): first the plot's commands are squashed as in steps 1 to 5 of 04 R200. -/
def execShutdownAbrupt (port plot at_ : Nat) (s : State) : Host.Outcome State Fault Refusal :=
  .next (s.on fun _ m =>
    let m := m.advance at_
    if !m.barTakes port plot || !m.inService then m else (m.discardWhere fun c => c.plot == plot).shutdown plot 2)

end Sys2Proof.Machine
end

