-- ==== Sys2Proof/Machine/Images.lean ====
section
/-! DEFINITION. Images (13): staging and Firmware Image Download (R574 to R576), Firmware Commit (R577, R578), and live activation (R586
to R590), with the turn of the ring's members (10 R489). -/

namespace Sys2Proof.Machine

/-! ## The staging area (13 R574, R575) -/

/-- The staging area is emptied. -/
def Img.emptied (i : Img) : Img := { i with stage := 0, route := 0, hdr := none, hdrBytes := 0, body := 0, staged := [] }

/-- An image is refused at a check: the staging area is left empty, and the refusal is recorded (13 R566). -/
def Mach.refuseImage (check : Nat) (m : Mach) : Mach := (m.onImg fun i => { i.emptied with lastRef := check }).record 0x0D00 check 0

/-- A commit or an activation runs, from any route (13 R577). -/
def Mach.committing (m : Mach) : Bool := m.img.writing.isSome || m.img.act.isSome
/-- A route may not stage: another owns the area, or a commit or an activation runs (13 R575, R580). -/
def Mach.stagingBusy (m : Mach) (route : Nat) : Bool :=
  m.committing || (decide (m.img.stage ≠ 0) && decide (m.img.route ≠ route))

/-- The version floor that images are checked against: the boot ROM knows the mirror alone (13 R567). -/
def Mach.floorNow (m : Mach) : Nat := if m.boot.recovery then m.img.mirror else Nat.max m.img.floor m.img.mirror

/-- A header that has passed its checks begins a new image and owns the area (13 R575). -/
def Mach.stageHeader (route : Nat) (bytes : List Byte) (m : Mach) : Mach :=
  m.onImg fun i =>
    { i with stage := 1, route := route, hdr := some (ImageHdr.ofBytes bytes), hdrBytes := 4096, body := 0, staged := window bytes 0 4096, lastAt := m.clk.now }

/-- Body bytes are appended; the body that they complete is checked (13 R565 check 8). Answers whether nothing was refused. -/
def Mach.stageBody (bytes : List Byte) (m : Mach) : Bool × Mach :=
  match m.img.hdr with
  | none => (false, m)
  | some h =>
    let m := m.onImg fun i => { i with body := i.body + bytes.length, staged := i.staged ++ bytes, lastAt := m.clk.now }
    if m.img.body < h.bodyLen then (true, m)
    else if leAt (sha384 (m.img.staged.drop 4096)) 0 48 = h.digest then (true, m.onImg fun i => { i with stage := 2 })
    else (false, m.refuseImage 8)

/-- Bytes of a Firmware Image Download, and their offset: dwords 0's based, and dwords. -/
def dlLen (e : Sqe) : Nat := 4 * (e.cdw10.toNat + 1)
def dlOff (e : Sqe) : Nat := 4 * e.cdw11.toNat

/-- FIRMWARE_IMAGE_DOWNLOAD (13 R576): the piece at offset 0 carries the header (R563). -/
def execFirmwareImageDownload (stamp at_ : Nat) (s : State) : Host.Outcome State Fault Refusal :=
  .next (s.on fun _ m => (m.advance at_).admin0 stamp 0x11 fun c m =>
    let len := dlLen c.sqe
    let off := dlOff c.sqe
    let header := ImageHdr.ofBytes c.sqe.data
    if m.stagingBusy 0 then m.failWith stamp St.fwProhibited
    else if off = 0 then
      let m := m.onImg Img.emptied
      if len < 4096 then m.failWith stamp St.invalidField
      else
        let k := m.headerCheck m.floorNow header
        if k ≠ 0 then (m.refuseImage k).failWith stamp St.invalidImage
        else if 4096 + header.bodyLen < len then m.failWith stamp St.invalidImage
        else if len < 4096 + header.bodyLen ∧ len % 4096 ≠ 0 then m.failWith stamp St.invalidField
        else
          let m := m.stageHeader 0 c.sqe.data
          let r := if len = 4096 then (true, m) else m.stageBody (window c.sqe.data 4096 (len - 4096))
          if r.1 then r.2.succeed stamp else r.2.failWith stamp St.invalidImage
    else if off ≠ m.img.hdrBytes + m.img.body then m.failWith stamp St.invalidField
    else match m.img.hdr with
      | none => m.failWith stamp St.invalidField
      | some h =>
        if 4096 + h.bodyLen < off + len then m.failWith stamp St.invalidImage
        else if off + len < 4096 + h.bodyLen ∧ len % 4096 ≠ 0 then m.failWith stamp St.invalidField
        else
          let r := m.stageBody (window c.sqe.data 0 len)
          if r.1 then r.2.succeed stamp else r.2.failWith stamp St.invalidImage)

/-- STAGING_IDLE_TIMEOUT (13 R575): no piece for 600 s in Header accepted. -/
def execStagingIdleTimeout (at_ : Nat) (s : State) : Host.Outcome State Fault Refusal :=
  .next (s.on fun _ m =>
    let m := m.advance at_
    if m.img.stage ≠ 1 ∨ m.clk.now < m.img.lastAt + 600 * Config.edgesPerSec then m
    else (m.onImg Img.emptied).record 0x0D01 (m.img.body / 1024) 0)

/-! ## Commits (13 R577, R578) -/

/-- Commit action and firmware slot of a Firmware Commit (NVMe layout). -/
def fwAction (e : Sqe) : Nat := Word.bits e.cdw10 5 3
def fwSlotField (e : Sqe) : Nat := Word.bits e.cdw10 2 0

/-- The slot that a commit names: FS 0 is the one not running. -/
def Mach.fwSlot (m : Mach) (fs : Nat) : Option Nat :=
  if fs = 0 then some (1 - m.img.running) else if fs ≤ 2 ∧ fs - 1 ≠ m.img.running then some (fs - 1) else none

/-- The last commit's result is set; one that ran has ended (13 R592; 15 R638). -/
def Mach.commitEnds (cmd res : Nat) (m : Mach) : Mach :=
  let m := (m.onImg fun i => { i with lastRes := res }).hubInt 17
  if cmd = 0 then m.onPolez fun x => { x with alert2 := true } else m

/-- A Firmware Commit fails before it starts. -/
def Mach.commitFails (stamp : Nat) (st : Status) (m : Mach) : Mach := (m.commitEnds stamp 2).failWith stamp st

/-- Start the write of the staged image to a slot; `use` is 0 for that alone, 1 to use it at the next warm start, 2 for the recovery path. The
slot is invalid until the write has been read back. -/
def Mach.startSlotWrite (slot cmd use : Nat) (m : Mach) : Mach :=
  m.onImg fun i =>
    { i with stage := 3, writing := some (slot, cmd, use), slots := Tbl.put Slot.init slot Slot.init i.slots,
             valid := i.valid.filter (fun k => k != slot) }

/-- A version is at least that of the other slot's verified image (13 R577). -/
def Mach.notBelow (m : Mach) (slot v : Nat) : Bool := !m.slotPasses m.floorNow (1 - slot) || decide (m.slotVersion (1 - slot) ≤ v)

/-- A Firmware Commit of plot 0 that meets `ok`, on the slot that it names, while no other runs. -/
def Mach.commit (stamp : Nat) (ok : Nat → Bool) (f : Nat → Mach → Mach) (m : Mach) : Mach :=
  m.adminIf stamp 0x10 (fun c => c.plot != 0 || ok (fwAction c.sqe)) fun c m =>
    if c.plot ≠ 0 then m.failWith stamp St.invalidOpcode
    else if m.committing then m.failWith stamp St.fwProhibited
    else if 4 ≤ fwAction c.sqe then m.commitFails stamp St.invalidField
    else match m.fwSlot (fwSlotField c.sqe) with
      | none => m.commitFails stamp St.invalidFwSlot
      | some k => f k m

/-- The write of CA 0b000 and 0b001 starts, or fails its precondition. -/
def Mach.commitWrite (stamp slot use : Nat) (m : Mach) : Mach :=
  match m.img.hdr with
  | some h =>
    if m.img.stage ≠ 2 then m.commitFails stamp St.invalidImage
    else if use = 1 ∧ m.notBelow slot h.version = false then m.commitFails stamp St.fwProhibited
    else (m.startSlotWrite slot stamp use).setStage stamp .media
  | none => m.commitFails stamp St.invalidImage

/-- FW_COMMIT_REPLACE (13 R577): CA 0b000, and the actions that are not supported. -/
def execFwCommitReplace (stamp : Nat) (s : State) : Host.Outcome State Fault Refusal :=
  .next (s.on fun _ m => m.commit stamp (fun a => a == 0 || decide (4 ≤ a)) fun k m => m.commitWrite stamp k 0)

/-- FW_COMMIT_REPLACE_USE (13 R577): CA 0b001. -/
def execFwCommitReplaceUse (stamp : Nat) (s : State) : Host.Outcome State Fault Refusal :=
  .next (s.on fun _ m => m.commit stamp (fun a => a == 1) fun k m => m.commitWrite stamp k 1)

/-- The precondition of CA 0b010 on a slot. -/
def Mach.useStatus (m : Mach) (slot : Nat) : Option Status :=
  if !m.slotPasses m.floorNow slot then some St.invalidImage
  else if !m.notBelow slot (m.slotVersion slot) then some St.fwProhibited
  else none

/-- FW_COMMIT_USE_SLOT (13 R577): CA 0b010. -/
def execFwCommitUseSlot (stamp : Nat) (s : State) : Host.Outcome State Fault Refusal :=
  .next (s.on fun _ m => m.commit stamp (fun a => a == 2) fun k m =>
    match m.useStatus k with
    | some st => m.commitFails stamp st
    | none => ((m.onImg fun i => { i with nextSlot := some k }).commitEnds stamp 1).failWith stamp St.fwNeedsReset)

/-- A worker reports the version that it runs to its manager (10 R489): by ANNOUNCE, the frame that carries it. -/
def Mach.reportVersion (m : Mach) : Mach :=
  if m.hitch.role = 2 then m.sendBack 0x03 0 (memberBytes m.ownEntry) else m

/-! ## Live activation (13 R586 to R590) -/

/-- The formats of a slot's image and of the running one fit (13 R586). -/
def formatsFit (h run : ImageHdr) : Bool := decide (h.oldestFmt ≤ run.stateFmt) && decide (run.oldestFmt ≤ h.stateFmt)

/-- Why a slot's image cannot be activated live (13 R586): LAST_RES and whether the formats are the reason. -/
def Mach.activateBlock (m : Mach) (slot : Nat) : Option (Nat × Bool) :=
  match (m.slot slot).hdr, m.img.runHdr with
  | some h, some r => if !formatsFit h r then some (4, true) else if !h.live then some (2, false) else none
  | _, _ => some (2, false)

/-- The activation waits: a command of step 1 that was fetched before it is in flight. -/
def Mach.activationWaits (m : Mach) : Bool :=
  match m.img.act with
  | some a => m.front.inflight.any fun c =>
      decide (c.stamp < a.from_) && c.sq == 0 && activationOps.contains c.sqe.opc.toNat && c.stage != .done && c.stage != .finished
  | none => false

/-- The activation goes on once nothing of step 1 is left to wait for: the slot is read and checked again (step 2). -/
def Mach.activationGo (m : Mach) : Mach :=
  match m.img.act with
  | none => m
  | some a =>
    if !a.waiting || m.activationWaits then m
    else if m.slotPasses m.floorNow a.slot then m.onImg fun i => { i with act := some { a with waiting := false } }
    else ((m.onImg fun i => { i.emptied with act := none }).commitEnds a.cmd 2).failWith a.cmd St.invalidImage

/-- An activation of a slot starts (13 R587). -/
def Mach.startActivation (slot cmd : Nat) (m : Mach) : Mach :=
  let m := m.onImg fun i =>
    { i.emptied with
        stage := 4, act := some { slot := slot, cmd := cmd, swaths := List.range m.nSwaths, done := [], back := none, cores := 0, waiting := true,
                                  at_ := m.clk.now, from_ := m.front.nextStamp } }
  (m.setStage cmd .media).activationGo

/-- Activate a slot whose image has been checked: at once done where its version runs already, refused by R586, or started. `refused` is
the answer of its route to a refusal, `same` to an image that runs already. -/
def Mach.activateSlot (slot cmd : Nat) (same refused : Mach → Mach) (m : Mach) : Mach :=
  if m.slotVersion slot = m.img.version then same (m.commitEnds cmd 1)
  else match m.activateBlock slot with
    | some (res, fmt) =>
      let m := m.commitEnds cmd res
      let m := if fmt then m.record 0x0D06 (match m.img.runHdr with | some r => r.stateFmt | none => 0) 0 else m
      refused m
    | none => m.startActivation slot cmd

/-- FW_COMMIT_ACTIVATE (13 R577, R586, R587): CA 0b011. -/
def execFwCommitActivate (stamp : Nat) (s : State) : Host.Outcome State Fault Refusal :=
  .next (s.on fun _ m => m.commit stamp (fun a => a == 3) fun k m =>
    match m.useStatus k with
    | some st => m.commitFails stamp st
    | none => m.activateSlot k stamp (fun m => m.succeed stamp) (fun m => m.failWith stamp St.fwNeedsReset))

/-- What follows a slot write that has been read back: for a worker whose manager asks for it, the activation of the slot (10 R489). -/
def Mach.afterWrite (slot use : Nat) (m : Mach) : Mach :=
  if use = 3 then m.activateSlot slot 0 Mach.reportVersion Mach.reportVersion else m

/-- SLOT_WRITE_DONE (13 R578): the slot is read back and checked; the staging area returns to Empty. On the recovery path a warm reset
follows (13 R585). -/
def execSlotWriteDone (readBackOk : Bool) (s : State) : Host.Outcome State Fault Refusal :=
  match s.m.img.writing, s.m.img.hdr with
  | some (slot, cmd, use), some h =>
    let ok := readBackOk && s.m.headerCheck s.m.floorNow h == 0
    let s := s.on fun _ m =>
      let m := m.onImg fun i => { i.emptied with writing := none }
      if ok then
        let m := m.onImg fun i =>
          { i with slots := Tbl.put Slot.init slot { hdr := some h, bodyOk := true } i.slots, valid := i.valid ++ [slot],
                   nextSlot := if use = 1 then some slot else i.nextSlot }
        let m := (m.record 0x0D02 slot 0).commitEnds cmd 1
        (m.finish cmd (if use = 1 then St.fwNeedsReset else Status.ok) 0).afterWrite slot use
      else ((m.record 0x0D03 slot 0).commitEnds cmd 3).failWith cmd St.fwProhibited
    .next (if use = 2 ∧ ok = true then s.warmReset false false else s)
  | _, _ => .next s

/-- The tines of a swath have run their deques empty (13 R588 step 2). -/
def Mach.swathEmpty (m : Mach) (sw : Nat) : Bool :=
  (List.range 16).all fun i => (m.tine (16 * sw + i)).idle && (m.tine (16 * sw + i)).running.isNone

/-- The acre's hold list is placed in its order, with lanes and ages (13 R588 step 5). -/
def Mach.placeHeld (m : Mach) : Mach := m.img.hold.foldl (fun m k => m.placeAged k) (m.onImg fun i => { i with hold := [] })

/-- The swaths that are still to switch: those of a fenced acre are skipped (13 R590). -/
def Mach.toSwitch (m : Mach) (a : Activ) : List Nat := a.swaths.filter fun sw => m.acreUp (swathAcre sw)

/-- A reversal goes on: with no swath left to switch back, the command fails, and the floors stay as they are (13 R589). -/
def Mach.reverseGo (a : Activ) (left : List Nat) (m : Mach) : Mach :=
  if left.any fun sw => m.acreUp (swathAcre sw) then m.onImg fun i => { i with act := some { a with back := some left } }
  else
    let m := ((m.onImg fun i => { i.emptied with act := none }).placeHeld).record 0x0D05 a.done.length 0
    ((m.commitEnds a.cmd 5).failWith a.cmd St.invalidImage).reportVersion

/-- SWATH_SWITCH (13 R588, R589): the swath whose turn it is has restarted, and its self-check passes or fails. Before that, the wait of
step 1 comes to its end. After a failure the swath, and then those already switched in reverse order, switch back one at a time. -/
def execSwathSwitch (selfCheckOk : Bool) (s : State) : Host.Outcome State Fault Refusal :=
  .next (s.on fun _ m =>
    match m.img.act with
    | none => m
    | some a =>
      if a.waiting then m.activationGo
      else match a.back with
        | some l => match l.filter fun sw => m.acreUp (swathAcre sw) with
          | [] => m.reverseGo a []
          | sw :: rest => if m.swathEmpty sw then (m.reverseGo a rest).placeHeld else m
        | none => match m.toSwitch a with
          | [] => m.onImg fun i => { i with act := some { a with swaths := [] } }
          | sw :: rest =>
            let m := m.onImg fun i => { i with act := some { a with swaths := sw :: rest } }
            if !m.swathEmpty sw then m
            else if selfCheckOk then
              (m.onImg fun i => { i with act := some { a with swaths := rest, done := a.done ++ [sw] } }).placeHeld
            else m.onImg fun i => { i with act := some { a with swaths := [], back := some (sw :: a.done.reverse) } })

/-- Send IMG_COMMIT to the next member that holds a staged copy of the version activated (10 R489). -/
def Mach.commitNext (m : Mach) : Mach :=
  match m.hitch.pending with
  | [] => m
  | n :: _ => m.sendBody 0x23 n (m.pathPort n) 0 (le 4 3)

/-- The members' turn after the manager's own activation (10 R489). -/
def Mach.commitMembers (version : Nat) (m : Mach) : Mach :=
  if m.hitch.role ≠ 1 then m
  else
    let l := [1, 2, 3, 4, 5, 6, 7].filter fun n => (m.member n).st == 1 && (m.member n).staged == some version
    (m.onHitch fun h => { h with pending := l }).commitNext

/-- CORE_SWITCH (13 R587 steps 4 to 6): a management core switches; after the fourth the floors rise, and the activation is done. -/
def execCoreSwitch (s : State) : Host.Outcome State Fault Refusal :=
  .next (s.on fun _ m =>
    match m.img.act with
    | none => m
    | some a =>
      if a.waiting || a.back.isSome || !(m.toSwitch a).isEmpty then m
      else if a.cores < 3 then m.onImg fun i => { i with act := some { a with swaths := [], cores := a.cores + 1 } }
      else match (m.slot a.slot).hdr with
        | none => m
        | some h =>
          let m := m.raiseFloors a.slot h
          let m := m.onImg fun i =>
            { i.emptied with act := none, running := a.slot, runHdr := some h, version := h.version,
                             nextSlot := if i.nextSlot = some a.slot then none else i.nextSlot }
          let m := m.record 0x0D04 ((m.clk.now - a.at_) / Config.edgesPerMs) 0
          let m := (m.commitEnds a.cmd 1).succeed a.cmd
          if a.cmd = 0 then m.reportVersion else m.commitMembers h.version)

end Sys2Proof.Machine
end

