-- ==== Sys2Proof/Machine/Ring.lean ====
section
/-! DEFINITION. Hitch rings (10): members and what each one may reach (R461 to R467, R473), the loss, resync, isolation and readmission of members
(R479 to R485), ports and links (R455, R456, R480), and discovery (R461 to R465). -/

namespace Sys2Proof.Machine

/-! ## Members -/

/-- Members up, as bits by position (04 R215, 10 R491). -/
def Mach.upBits (m : Mach) : Word := BitVec.ofNat 32 (1 + sumBy (fun n => 2 ^ n) m.membersUp)

/-- An Asymmetric Namespace Access Change notice to every plot that has enabled it (10 R467). -/
def Mach.anaNotice (m : Mach) : Mach := m.plots.tbl.foldl (fun m e => m.notice e.1 11 3 0x0C) m

/-- Commands outstanding at a member. -/
def Mach.fwdsOf (m : Mach) (n : Nat) : List Fwd := m.hitch.fwd.filter fun f => f.pos == n
/-- A forwarded command is no longer outstanding. -/
def Mach.dropFwd (f : Fwd) (m : Mach) : Mach :=
  (m.onHitch fun h => { h with fwd := h.fwd.filter fun k => k.stamp != f.stamp }).updMember f.pos fun x => { x with fwd := x.fwd - 1 }

/-- The Aborts that wait for a member's answer about a command end (10 R477). -/
def Mach.answerAborts (tag : Nat) (caught : Bool) (m : Mach) : Mach :=
  match m.cmd? tag with
  | none => m
  | some k =>
    (m.front.inflight.filter fun a =>
      a.plot == k.plot && a.sq == 0 && a.sqe.opc == 0x08 && a.stage == .media && Word.bits a.sqe.cdw10 15 0 == k.sq &&
        Word.bits a.sqe.cdw10 31 16 == k.sqe.cid.toNat).foldl (fun m a => m.abortEnds a caught) m

/-- A forwarded command completes with Internal Path Error (10 R482). -/
def Mach.pathFail (f : Fwd) (m : Mach) : Mach :=
  let m := (m.answerAborts f.stamp false).dropFwd f
  match m.cmd? f.stamp with
  | none => m
  | some _ =>
    let m := (m.failWith f.stamp St.pathError).onHitch fun h => { h with pathErrs := h.pathErrs + 1 }
    (m.updMember f.pos fun x => { x with errs := x.errs + 1 }).record 0x0A04 f.pos 0

/-- Every command outstanding at a member. -/
def Mach.pathFails (n : Nat) (m : Mach) : Mach := (m.fwdsOf n).foldl (fun m f => m.pathFail f) m

/-- Reads of a member's window that are outstanding return all ones (10 R470). -/
def Mach.dropReads (n : Nat) (m : Mach) : Mach :=
  let mine := fun (o : Nat) => match placeOf o with | .member k _ => k == n | _ => false
  if m.hitch.regPend.any mine then (m.onHitch fun h => { h with regPend := h.regPend.filter fun o => !mine o }).readReturns 0xFFFFFFFF else m

/-- Pass-along ends once no named member is awaited (10 R488). -/
def Mach.passEnds (m : Mach) : Mach :=
  let cmd := m.hitch.passCmd
  if cmd = 0 ∨ m.hitch.passWait ≠ [] then m
  else
    let bad := m.hitch.passBad
    let m := m.onHitch fun h => { h with passCmd := 0, passBad := false }
    if bad then (m.onHitch fun h => { h with members := mapTbl Member.init (fun _ x => { x with staged := none }) h.members }).failWith cmd St.invalidImage
    else m.finish cmd Status.ok m.upBits

/-- A member that pass-along awaits will not report: the command cannot succeed. -/
def Mach.leavePass (n : Nat) (m : Mach) : Mach :=
  if m.hitch.passWait.contains n then
    (m.onHitch fun h => { h with passWait := h.passWait.filter (fun k => k != n), passBad := true }).passEnds
  else m

/-- The turn of a member in an activation that goes from member to member has ended (10 R489). -/
def Mach.endTurn (n : Nat) (m : Mach) : Mach :=
  if m.hitch.pending.head? = some n then (m.onHitch fun h => { h with pending := h.pending.tail }).commitNext
  else m.onHitch fun h => { h with pending := h.pending.filter fun k => k != n }

/-- A member is lost, or held in reset (10 R482). -/
def Mach.loseMember (n st : Nat) (m : Mach) : Mach :=
  let m := m.updMember n fun x => { x with st := st, gen := x.gen + 1, lostAt := m.clk.now, hold := false }
  let m := (m.pathFails n).dropReads n
  ((((m.leavePass n).endTurn n).record 0x0A03 n 0).hubInt 11).anaNotice

/-- The isolation of a member comes to its end (10 R485): what it still had outstanding completes by R482, and it is told. -/
def Mach.endIsolate (n : Nat) (m : Mach) : Mach :=
  let cmd := (m.member n).isoCmd
  if cmd = 0 then m
  else
    let m := m.pathFails n
    let m := (m.sendBody 0x09 n (m.pathPort n) 0 (le 1 0)).updMember n fun x => { x with gen := x.gen + 1, isoCmd := 0, hold := false }
    let m := (((m.dropReads n).leavePass n).endTurn n)
    ((m.hubInt 11).anaNotice).finish cmd Status.ok m.upBits

/-- ... as soon as nothing is outstanding there. -/
def Mach.tryIsolate (n : Nat) (m : Mach) : Mach := if (m.fwdsOf n).isEmpty then m.endIsolate n else m

/-! ## Shared state of a member (10 R469) -/

/-- A saved vendor feature as the manager sends it on. -/
def featSqe (fid cdw11 cdw12 : Nat) (data : List Byte) : Sqe :=
  { Sqe.zero with opc := 0x09, cdw10 := BitVec.ofNat 32 (fid + 2 ^ 31), cdw11 := BitVec.ofNat 32 cdw11, cdw12 := BitVec.ofNat 32 cdw12,
                  data := data, bufLen := data.length }
/-- The attachment of a namespace to a plot as the manager sends it on. -/
def attachSqe (nsid plot : Nat) : Sqe :=
  { Sqe.zero with opc := 0x15, nsid := localNsid (BitVec.ofNat 32 nsid), data := le 2 1 ++ le 2 plot, bufLen := 4 }

/-- The quotas of every plot, the attachments of the member's namespaces, and the saved vendor features of the controller. -/
def Mach.sharedState (m : Mach) (n : Nat) : List Sqe :=
  m.plots.tbl.map (fun e => featSqe 0xC2 e.1 0 (quotaBytes e.2.quota)) ++
    (m.hitch.memberNs.filter fun e => memberOf e.1 == n).map (fun e => attachSqe e.1 e.2) ++
    (match m.boot.savedC0 with
     | some l => [featSqe 0xC0 0 0 (m.gridFeat (l.getD 0 8) (l.getD 1 10) (l.getD 2 0 == 1) (l.getD 3 1 == 1) (fun b => l.getD (4 + b) 1))]
     | none => []) ++
    (if m.heat.savedC3.isEmpty then [] else [featSqe 0xC3 0 0 (m.ladderFeat m.heat.savedC3)]) ++
    (if m.ybk.savedDeflt = 0 then [] else [featSqe 0xC4 0xFFFF m.ybk.savedDeflt []]) ++
    m.ybk.savedIvals.map fun e => featSqe 0xC4 e.1 e.2 []

def Mach.copyState (n : Nat) (m : Mach) : Mach := (m.sharedState n).foldl (fun m e => m.copyTo n e) m

/-! ## Segments and paths (10 R473, R481)

A segment lies between two neighbours and is named by the lower position of the two; the last one closes the ring to the manager's port 1. -/

def Mach.lastMember (m : Mach) : Nat := m.ringMembers.foldl Nat.max 0
/-- The neighbour of a member on one of its ports; 0 is the manager. -/
def Mach.neighbour (m : Mach) (n port : Nat) : Nat :=
  if port = 0 then ((m.ringMembers.find? fun k => decide (n < k)).getD 0)
  else if n = 0 then m.lastMember
  else (m.ringMembers.filter fun k => decide (k < n)).foldl Nat.max 0
/-- The segment at a port of a member. -/
def Mach.segOf (m : Mach) (n port : Nat) : Nat := if port = 0 then n else m.neighbour n 1

/-- Every segment of the clockwise, and of the counter-clockwise, path to a member is up. -/
def Mach.cwUp (m : Mach) (n : Nat) : Bool := m.hitch.segDown.all fun s => decide (n ≤ s)
def Mach.ccwUp (m : Mach) (n : Nat) : Bool := m.hitch.segDown.all fun s => decide (s < n)
def Mach.canReach (m : Mach) (n : Nat) : Bool := m.cwUp n || m.ccwUp n

/-- The path with fewer hops among those that are up, clockwise on a tie (10 R473); `true` is counter-clockwise. -/
def Mach.pickPath (m : Mach) (n : Nat) : Bool :=
  if m.cwUp n && m.ccwUp n then
    decide ((m.ringMembers.filter fun k => decide (n ≤ k)).length < (m.ringMembers.filter fun k => decide (k ≤ n)).length)
  else m.ccwUp n

/-- Resync a member on another path (10 R481 steps 1 and 2): the tags outstanding there, with the read bytes received. -/
def Mach.startResync (n : Nat) (path : Bool) (m : Mach) : Mach :=
  let m := m.updMember n fun x => { x with path := path, hold := true }
  m.sendBody 0x07 n (m.pathPort n) 0 ((m.fwdsOf n).flatMap fun f => le 8 f.stamp ++ le 4 f.rdBytes ++ zeros 4)

/-- Bring a member to what its paths allow (10 R481, R482). `held` is the neighbour that a port reports held in reset. -/
def Mach.settleMember (held : Nat) (n : Nat) (m : Mach) : Mach :=
  let x := m.member n
  let pathUp := if x.path then m.ccwUp n else m.cwUp n
  if x.st = 1 ∨ x.isoCmd ≠ 0 then
    if pathUp then m
    else if m.canReach n then m.startResync n (!x.path)
    else if x.st = 1 then m.loseMember n (if held = n then 3 else 2)
    else m.endIsolate n
  else if x.st = 2 ∧ held = n ∧ m.canReach n = false then m.updMember n fun x => { x with st := 3 }
  else if x.st = 4 ∧ pathUp = false ∧ m.canReach n = true then m.updMember n fun x => { x with path := !x.path }
  else m

def Mach.settlePaths (held : Nat) (m : Mach) : Mach := m.ringMembers.foldl (fun m n => m.settleMember held n) m

/-- The segment at a port of a member, or of the manager itself (0), is down: `sideband` is the neighbour's state as that port samples it. -/
def Mach.segmentDown (source port sideband : Nat) (m : Mach) : Mach :=
  if m.hitch.ring < 2 then m
  else
    let g := m.segOf source port
    let m := m.onHitch fun h =>
      { h with segDown := if h.segDown.contains g then h.segDown else h.segDown ++ [g],
               ring := 3, breaks := if h.ring = 2 then h.breaks + 1 else h.breaks }
    m.settlePaths (if sideband = 1 then m.neighbour source port else 0)

/-- Readmit a member (10 R484). -/
def Mach.readmit (n : Nat) (m : Mach) : Mach :=
  let path := m.pickPath n
  let m := m.updMember n fun x => { x with st := 1, gen := x.gen + 1, path := path, hold := false, fwd := 0, isoCmd := 0 }
  (((m.copyState n).record 0x0A05 n 0).hubInt 11).anaNotice

/-- A lost or held member is readmitted once it is reachable, 20 ms after its loss at the earliest (10 R484). -/
def Mach.tryReadmit (n : Nat) (m : Mach) : Mach :=
  let x := m.member n
  if (x.st = 2 ∨ x.st = 3) ∧ m.canReach n = true ∧ x.lostAt + 20 * Config.edgesPerMs ≤ m.clk.now then m.readmit n else m

/-- A segment is up again: the ring closes when none is left down, and members that are reachable again are readmitted. -/
def Mach.segmentUp (source port : Nat) (m : Mach) : Mach :=
  let g := m.segOf source port
  if m.hitch.ring < 2 ∨ m.hitch.segDown.contains g = false then m
  else
    let m := m.onHitch fun h =>
      let l := h.segDown.filter fun s => s != g
      { h with segDown := l, ring := if l.isEmpty then 2 else 3 }
    let m := (m.record 0x0A01 g 0).settlePaths 0
    m.ringMembers.foldl (fun m n => m.tryReadmit n) m

/-! ## Ports (10 R455, R456, R480) -/

def Mach.ownPort (m : Mach) (port : Nat) : Bool := m.awake && m.hitch.role != 0 && decide (port < 2)

/-- Admit a member at a position (10 R461, R464). -/
def Mach.admitMember (n : Nat) (e : MemberEntry) (m : Mach) : Mach :=
  let m := m.updMember n fun x => { Member.init with st := 1, gen := x.gen, entry := e, running := e.version }
  let path := m.pickPath n
  ((m.updMember n fun x => { x with path := path }).copyState n).anaNotice

/-- A worker makes itself known to its manager (10 R464). -/
def Mach.sendAnnounce (port : Nat) (m : Mach) : Mach := m.sendBody 0x03 0 port 0 (memberBytes m.ownEntry)

/-- HITCH_TRAINING_DONE (10 R455, R464, R490): the width that a port trained at, 8 or 4; another leaves it down, to retry after 100 ms. -/
def execHitchTrainingDone (port width : Nat) (s : State) : Host.Outcome State Fault Refusal :=
  .next (s.on fun _ m =>
    if !m.ownPort port || (m.hport port).st != 1 then m
    else if width = 8 ∨ width = 4 then
      let m := m.updHport port fun p => { p with st := 2, width := width, miss := 0, lastKa := m.clk.now }
      if m.hitch.role = 2 then m.sendAnnounce port else m.segmentUp 0 port
    else m.updHport port fun p => { p with width := 0, retryAt := m.clk.now + 100 * Config.edgesPerMs })

/-- HITCH_TRAINING_RETRY (10 R455): a port that is down trains again every 100 ms. -/
def execHitchTrainingRetry (port at_ : Nat) (s : State) : Host.Outcome State Fault Refusal :=
  .next (s.on fun _ m =>
    let m := m.advance at_
    if !m.ownPort port || (m.hport port).st != 1 || decide (m.clk.now < (m.hport port).retryAt) then m
    else m.updHport port fun p => { p with retryAt := m.clk.now + 100 * Config.edgesPerMs })

/-- What a port drives on its sideband output, in the codes of SIDEBAND_CHANGE (10 R456; 12 R561): low unpowered or strapped standalone, a square wave while
the controller is held in reset or starts up, and steady high once the port runs. -/
def Mach.sbo (m : Mach) (port : Nat) : Nat :=
  if m.clk.coldHeld || (m.awake && m.hitch.role == 0) then 0 else if m.awake && (m.hport port).st == 2 then 2 else 1

/-- SIDEBAND_CHANGE (10 R456): 0 unpowered or standalone, 1 held in reset, 2 running. A neighbour lost by the manager's own port is held in
reset when that port reports so (R482). -/
def execSidebandChange (port pattern : Nat) (s : State) : Host.Outcome State Fault Refusal :=
  .next (s.on fun _ m =>
    if !m.ownPort port || decide (3 ≤ pattern) then m
    else
      let m := m.updHport port fun p => { p with sb := pattern }
      if m.hitch.role = 1 ∧ (m.hport port).st = 3 ∧ pattern = 1 then m.settlePaths (m.neighbour 0 port) else m)

/-- KEEPALIVE_SEND (10 R460): every 10 µs on a trained port. -/
def execKeepaliveSend (port at_ : Nat) (s : State) : Host.Outcome State Fault Refusal :=
  .next (s.on fun _ m =>
    let m := m.advance at_
    let p := m.hport port
    if !m.ownPort port || !(p.st == 2 || p.st == 3) || decide (m.clk.now < p.sentAt + 10 * Config.edgesPerUs) then m
    else (m.sendBody 0x01 (m.neighbour m.hitch.pos port) port 0 []).updHport port fun p => { p with sentAt := m.clk.now })

/-- KEEPALIVE (10 R480): the miss count is cleared. A neighbour that was lost is back after 1 ms without a miss; a worker tells its
manager. -/
def execKeepalive (port at_ : Nat) (s : State) : Host.Outcome State Fault Refusal :=
  .next (s.on fun _ m =>
    let m := m.advance at_
    let p := m.hport port
    if !m.ownPort port || !(p.st == 2 || p.st == 3) then m
    else
      let from_ := p.upSince.getD m.clk.now
      let m := m.updHport port fun p =>
        { p with miss := 0, lastKa := m.clk.now, upSince := if p.st = 3 then some from_ else none }
      if p.st = 3 ∧ from_ + Config.edgesPerMs ≤ m.clk.now then
        let m := m.updHport port fun p => { p with st := 2, upSince := none }
        if m.hitch.role = 2 then m.sendBack 0x05 0 (le 4 port) else m.segmentUp 0 port
      else m)

/-- A neighbour is lost (10 R480, R481). -/
def Mach.neighbourLost (port : Nat) (m : Mach) : Mach :=
  let sb := (m.hport port).sb
  let m := m.updHport port fun p => { p with st := 3, losses := sat 8 (p.losses + 1), upSince := none }
  let m := m.record 0x0A00 port 0
  if m.hitch.role = 2 then m.sendBody 0x04 0 (1 - port) 0 (le 4 (port + 256 * sb)) else m.segmentDown 0 port sb

/-- KEEPALIVE_MISS (10 R480): 12 µs after the last KEEPALIVE or miss; the third miss in a row loses the neighbour. A KEEPALIVE on that
edge comes first (01 R72). -/
def execKeepaliveMiss (port at_ : Nat) (s : State) : Host.Outcome State Fault Refusal :=
  .next (s.on fun _ m =>
    let m := m.advance at_
    let p := m.hport port
    if !m.ownPort port || !(p.st == 2 || p.st == 3) || decide (m.clk.now < p.lastKa + 12 * Config.edgesPerUs) then m
    else
      let m := m.updHport port fun p => { p with miss := Nat.min 3 (p.miss + 1), lastKa := m.clk.now, upSince := none }
      if p.st = 2 ∧ p.miss = 2 then m.neighbourLost port else m)

/-- HITCH_FRAME_CRC_ERROR (10 R460, R492): the frame is replayed by its sender, but KEEPALIVE never is. -/
def execHitchFrameCrcError (port : Nat) (keepAlive : Bool) (s : State) : Host.Outcome State Fault Refusal :=
  .next (s.on fun _ m =>
    if !m.ownPort port || keepAlive then m
    else (m.updHport port fun p => { p with replays := p.replays + 1 }).record 0x0A09 port 0)

/-- HITCH_FRAME_RELAY (10 R460): a frame for another member goes out of the opposite port as it came. -/
def execHitchFrameRelay (port : Nat) (frame : List Byte) (s : State) : Host.Outcome State Fault Refusal :=
  .next (s.on fun _ m =>
    if !m.ownPort port || decide (leAt frame 2 1 = m.hitch.pos) then m
    else m.onHitch fun h => { h with sent := h.sent ++ [{ port := 1 - port, bytes := frame }] })

/-- Frame types of 10 R459. -/
def frameTypes : List Nat :=
  [0x01, 0x02, 0x03, 0x04, 0x05, 0x06, 0x07, 0x08, 0x09, 0x10, 0x11, 0x12, 0x13, 0x14, 0x15, 0x16, 0x17, 0x20, 0x21, 0x22, 0x23, 0x30, 0x31, 0x32, 0x33]

/-- UNKNOWN_FRAME_TYPE (10 R459): discarded and counted. -/
def execUnknownFrameType (port type : Nat) (s : State) : Host.Outcome State Fault Refusal :=
  .next (s.on fun _ m =>
    if !m.ownPort port || frameTypes.contains type then m
    else m.onHitch fun h => { h with unknown := h.unknown + 1 })

/-! ## Discovery (10 R461 to R465) -/

/-- The discovery that runs has ended: its Hitch Control completes. -/
def Mach.discoveryEnds (m : Mach) : Mach :=
  let cmd := m.hitch.discCmd
  (m.onHitch fun h => { h with discAt := none, discCmd := 0 }).finish cmd Status.ok m.upBits

/-- A member's namespaces move with it to a new position (10 R465). -/
def Mach.moveNs (from_ to_ : Nat) (l : List (Nat × Nat)) (m : Mach) : Mach :=
  (l.filter fun e => memberOf e.1 == from_).foldl (fun m e =>
    let n := 1024 * to_ + (e.1 - 1) % 1024 + 1
    (m.onHitch fun h => { h with memberNs := h.memberNs ++ [(n, e.2)] }).nsNotice n e.2) m

/-- DISCOVER has gone around (10 R461 step 3): the ring is closed, and its entries are the members in order. A member that is found at another
position moves there; one that is found no more is lost with its position. -/
def Mach.ringClosed (entries : List MemberEntry) (m : Mach) : Mach :=
  let found := ((entries.drop 1).take 7).zipIdx.map fun e => (e.2 + 1, e.1)
  let m := if 8 < entries.length then m.record 0x0A07 entries.length 0 else m
  let m := m.ringMembers.foldl (fun m n =>
    if found.any (fun e => e.1 == n && e.2.identity == (m.member n).entry.identity) = true ∨ (m.member n).st ≠ 1 then m else m.loseMember n 2) m
  let old := m.hitch.members
  let ns := m.hitch.memberNs
  let was := fun (e : MemberEntry) => old.find? fun o => o.2.st != 0 && o.2.entry.identity == e.identity
  let m := m.onHitch fun h => { h with members := [], segDown := [], ring := 2, memberNs := [] }
  let m := found.foldl (fun m e =>
    m.updMember e.1 fun _ => match was e.2 with
      | some o => { o.2 with st := if o.1 = e.1 ∨ o.2.st = 4 then o.2.st else 1, entry := e.2, running := e.2.version }
      | none => { Member.init with st := 1, entry := e.2, running := e.2.version }) m
  let m := found.foldl (fun m e =>
    let path := m.pickPath e.1
    let m := if (m.member e.1).fwd = 0 then m.updMember e.1 fun x => { x with path := path } else m
    match was e.2 with
    | some o =>
      if o.1 = e.1 then m.onHitch fun h => { h with memberNs := h.memberNs ++ ns.filter fun k => memberOf k.1 == e.1 }
      else (m.moveNs o.1 e.1 ns).copyState e.1
    | none => m.copyState e.1) m
  (m.anaNotice).discoveryEnds

/-- DISCOVER (10 R461 to R463). On a manager: its own has come back on port 1, or another manager's has come in. On a worker: it takes the
position that the frame gives it, and sends the frame on. -/
def execDiscover (port manager : Nat) (entries : List MemberEntry) (s : State) : Host.Outcome State Fault Refusal :=
  .next (s.on fun _ m =>
    if !m.ownPort port || (m.hport port).st != 2 then m
    else if m.hitch.role = 1 then
      if manager ≠ leAt m.identity 0 16 then
        ((m.updHport port fun p => { p with st := 4 }).record 0x0A08 port 0).segmentDown 0 port 0
      else if port = 1 ∧ m.hitch.discAt.isSome = true then m.ringClosed entries
      else m
    else if m.hitch.admitted && m.hitch.manager != manager then m
    else
      let n := entries.length
      if n = 0 then m
      else if 7 < n then m.sendBody 0x02 0 (1 - port) 0 (entries.flatMap memberBytes)
      else
        let m := m.onHitch fun h =>
          { h with pos := if port = 1 then n else 8 - n, admitted := true, manager := manager, lastTime := m.clk.now, orphaned := false }
        let m := m.sendBody 0x02 0 (1 - port) 0 ((entries ++ [m.ownEntry]).flatMap memberBytes)
        if (m.hport (1 - port)).st ≠ 2 ∨ m.boot.recovery = true then m.sendAnnounce port else m)

/-- DISCOVER_TIMEOUT (10 R461 step 4): the frame has not come back within 1 ms; the manager sends one the other way, and the ring is broken. -/
def execDiscoverTimeout (at_ : Nat) (s : State) : Host.Outcome State Fault Refusal :=
  .next (s.on fun _ m =>
    let m := m.advance at_
    match m.hitch.discAt with
    | none => m
    | some t =>
      if m.clk.now < t + Config.edgesPerMs then m
      else
        let m := m.sendBody 0x02 0 1 0 (memberBytes m.ownEntry)
        let m := m.onHitch fun h => { h with ring := 3, segDown := if h.segDown.isEmpty then [m.lastMember] else h.segDown }
        (m.settlePaths 0).discoveryEnds)

/-- The ends of a broken ring once a member is known at a position that frames from it reach by one of the manager's ports. -/
def Mach.joinSegments (n port : Nat) (m : Mach) : Mach :=
  m.onHitch fun h =>
    let l := h.segDown.filter fun s => if port = 0 then decide (n ≤ s) else decide (s < n)
    { h with segDown := if h.ring = 3 ∧ l.isEmpty = true then [if port = 0 then n else m.neighbour n 1] else l }

/-- ANNOUNCE (10 R464, R462; R489): a worker is admitted at the position that its place gives, a lost member comes back, and a member that is up
reports the version that it runs. -/
def execAnnounce (port position : Nat) (entry : MemberEntry) (s : State) : Host.Outcome State Fault Refusal :=
  .next (s.on fun _ m =>
    if !m.ownPort port || m.hitch.role != 1 || decide (m.hitch.ring < 2) then m
    else
      let x := m.member position
      let refuse := m.record 0x0A07 (m.ringMembers.length + 1) 0
      if position = 0 ∨ 7 < position then refuse
      else if x.st = 0 then (m.joinSegments position port).admitMember position entry
      else if x.entry.identity ≠ entry.identity then refuse
      else
        let m := m.updMember position fun x => { x with entry := entry, running := entry.version }
        if x.st = 1 then
          (m.updMember position fun x => { x with staged := if x.staged = some entry.version then none else x.staged }).endTurn position
        else if x.st = 4 then m
        else (m.joinSegments position port).tryReadmit position)

/-- LINK_DOWN (10 R459, R480, R481). -/
def execLinkDown (source port sideband at_ : Nat) (s : State) : Host.Outcome State Fault Refusal :=
  .next (s.on fun _ m =>
    let m := m.advance at_
    if !m.awake || m.hitch.role != 1 || decide (2 ≤ port) || !m.ringMembers.contains source then m
    else m.segmentDown source port sideband)

/-- LINK_UP (10 R480, R481, R484). -/
def execLinkUp (source port at_ : Nat) (s : State) : Host.Outcome State Fault Refusal :=
  .next (s.on fun _ m =>
    let m := m.advance at_
    if !m.awake || m.hitch.role != 1 || decide (2 ≤ port) || !m.ringMembers.contains source then m
    else m.segmentUp source port)

/-- READMIT_TIMER (10 R484). -/
def execReadmitTimer (position at_ : Nat) (s : State) : Host.Outcome State Fault Refusal :=
  .next (s.on fun _ m =>
    let m := m.advance at_
    if m.hitch.role = 1 then m.tryReadmit position else m)

/-- ISOLATE_WAIT_EXPIRY (10 R485): 10 ms after the Hitch Control. -/
def execIsolateWaitExpiry (position at_ : Nat) (s : State) : Host.Outcome State Fault Refusal :=
  .next (s.on fun _ m =>
    let m := m.advance at_
    if (m.member position).isoAt + 10 * Config.edgesPerMs ≤ m.clk.now then m.endIsolate position else m)

/-! ## Hitch Control (04 R215; 10 R461, R485, R486) -/

def hcAction (e : Sqe) : Nat := Word.bits e.cdw10 7 0
def hcPos (e : Sqe) : Nat := Word.bits e.cdw10 10 8

/-- A Hitch Control of plot 0 on a manager whose action meets `ok` (04 R216). -/
def Mach.hitchCtl (stamp : Nat) (ok : Nat → Bool) (f : Cmd → Nat → Mach → Mach) (m : Mach) : Mach :=
  m.adminIf stamp 0xC8 (fun c => ok (hcAction c.sqe)) fun c m =>
    if c.plot ≠ 0 then m.failWith stamp St.invalidOpcode
    else if m.hitch.role ≠ 1 then m.failWith stamp St.hitchRole
    else f c (hcPos c.sqe) m

/-- ... that names a member in the ring. -/
def Mach.hitchMember (stamp action : Nat) (f : Nat → Mach → Mach) (m : Mach) : Mach :=
  m.hitchCtl stamp (fun a => a == action) fun _ n m =>
    if n = 0 then m.failWith stamp St.invalidField
    else if (m.member n).st = 0 then m.failWith stamp St.hitchAbsent
    else f n m

/-- HITCH_REDISCOVER (10 R461): action 0x00, and the actions that are not defined. -/
def execHitchRediscover (stamp at_ : Nat) (s : State) : Host.Outcome State Fault Refusal :=
  .next (s.on fun _ m =>
    let m := m.advance at_
    if m.hitch.discAt.isSome then m
    else m.hitchCtl stamp (fun a => a == 0 || decide (4 ≤ a)) fun c _ m =>
      if hcAction c.sqe ≠ 0 then m.failWith stamp St.invalidField
      else (m.setStage stamp .media).startDiscovery stamp)

/-- HITCH_ISOLATE (10 R485): nothing more is forwarded to the member, and what is outstanding there may finish for 10 ms. -/
def execHitchIsolate (stamp at_ : Nat) (s : State) : Host.Outcome State Fault Refusal :=
  .next (s.on fun _ m => (m.advance at_).hitchMember stamp 1 fun n m =>
    let x := m.member n
    if x.st = 4 then m.finish stamp Status.ok m.upBits
    else if x.st = 1 then
      ((m.updMember n fun x => { x with st := 4, isoCmd := stamp, isoAt := m.clk.now }).setStage stamp .media).tryIsolate n
    else
      let m := m.updMember n fun x => { x with st := 4, gen := x.gen + 1 }
      (m.hubInt 11).finish stamp Status.ok m.upBits)

/-- HITCH_READMIT (10 R485): a member that is up, or not reachable yet, is left to R484. -/
def execHitchReadmit (stamp at_ : Nat) (s : State) : Host.Outcome State Fault Refusal :=
  .next (s.on fun _ m => (m.advance at_).hitchMember stamp 2 fun n m =>
    let x := m.member n
    let m := if x.st = 1 ∨ x.isoCmd ≠ 0 then m
      else if m.canReach n then m.readmit n
      else if x.st = 4 then m.updMember n fun x => { x with st := 2, lostAt := m.clk.now } else m
    m.finish stamp Status.ok m.upBits)

/-- HITCH_PASS_ALONG (10 R486, R487): the header and then the body go out on each direction that leads to a named member. -/
def execHitchPassAlong (stamp : Nat) (s : State) : Host.Outcome State Fault Refusal :=
  .next (s.on fun _ m => if m.hitch.passCmd ≠ 0 then m else m.hitchCtl stamp (fun a => a == 3) fun _ n m =>
    if n ≠ 0 ∧ (m.member n).st ≠ 1 then m.failWith stamp St.hitchAbsent
    else match m.img.hdr with
      | none => m.failWith stamp St.invalidImage
      | some _ =>
        let named := if n = 0 then m.membersUp else [n]
        let dirs := [0, 1].filter fun p => named.any fun k => m.pathPort k == p
        let m := dirs.foldl (fun m p =>
          (m.sendBody 0x20 0 p 0 (m.img.staged.take 4096)).sendBody 0x21 0 p 0 (m.img.staged.drop 4096)) m
        let m := (m.onHitch fun x => { x with passCmd := stamp, passWait := named, passBad := false }).setStage stamp .media
        m.passEnds)

end Sys2Proof.Machine
end

