-- ==== Sys2Proof/Machine/Hitch.lean ====
section
/-! DEFINITION. Frames of a hitch ring about commands (10 R474 to R478, R481, R483), grid time (R471), images (R487 to R489), registers (R470) and
tallies (R472). -/

namespace Sys2Proof.Machine

/-! ## The manager's side of forwarded commands -/

/-- The outstanding command that a frame of a member concerns: of the member, and of its present generation (10 R479). -/
def Mach.fwdOf (m : Mach) (source generation tag : Nat) : Option Fwd :=
  match m.fwd? tag with
  | some f => if m.hitch.role = 1 ∧ f.pos = source ∧ (m.member source).gen = generation then some f else none
  | none => none
def Mach.updFwd (tag : Nat) (f : Fwd → Fwd) (m : Mach) : Mach :=
  m.onHitch fun h => { h with fwd := h.fwd.map fun k => if k.stamp = tag then f k else k }

/-- A block of host data as it goes to a member: the CRC-32C of its plaintext quarters, and its ciphertext under the plot key (10 R475; 08 R402, R403). The
logical block of an Append's data, which the frames do not name, is free (DESIGN CHOICE: notes/assumptions/140). -/
def Mach.outBlock (m : Mach) (c : Cmd) (k : Nat) : List Nat × List Byte :=
  let p := blockBytes (c.sqe.blocks.getD k 0)
  let lba := if c.sqe.opc = 0x7D then Config.appendLba c.stamp else c.sqe.slba
  (grainCrcs p, aesXts false (m.keyBytes (m.plot c.plot).key) (tweakOf (lba + k) c.sqe.nsid.toNat) p)

/-- DATA_REQ (10 R475): the host data of the range asked for go out in DATA_W frames, 4,096 bytes in each: blocks as ciphertext with their grain CRCs, a
structure as it is; none while the member is being resynced (R481). -/
def execDataReq (source generation tag offset length : Nat) (s : State) : Host.Outcome State Fault Refusal :=
  .next (s.on fun _ m =>
    match m.fwdOf source generation tag, m.cmd? tag with
    | some _, some c =>
      if (m.member source).hold then m
      else
        let n := ceilDiv length 4096
        (List.range n).foldl (fun m i =>
          let k := offset / 4096 + i
          let d := if c.sqe.hostData then m.outBlock c k else ([], (c.sqe.data.drop (4096 * k)).take 4096)
          m.sendPart 0x11 (if i + 1 = n then 1 else 0) source (m.pathPort source) tag (4096 * k) d.1 d.2) m
    | _, _ => m)

/-- The command moves logical blocks to the host, not a structure; and it reads blocks whose data the drill decrypts and checks (10 R475; 06 R310). -/
def Cmd.movesBlocks (c : Cmd) : Bool := c.sq != 0 && c.sqe.opc == 0x02
def Cmd.checksBlocks (c : Cmd) : Bool := c.sq != 0 && c.isRead

/-- The plaintext of block `k` of a read from its ciphertext, or none where the CRC-32C of a grain differs (10 R475). Zeros with CRCs of zero are a block that
was never written, which is not encrypted (03 R150; DESIGN CHOICE: notes/assumptions/140). -/
def Mach.inBlock (m : Mach) (c : Cmd) (k : Nat) (b : Block) (crcs : List Nat) : Option Block :=
  if b = 0 ∧ crcs = [0, 0, 0, 0] then some 0
  else
    let p := aesXts true (m.keyBytes (m.plot c.plot).key) (tweakOf (c.sqe.slba + k) c.sqe.nsid.toNat) (blockBytes b)
    if grainCrcs p = crcs then some (blockOf p) else none

/-- The plaintext of the blocks of a DATA_R frame; a structure is taken as it is. -/
def Mach.inBlocks (m : Mach) (c : Cmd) (offset : Nat) (blocks : List Block) (crcs : List Word) : List (Option Block) :=
  if c.checksBlocks then
    blocks.mapIdx fun i b => m.inBlock c (offset / 4096 + i) b (((crcs.drop (4 * i)).take 4).map fun w => w.toNat)
  else blocks.map some

/-- DATA_R (10 R475): data that follow what has come are decrypted, checked and moved to the host. A grain CRC that does not match has the command run once more,
with the re-sense bit; the second time it fails (06 R310). -/
def execDataR (source generation tag offset : Nat) (blocks : List Block) (crcs : List Word) (s : State) :
    Host.Outcome State Fault Refusal :=
  .next (s.on fun _ m =>
    match m.fwdOf source generation tag, m.cmd? tag with
    | some f, some c =>
      let plain := m.inBlocks c offset blocks crcs
      if offset ≠ f.rdBytes then m
      else if plain.all (fun b => b.isSome) then
        let m := m.updFwd tag fun k => { k with rdBytes := k.rdBytes + 4096 * blocks.length }
        m.updCmd tag fun k =>
          if c.movesBlocks then { k with outBlocks := k.outBlocks ++ plain.filterMap id }
          else if c.checksBlocks then k
          else { k with outData := (k.outData ++ blocks.flatMap blockBytes).take k.sqe.bufLen }
      else
        let m := (m.hubInt 14).record 0x0803 c.plot 0
        if c.resensed then ((m.record 0x0609 c.plot 0).failWith tag St.unrecovered).dropFwd f
        else
          let m := m.updFwd tag fun k => { k with rdBytes := 0 }
          (m.updCmd tag fun k => { k with resensed := true, outBlocks := [], outData := [] }).sendCmd tag source true
    | _, _ => m)

/-- What a successful command of a member means for the manager's own tables: attachments and plot keys (09 R416, R426, R428; 10 R466). -/
def Mach.memberDone (c : Cmd) (n : Nat) (m : Mach) : Mach :=
  let i := c.sqe.nsid.toNat
  let sel := Word.bits c.sqe.cdw10 3 0
  let drop := fun (gone : Nat × Nat → Bool) (m : Mach) =>
    let l := m.hitch.memberNs.filter gone
    l.foldl (fun m e => (m.dropKey e.2).nsNotice e.1 e.2) (m.onHitch fun h => { h with memberNs := h.memberNs.filter fun e => !gone e })
  if c.sq ≠ 0 then m
  else if c.sqe.opc = 0x0D ∧ sel = 1 then (drop (fun e => e.1 == i) m).saveHub 0x11
  else if c.sqe.opc = 0x15 ∧ sel = 0 then
    ((ctrlList c.sqe.data).foldl (fun m p =>
      ((m.onHitch fun h => { h with memberNs := h.memberNs ++ [(i, p)] }).needKey p).nsNotice i p) m).saveHub 0x11
  else if c.sqe.opc = 0x15 then (drop (fun e => e.1 == i && (ctrlList c.sqe.data).contains e.2) m).saveHub 0x11
  else if c.sqe.opc = 0x0D ∧ sel = 0 then m.updMember n fun x => { x with entry := { x.entry with namespaces := x.entry.namespaces + 1 } }
  else m

/-- DW0 that the host sees: a namespace created on a member has the identifier that the manager presents (10 R466). -/
def memberDw0 (c : Cmd) (n : Nat) (dw0 : Word) : Word :=
  if c.sq = 0 ∧ c.sqe.opc = 0x0D ∧ Word.bits c.sqe.cdw10 3 0 = 0 then dw0 + BitVec.ofNat 32 (1024 * n) else dw0

/-- CPL (10 R476, R479): one is taken for each tag, and acknowledged; those of an older generation, and those of a tag that has completed, are
discarded (01 R70). A read whose data have not all come is not complete. -/
def execCpl (source generation tag : Nat) (dw0 dw1 : Word) (sct sc : Nat) (dnr : Bool) (s : State) : Host.Outcome State Fault Refusal :=
  .next (s.on fun _ m =>
    match m.fwdOf source generation tag with
    | none => m
    | some f =>
      let st : Status := { sct := sct, sc := sc, dnr := dnr }
      let c? := m.cmd? tag
      let short := match c? with
        | some c => st == Status.ok && c.checksBlocks && decide (f.rdBytes < 4096 * c.sqe.nlb)
        | none => false
      if short then m
      else
        let m := (m.answerAborts tag false).dropFwd f
        let m := match c? with
          | none => m
          | some c =>
            let m := m.updCmd tag fun k => { k with dw1 := dw1, committed := true }
            let m := m.finish tag st (if st = Status.ok then memberDw0 c source dw0 else dw0)
            if st = Status.ok then m.memberDone c source else m
        let m := m.sendBody 0x16 source (m.pathPort source) 0 (le 8 tag)
        if (m.member source).isoCmd ≠ 0 then m.tryIsolate source else m)

/-- CANCEL_REPLY (10 R477): a target that was caught completes as aborted, or as what squashed it; an Abort reports the answer. -/
def execCancelReply (source generation tag : Nat) (caught : Bool) (s : State) : Host.Outcome State Fault Refusal :=
  .next (s.on fun _ m =>
    match m.fwdOf source generation tag with
    | none => m
    | some f =>
      let m := m.answerAborts tag caught
      if caught then
        let m := m.dropFwd f
        let m := match m.cmd? tag with
          | none => m
          | some c => m.failWith tag (if c.caught then c.status else St.abortRequested)
        if (m.member source).isoCmd ≠ 0 then m.tryIsolate source else m
      else m.updCmd tag fun k => { k with caught := false, status := Status.ok })

/-- RESYNC_REPLY (10 R481 steps 3 and 4): commands that the member never received, and those fetched meanwhile, are sent in stamp order, and
forwarding resumes. The tags come with their state and the write bytes received. -/
def execResyncReply (source generation : Nat) (tags : List (Nat × Nat × Nat)) (s : State) : Host.Outcome State Fault Refusal :=
  .next (s.on fun _ m =>
    if m.hitch.role ≠ 1 ∨ (m.member source).gen ≠ generation ∨ (m.member source).hold = false then m
    else
      let m := (m.updMember source fun x => { x with hold := false }).record 0x0A02 tags.length 0
      let again := (m.fwdsOf source).filter fun f => match tags.find? (fun t => t.1 == f.stamp) with
        | some t => t.2.1 == 0
        | none => true
      again.foldl (fun m f => m.sendCmd f.stamp source false) m)

/-! ## The worker's side -/

/-- The controller is a worker that a manager has admitted. -/
def Mach.isWorker (m : Mach) : Bool := m.awake && m.hitch.role == 2 && m.hitch.admitted

/-- A forwarded command as the worker runs it: its host buffer is the manager's affair. -/
def workerCmd (tag plot now : Nat) (admin resense : Bool) (e : Sqe) : Cmd :=
  { newCmd tag plot (if admin then 0 else 1) 0 0 now { e with bufLen := 2 ^ 40, buf := .prp, blocks := [] } with resensed := resense }

/-- Shared state that the manager copies to its members is set at once (10 R469). -/
def State.takeCopy (e : Sqe) (s : State) : State :=
  let code := Word.bits e.cdw11 15 0
  if e.opc = 0x15 then
    s.on fun _ m => if (m.ns e.nsid.toNat).exists_ then (ctrlList e.data).foldl (fun m p => m.attachPlot e.nsid.toNat p) m else m
  else if e.opc ≠ 0x09 then s
  else match e.fid with
    | 0xC0 =>
      let s := s.applyGrid e.data
      s.on fun c m => m.onBoot fun b => { b with savedC0 := some c.grid }
    | 0xC2 => s.on fun _ m => m.setQuota (code % 1024) (quotaOf e.data) e.save
    | 0xC3 => s.on fun _ m => m.setLadder e.data e.save
    | 0xC4 => s.on fun _ m => m.setYbkRate code (Word.bits e.cdw12 15 0) e.save
    | _ => s

/-- CMD (10 R474, R469, R479): the command is admitted in the order received, under the manager's stamp; with the re-sense bit it is run once
more (06 R310). A tag that has been received is not run twice (R481). -/
def execCmd (generation tag plot : Nat) (admin resense : Bool) (entry : Sqe) (at_ : Nat) (s : State) :
    Host.Outcome State Fault Refusal :=
  let s := s.on fun _ m => m.advance at_
  if !s.m.isWorker || !s.m.inService then .next s
  else if tag = 0 then .next (s.takeCopy entry)
  else .next (s.on fun _ m =>
    let c := workerCmd tag plot m.clk.now admin resense entry
    let r : Recv := { tag := tag, st := 1, gen := generation, plot := plot, wrBytes := 0, rdFrom := 0, status := Status.ok, dw0 := 0, dw1 := 0, out := [], crcs := [] }
    match m.recv? tag with
    | none => (((m.onHitch fun h => { h with recv := h.recv ++ [r] }).onFront fun f => { f with nextStamp := Nat.max f.nextStamp (tag + 1) })).launch c
    | some k =>
      if resense && k.st != 3 then ((m.squash tag none).updRecv tag fun _ => r).launch c
      else m)

/-- DATA_W (10 R475): write data that follow what has come; the ciphertext and the carried grain CRCs are kept as received. -/
def execDataW (generation tag offset : Nat) (blocks : List Block) (crcs : List Word) (s : State) : Host.Outcome State Fault Refusal :=
  .next (s.on fun _ m =>
    match m.recv? tag with
    | none => m
    | some r =>
      if !m.isWorker || r.st != 1 || r.gen != generation || r.wrBytes != offset then m
      else
        (m.updRecv tag fun k => { k with wrBytes := k.wrBytes + 4096 * blocks.length }).updCmd tag fun k =>
          { k with sqe := { k.sqe with blocks := k.sqe.blocks ++ blocks }, crcs := k.crcs ++ crcs.map fun w => w.toNat })

/-- ACK (10 R476): the CPLs of the tags need not be kept. -/
def execAck (tags : List Nat) (s : State) : Host.Outcome State Fault Refusal :=
  .next (s.on fun _ m =>
    if m.isWorker then m.onHitch fun h => { h with recv := h.recv.filter fun r => !(r.st == 2 && tags.contains r.tag) } else m)

/-- CANCEL (10 R477, 04 R206 to R208): the worker catches or squashes on this edge what has not reached its commit point. Reason 0 is an
Abort, which some commands are never caught by (04 R207). -/
def execCancel (generation tag reason : Nat) (s : State) : Host.Outcome State Fault Refusal :=
  .next (s.on fun _ m =>
    if !m.isWorker then m
    else match m.recv? tag, m.cmd? tag with
      | some r, some c =>
        if r.gen ≠ generation then m
        else if r.st = 1 ∧ c.committed = false ∧ c.stage ≠ .done ∧ (reason ≠ 0 ∨ neverCaught c = false) then
          ((m.squash tag none).updRecv tag fun k => { k with st := 3 }).sendBack 0x15 tag (le 1 0)
        else m.sendBack 0x15 tag (le 1 1)
      | some r, none => if r.gen ≠ generation then m else m.sendBack 0x15 tag (le 1 (if r.st = 3 then 0 else 1))
      | none, _ => m.sendBack 0x15 tag (le 1 1))

/-- The entry of a tag in a RESYNC_REPLY (10 R459, R481): tag, state, write bytes received. -/
def Mach.resyncState (m : Mach) (tag : Nat) : List Byte :=
  match m.recv? tag with
  | none => le 8 tag ++ zeros 8
  | some r => le 8 tag ++ le 1 r.st ++ zeros 3 ++ le 4 r.wrBytes

/-- What the worker does about a tag of a RESYNC: it asks for the write data that are missing, sends read data from the manager's count on, or
sends its CPL or CANCEL_REPLY again. -/
def Mach.resyncTag (tag read : Nat) (m : Mach) : Mach :=
  match m.recv? tag with
  | none => m
  | some r =>
    let m := m.updRecv tag fun k => { k with rdFrom := read }
    if r.st = 2 then m.sendResult tag
    else if r.st = 3 then m.sendBack 0x15 tag (le 1 0)
    else match m.cmd? tag with
      | some c => if c.stage = .data ∧ c.sqe.hostData = true then m.sendBack 0x17 tag (le 4 r.wrBytes ++ le 4 (c.bytes - r.wrBytes)) else m
      | none => m

/-- RESYNC (10 R481): the tags outstanding, with the read bytes that the manager has received. -/
def execResync (tags : List (Nat × Nat)) (s : State) : Host.Outcome State Fault Refusal :=
  .next (s.on fun _ m =>
    if !m.isWorker then m
    else
      let m := m.sendBack 0x08 0 (tags.flatMap fun t => m.resyncState t.1)
      tags.foldl (fun m t => m.resyncTag t.1 t.2) m)

/-- A worker is orphaned (10 R483): forwarded commands before their commit point are squashed, the others go on without an answer, and every CPL
is discarded. -/
def Mach.orphaned (m : Mach) : Mach :=
  let mine := fun (c : Cmd) => (m.recv? c.stamp).isSome
  let open_ := m.front.inflight.filter fun c => mine c && !c.committed && c.stage != .done && c.stage != .finished
  let m := m.record 0x0A06 open_.length 0
  let m := m.discardWhere fun c => mine c
  m.onHitch fun h => { h with recv := [], orphaned := true }

/-- ORPHAN (10 R483, R485). -/
def execOrphan (reason : Nat) (s : State) : Host.Outcome State Fault Refusal :=
  .next (s.on fun _ m => if m.isWorker then m.orphaned else m)

/-- TIME_LOSS_TIMEOUT (10 R483): 10 ms without a TIME frame. -/
def execTimeLossTimeout (at_ : Nat) (s : State) : Host.Outcome State Fault Refusal :=
  .next (s.on fun _ m =>
    let m := m.advance at_
    if !m.isWorker || m.hitch.orphaned || decide (m.clk.now < m.hitch.lastTime + 10 * Config.edgesPerMs) then m else m.orphaned)

/-- TIME (10 R471): the manager's grid time, corrected by the latency of the path, stands for a successful dialogue. -/
def execTime (gridNs pass latencyNs : Nat) (managerLocked : Bool) (at_ : Nat) (s : State) : Host.Outcome State Fault Refusal :=
  .next (s.on fun _ m =>
    let m := m.advance at_
    if !m.isWorker then m
    else
      let host : Int := (gridNs : Int) + latencyNs
      (m.onHitch fun h => { h with lastTime := m.clk.now, mgrLocked := managerLocked, orphaned := false }).dialogueOk (host - m.gridNs) host)

/-! ## Images (10 R487 to R489) -/

/-- A worker's answer to pass-along. -/
def Mach.imgStatus (v : Nat) (m : Mach) : Mach := m.sendBack 0x22 0 (le 1 v)

/-- IMG_HDR (10 R487): a worker that is not named relays it; a named one checks it, and sends it on when it stages it. A staging area that
another commit holds is storage that fails. -/
def execImgHdr (port : Nat) (named : Bool) (header : List Byte) (s : State) : Host.Outcome State Fault Refusal :=
  .next (s.on fun _ m =>
    if !m.ownPort port || m.hitch.role != 2 then m
    else
      let on := fun (m : Mach) => m.sendBody 0x20 0 (1 - port) 0 header
      if !named then on m
      else if m.stagingBusy 2 then m.imgStatus 3
      else
        let k := m.headerCheck m.floorNow (ImageHdr.ofBytes header)
        if k ≠ 0 then (m.refuseImage k).imgStatus 1
        else on ((m.onImg Img.emptied).stageHeader 2 header))

/-- IMG_BLK (10 R487): the next block of the body, sent on as it is stored; the block that completes the body has it checked. -/
def execImgBlk (port : Nat) (named : Bool) (block : List Byte) (s : State) : Host.Outcome State Fault Refusal :=
  .next (s.on fun _ m =>
    if !m.ownPort port || m.hitch.role != 2 then m
    else
      let on := fun (m : Mach) => m.sendBody 0x21 0 (1 - port) 0 block
      if !named then on m
      else if m.img.route ≠ 2 ∨ m.img.stage ≠ 1 then m
      else
        let r := m.stageBody block
        let m := on r.2
        if !r.1 then m.imgStatus 2 else if m.img.stage = 2 then m.imgStatus 0 else m)

/-- Members beyond one on its path. -/
def Mach.beyond (m : Mach) (n k : Nat) : Bool :=
  (m.member n).path == (m.member k).path && (if (m.member n).path then decide (k < n) else decide (n < k))

/-- IMG_STS (10 R487, R488): a member reports; one that refuses the header keeps it from those beyond it. -/
def execImgSts (source result : Nat) (s : State) : Host.Outcome State Fault Refusal :=
  .next (s.on fun _ m =>
    if m.hitch.role ≠ 1 ∨ m.hitch.passWait.contains source = false then m
    else
      let left := m.hitch.passWait.filter fun k => k != source
      if result = 0 then
        let m := m.updMember source fun x => { x with staged := m.img.hdr.map (fun h => h.version) }
        (m.onHitch fun h => { h with passWait := left }).passEnds
      else
        let left := if result = 1 then left.filter (fun k => !m.beyond source k) else left
        ((m.record 0x0A0A result 0).onHitch fun h => { h with passWait := left, passBad := true }).passEnds)

/-- IMG_COMMIT (10 R489; 13 R585, R586): the worker commits the image that it has staged; action 3 writes the slot that does not run and activates
it. On the recovery path it writes slot 0, and a warm reset follows. -/
def execImgCommit (action : Nat) (s : State) : Host.Outcome State Fault Refusal :=
  .next (s.on fun _ m =>
    if m.hitch.role ≠ 2 ∨ m.awake = false ∨ m.committing = true then m
    else if m.boot.recovery then
      if m.img.stage = 2 ∧ action ≠ 2 then m.startSlotWrite 0 0 2 else m
    else
      let k := 1 - m.img.running
      if action = 2 then
        match m.useStatus k with
        | none => (m.onImg fun i => { i with nextSlot := some k }).commitEnds 0 1
        | some _ => m.commitEnds 0 2
      else if m.img.stage ≠ 2 ∨ 3 < action then (m.commitEnds 0 2).reportVersion
      else if action = 1 ∧ m.notBelow k (match m.img.hdr with | some h => h.version | none => 0) = false then m.commitEnds 0 2
      else m.startSlotWrite k 0 action)

/-! ## Registers of a member (10 R470; 15 R626) -/

/-- REG_RD: the plot table of a worker is read; a read clears and latches as any read does. -/
def execRegRd (offset : Nat) (s : State) : Host.Outcome State Fault Refusal :=
  .next (s.on fun c m =>
    if !m.isWorker then m
    else
      let o := offset / 4 * 4
      let r := if o < 0x00400000 then m.regRead c (placeOf (0x08000000 + o)) else (0, m)
      r.2.sendBack 0x32 0 (le 4 o ++ le 4 r.1.toNat))

/-- REG_WR: the plot table of a worker is written. -/
def execRegWr (offset : Nat) (value : Word) (s : State) : Host.Outcome State Fault Refusal :=
  if s.m.isWorker && decide (offset < 0x00400000) then .next (s.bar2Write (0x08000000 + offset / 4 * 4) value 15) else .next s

/-- REG_DATA: the read of a member's window that waits for it completes. -/
def execRegData (source offset : Nat) (value : Word) (s : State) : Host.Outcome State Fault Refusal :=
  .next (s.on fun _ m =>
    let at_ := 0x0C000000 + (source - 1) * 0x00800000 + offset
    if m.hitch.role ≠ 1 ∨ source = 0 ∨ m.hitch.regPend.contains at_ = false then m
    else (m.onHitch fun h => { h with regPend := h.regPend.erase at_ }).readReturns value)

/-! ## Tallies (10 R472) -/

/-- The sum of two entries of a minute, with their flags. -/
def addTally (a b : TallyEntry) : TallyEntry :=
  { minute := a.minute, unlocked := a.unlocked || b.unlocked, epochBreak := a.epochBreak || b.epochBreak, frozen := a.frozen || b.frozen,
    incomplete := a.incomplete || b.incomplete, bytesRead := a.bytesRead + b.bytesRead, bytesWritten := a.bytesWritten + b.bytesWritten,
    mediaOps := a.mediaOps + b.mediaOps, zoneSeconds := a.zoneSeconds + b.zoneSeconds, energy := a.energy + b.energy }

/-- Add a member's entry to a ring; a minute that the ring lacks takes its place in order. -/
def joinTally (e : TallyEntry) (ring : List TallyEntry) : List TallyEntry :=
  if ring.any (fun x => x.minute == e.minute) then ring.map fun x => if x.minute = e.minute then addTally x e else x
  else
    let l := (ring.filter fun x => decide (x.minute < e.minute)) ++ [e] ++ ring.filter fun x => decide (e.minute < x.minute)
    l.drop (l.length - 1440)

/-- TALLY: the closed entries of a member, by plot, 0xFFFF for the totals. -/
def execTally (source minute : Nat) (entries : List (Nat × TallyEntry)) (s : State) : Host.Outcome State Fault Refusal :=
  .next (s.on fun _ m =>
    if m.hitch.role ≠ 1 ∨ m.plots.missing.contains (source, minute) = false then m
    else
      let m := entries.foldl (fun m e =>
        let t := { e.2 with minute := minute }
        if e.1 = 0xFFFF then m.onPlots fun p => { p with totals := joinTally t p.totals }
        else if e.1 < 1024 then m.updPlot e.1 fun x => { x with ring := joinTally t x.ring }
        else m) m
      m.onPlots fun p => { p with missing := p.missing.erase (source, minute) })

end Sys2Proof.Machine
end

