-- ==== Sys2Proof/Machine/Polez.lean ====
section
/-! DEFINITION. Polez, the service port (13 R580 to R585; 14 R615; 09 R441, R442; 12 R561). -/

namespace Sys2Proof.Machine

/-! ## Requests and responses (13 R580) -/

/-- The port answers frames: SVC_EN is 1, the controller is no worker, and the boot ROM has started the verified image's phase (12 R561). -/
def Mach.polezUp (m : Mach) : Bool := m.boot.straps.svcEn && m.hitch.role != 2 && decide (2 ≤ m.boot.phase)

/-- A frame: header, payload and the CRC-32C of both (13 R580). -/
def polezFrame (opcode seqNo status : Nat) (response : Bool) (payload : List Byte) : List Byte :=
  let body := le 1 opcode ++ le 1 (b2n response) ++ le 2 seqNo ++ le 2 payload.length ++ le 1 status ++ zeros 1 ++ payload
  body ++ le 4 (crc32c body)

/-- Send a response. It is kept for a request that comes again. -/
def Mach.respond (seqNo opcode status : Nat) (payload : List Byte) (m : Mach) : Mach :=
  m.onPolez fun x =>
    { x with last := some seqNo, resp := payload, respSt := status, respOp := opcode, frame := polezFrame opcode seqNo status true payload,
             answered := x.answered + 1 }

/-- A request of an opcode: one with the number of the last request answered is not run again, and the last response is sent again. `image` is true of
the image opcodes, which the recovery path answers too (13 R584, R585); the others are answered from start-up complete. -/
def Mach.polezReq (seqNo opcode : Nat) (image : Bool) (f : Mach → Mach) (m : Mach) : Mach :=
  if !m.polezUp then m
  else if m.polez.last = some seqNo then m.onPolez fun x => { x with answered := x.answered + 1 }
  else if m.inService || (m.boot.recovery && image) then f m
  else m.respond seqNo opcode 4 []

/-- A request whose payload has a length that its opcode allows; another is answered FIELD (DESIGN CHOICE: notes/assumptions/132). -/
def Mach.polezSized (seqNo opcode : Nat) (image : Bool) (ok : Bool) (f : Mach → Mach) (m : Mach) : Mach :=
  m.polezReq seqNo opcode image fun m => if ok then f m else m.respond seqNo opcode 2 []

/-- Alert byte of Identify, and the level of SVC_ALERT_N (13 R581, R582). -/
def Mach.alertByte (m : Mach) : Nat := b2n (m.smartCrit 0 != 0) + 2 * b2n m.faultN + 4 * b2n m.polez.alert2 + 8 * b2n m.polez.alert3
/-- SVC_ALERT_N is asserted (13 R581). -/
def Mach.svcAlertN (m : Mach) : Bool := m.alertByte != 0

/-- The response of Identify (13 R582). -/
def Mach.polezIdentity (m : Mach) : List Byte :=
  let st := m.boot.straps
  let ver := fun (i : Nat) => if m.slotPasses m.floorNow i then m.slotVersion i else 0
  le 1 (b2n m.hub.part) ++ le 1 (st.role + 4 * b2n st.portMode + 8 * b2n st.bootSrc + 16 * b2n st.svcEn) ++ le 1 m.boot.phase ++
    le 1 m.alertByte ++ zeros 4 ++ m.identity ++ le 8 (if m.boot.recovery then 0 else m.img.version) ++ le 8 (ver 0) ++ le 8 (ver 1) ++
    le 1 m.img.epochFuse ++ le 1 m.img.stage ++ le 1 m.img.lastRes ++ zeros 1 ++ le 4 m.img.body ++ le 8 m.lifeSec ++ le 4 m.lifeCyc ++ zeros 28

/-- POLEZ_IDENTIFY (13 R582): answered from phase 2 on. Alert bits 2 and 3 clear once they have been sent (R581). -/
def execPolezIdentify (seqNo : Nat) (s : State) : Host.Outcome State Fault Refusal :=
  .next (s.on fun _ m =>
    if !m.polezUp then m
    else if m.polez.last = some seqNo then m.onPolez fun x => { x with answered := x.answered + 1 }
    else (m.respond seqNo 0x01 0 m.polezIdentity).onPolez fun x => { x with alert2 := false, alert3 := false })

/-- A temperature as the thermal registers give it (11 R518). -/
def temp16 (t : Int) : List Byte := le 2 (toTwos 16 t)

/-- The response of Read Sensors (13 R583). -/
def Mach.polezSensors (m : Mach) : List Byte :=
  (List.range 5).flatMap (fun d => temp16 (Tbl.get Diode.init d m.heat.diodes).temp) ++
    le 1 (sumBy (fun d => b2n ((Tbl.get Diode.init d m.heat.diodes).fail != 0) * 2 ^ d) (List.range 5)) ++ le 1 m.heat.step ++
    (List.range 16).flatMap (fun g => temp16 (Tbl.get Sense.init g m.heat.sense).temp) ++
    (List.range 16).flatMap (fun g => le 2 (Tbl.get Sense.init g m.heat.sense).pwr) ++
    le 4 (m.fullPass / 1000) ++ le 4 (m.grid.lastMeasured / 1000) ++ le 1 m.power.ps ++ zeros 3 ++ le 8 m.gridNs

/-- POLEZ_READ_SENSORS (13 R583). -/
def execPolezReadSensors (seqNo : Nat) (s : State) : Host.Outcome State Fault Refusal :=
  .next (s.on fun _ m => m.polezReq seqNo 0x30 false fun m => m.respond seqNo 0x30 0 m.polezSensors)

/-! ## Yield Book, tallies, plots -/

/-- The request of a Read Yield Book (14 R615). -/
structure YbkReq where
  member : Nat
  kind   : Nat
  first  : Nat
  count  : Nat
deriving DecidableEq, Repr

/-- The request's payload of 8 bytes. -/
def ybkReq (bs : List Byte) : YbkReq := { member := leAt bs 0 1, kind := leAt bs 1 1, first := leAt bs 2 2, count := leAt bs 4 2 }

/-- Items of a Read Yield Book, and how many there are. -/
def Mach.polezBook (m : Mach) (r : YbkReq) : Nat × List Byte :=
  let n := Nat.min r.count (4096 - r.first)
  match r.kind with
  | 0 => (1, m.ybkHeader)
  | 1 => (n, (List.range n).flatMap fun i => le 2 (m.slotCode (r.first + i)))
  | 2 => (n, (List.range n).flatMap fun i => m.slotRecord (r.first + i))
  | _ => match m.ybk.slots.idxOf? r.first with
    | some i => (1, m.slotRecord i)
    | none => (0, [])

/-- Items of a member's book: what another controller holds is free (notes/assumptions/7). -/
def Mach.polezMember (m : Mach) (r : YbkReq) : Nat × List Byte :=
  let n := Nat.min r.count (4096 - r.first)
  match r.kind with
  | 0 => (1, m.memberBook r.member 0 20)
  | 1 => (n, m.memberBook r.member (4096 + 2 * r.first) (2 * n))
  | 2 => (n, m.memberBook r.member (12288 + 256 * r.first) (256 * n))
  | _ =>
    let has := (Config.standardByte (0x3000 + r.member + 8 * m.clk.now) r.first).getLsbD 0
    if has then (1, m.memberBook r.member 12288 256) else (0, [])

/-- The request is within its ranges (14 R614, R615). -/
def Mach.polezBookOk (m : Mach) (r : YbkReq) : Bool :=
  (r.member == 0 || (decide (r.member ≤ 7) && m.hitch.role == 1 && (m.member r.member).st == 1)) &&
    (match r.kind with
     | 0 | 3 => r.count == 0
     | 1 => decide (1 ≤ r.count) && decide (r.count ≤ 2040)
     | 2 => decide (1 ≤ r.count) && decide (r.count ≤ 15)
     | _ => false)

/-- POLEZ_READ_YIELD_BOOK (14 R615). -/
def execPolezReadYieldBook (seqNo : Nat) (payload : List Byte) (s : State) : Host.Outcome State Fault Refusal :=
  .next (s.on fun _ m => m.polezSized seqNo 0x20 false (payload.length == 8) fun m =>
    let req := ybkReq payload
    if !m.polezBookOk req then m.respond seqNo 0x20 2 []
    else
      let r := if req.member = 0 then m.polezBook req else m.polezMember req
      m.respond seqNo 0x20 0 (le 1 req.member ++ le 1 req.kind ++ le 2 req.first ++ le 2 r.1 ++ le 2 m.ybk.slots.length ++ le 8 m.lifeSec ++ r.2))

/-- POLEZ_READ_TALLY (09 R441). -/
def execPolezReadTally (seqNo : Nat) (payload : List Byte) (s : State) : Host.Outcome State Fault Refusal :=
  .next (s.on fun _ m => m.polezSized seqNo 0x21 false (payload.length == 8) fun m =>
    let plot := leAt payload 0 2
    let first := leAt payload 4 2
    let count := leAt payload 6 2
    if count = 0 ∨ 63 < count then m.respond seqNo 0x21 2 []
    else
      let ring := if plot = 0xFFFF then m.plots.totals else if plot < 1024 then (m.plot plot).ring else []
      let es := (ring.drop first).take count
      let newest := match ring.getLast? with | some e => e.minute | none => 0
      m.respond seqNo 0x21 0 (le 2 plot ++ le 2 ring.length ++ le 2 first ++ le 2 es.length ++ le 8 newest ++ es.flatMap tallyBytes))

/-- An entry of Plot State (09 R442). -/
def Mach.plotEntry (m : Mach) (p : Nat) : List Byte :=
  let x := m.plot p
  let energy := match x.ring.getLast? with | some e => e.energy | none => 0
  le 2 p ++ le 1 x.st.code ++ le 1 (b2n (x.key != 0) + 2 * b2n x.port + 4 * b2n (m.ownsIso p)) ++ le 1 x.cause ++ zeros 1 ++
    le 2 (m.qpairs p) ++ le 4 (sat 32 energy) ++ le 4 (m.activeCount p)

/-- POLEZ_PLOT_STATE (09 R442). -/
def execPolezPlotState (seqNo : Nat) (payload : List Byte) (s : State) : Host.Outcome State Fault Refusal :=
  .next (s.on fun _ m => m.polezSized seqNo 0x40 false (payload.length == 4) fun m =>
    let first := leAt payload 0 2
    let count := leAt payload 2 2
    if count = 0 ∨ 255 < count ∨ 1024 < first + count then m.respond seqNo 0x40 2 []
    else m.respond seqNo 0x40 0 (le 2 first ++ le 2 count ++ zeros 12 ++ (List.range count).flatMap fun i => m.plotEntry (first + i)))

/-! ## Images (13 R584, R585) -/

/-- POLEZ_IMAGE_HEADER (13 R584, R566). -/
def execPolezImageHeader (seqNo : Nat) (payload : List Byte) (at_ : Nat) (s : State) : Host.Outcome State Fault Refusal :=
  .next (s.on fun _ m => (m.advance at_).polezSized seqNo 0x10 true (payload.length == 4096) fun m =>
    if m.stagingBusy 1 then m.respond seqNo 0x10 3 []
    else
      let m := m.onImg Img.emptied
      let k := m.headerCheck m.floorNow (ImageHdr.ofBytes payload)
      if k ≠ 0 then (m.refuseImage k).respond seqNo 0x10 5 (le 4 k)
      else (m.stageHeader 1 payload).respond seqNo 0x10 0 (le 4 0))

/-- POLEZ_IMAGE_BLOCK (13 R584): a block at the body bytes staged is appended, one wholly below changes nothing. -/
def execPolezImageBlock (seqNo : Nat) (payload : List Byte) (at_ : Nat) (s : State) : Host.Outcome State Fault Refusal :=
  .next (s.on fun _ m => (m.advance at_).polezSized seqNo 0x11 true (decide (5 ≤ payload.length) && decide (payload.length ≤ 4096)) fun m =>
    let answer := fun (st : Nat) (m : Mach) => m.respond seqNo 0x11 st (le 4 m.img.body)
    let offset := leAt payload 0 4
    let length := payload.length - 4
    if m.stagingBusy 1 then answer 3 m
    else match m.img.hdr with
      | none => answer 6 m
      | some h =>
        if offset + length ≤ m.img.body then answer 0 m
        else if offset ≠ m.img.body then answer 6 m
        else if h.bodyLen < offset + length then answer 2 m
        else
          let r := m.stageBody (payload.drop 4)
          answer (if r.1 then 0 else 7) r.2)

/-- The slot that an Image Commit names: 0xFF is the one not running, slot 0 on the recovery path. -/
def Mach.polezSlot (m : Mach) (slot : Nat) : Option Nat :=
  if m.boot.recovery then (if slot = 0xFF then some 0 else if slot ≤ 1 then some slot else none)
  else if slot = 0xFF then some (1 - m.img.running)
  else if slot ≤ 1 ∧ slot ≠ m.img.running then some slot else none

/-- An Image Commit of an action that names a slot: action (1), slot (1), reserved (2). `f` answers the status, and the machine after the action has started; an
action above 4 is out of range, and the row of action 0 answers it. -/
def Mach.polezCommit (seqNo action : Nat) (payload : List Byte) (f : Nat → Mach → Nat × Mach) (m : Mach) : Mach :=
  let a := leAt payload 0 1
  if payload.length = 4 ∧ a ≠ action ∧ (action ≠ 0 ∨ a ≤ 4) then m
  else m.polezSized seqNo 0x12 true (payload.length == 4 && a == action) fun m =>
    if m.stagingBusy 1 then m.respond seqNo 0x12 3 []
    else match m.polezSlot (leAt payload 1 1) with
      | none => m.respond seqNo 0x12 2 []
      | some k =>
        let r := f k m
        r.2.respond seqNo 0x12 r.1 []

/-- An Image Commit whose precondition fails: FIELD, and the last commit was refused (13 R584, R592). -/
def Mach.polezRefused (m : Mach) : Nat × Mach := (2, (m.onImg fun i => { i with lastRes := 2 }).hubInt 17)

/-- Start the write of the staged image: its precondition fails with FIELD. -/
def Mach.polezWrite (k use : Nat) (m : Mach) : Nat × Mach :=
  match m.img.hdr with
  | some h =>
    if m.img.stage ≠ 2 ∨ (use = 1 ∧ m.notBelow k h.version = false) then m.polezRefused
    else (0, m.startSlotWrite k 0 (if m.boot.recovery then 2 else use))
  | none => m.polezRefused

/-- POLEZ_COMMIT_WRITE (13 R584): action 0. -/
def execPolezCommitWrite (seqNo : Nat) (payload : List Byte) (s : State) : Host.Outcome State Fault Refusal :=
  .next (s.on fun _ m => m.polezCommit seqNo 0 payload fun k m => m.polezWrite k 0)

/-- POLEZ_COMMIT_WRITE_USE (13 R584): action 1. -/
def execPolezCommitWriteUse (seqNo : Nat) (payload : List Byte) (s : State) : Host.Outcome State Fault Refusal :=
  .next (s.on fun _ m => m.polezCommit seqNo 1 payload fun k m => m.polezWrite k (if m.boot.recovery then 0 else 1))

/-- POLEZ_COMMIT_USE_SLOT (13 R584): action 2; FIELD on the recovery path (R585). -/
def execPolezCommitUseSlot (seqNo : Nat) (payload : List Byte) (s : State) : Host.Outcome State Fault Refusal :=
  .next (s.on fun _ m => m.polezCommit seqNo 2 payload fun k m =>
    if m.boot.recovery || (m.useStatus k).isSome then m.polezRefused
    else (0, (m.onImg fun i => { i with nextSlot := some k }).commitEnds 0 1))

/-- POLEZ_COMMIT_ACTIVATE (13 R584, R586): action 3; on the recovery path it writes the slot, and a warm reset follows (R585). -/
def execPolezCommitActivate (seqNo : Nat) (payload : List Byte) (s : State) : Host.Outcome State Fault Refusal :=
  .next (s.on fun _ m => m.polezCommit seqNo 3 payload fun k m =>
    if m.boot.recovery then m.polezWrite k 2
    else if (m.useStatus k).isSome then m.polezRefused
    else
      let ok := m.slotVersion k == m.img.version || (m.activateBlock k).isNone
      (if ok then 0 else 2, m.activateSlot k 0 id id))

/-- POLEZ_COMMIT_EMPTY (13 R584): action 4. -/
def execPolezCommitEmpty (seqNo : Nat) (payload : List Byte) (s : State) : Host.Outcome State Fault Refusal :=
  .next (s.on fun _ m =>
    if payload.length = 4 ∧ leAt payload 0 1 ≠ 4 then m
    else m.polezSized seqNo 0x12 true (payload.length == 4) fun m =>
    if m.stagingBusy 1 then m.respond seqNo 0x12 3 []
    else ((m.onImg Img.emptied).commitEnds 0 1).respond seqNo 0x12 0 [])

/-- POLEZ_FRAMING_ERROR (13 R580, R594): the frame is dropped and counted. -/
def execPolezFramingError (length : Nat) (s : State) : Host.Outcome State Fault Refusal :=
  .next (s.on fun _ m =>
    if !m.polezUp then m
    else (m.onPolez fun x => { x with framing := x.framing + 1 }).record 0x0D0A length 0)

/-- Opcodes that the port knows. -/
def polezOpcodes : List Nat := [0x01, 0x10, 0x11, 0x12, 0x20, 0x21, 0x30, 0x40]

/-- POLEZ_OPCODE_NOT_SUPPORTED (13 R580): before start-up complete every opcode but Identify is answered NOT_READY (12 R561). -/
def execPolezOpcodeNotSupported (seqNo opcode : Nat) (s : State) : Host.Outcome State Fault Refusal :=
  .next (s.on fun _ m =>
    if polezOpcodes.contains opcode then m
    else m.polezReq seqNo opcode false fun m => m.respond seqNo opcode 1 [])

end Sys2Proof.Machine
end

