-- ==== Sys2Proof/Machine/Faults.lean ====
section
/-! DEFINITION. Board faults (01 R53, R62) and the end of a task (01 R15, R43). -/

namespace Sys2Proof.Machine

/-- ACRE_LINK_FAILURE (01 R53 cause 0x3): salvage follows where it can run; where it cannot, what was not programmed is lost (R59). -/
def execAcreLinkFailure (acre : Nat) (salvageable : Bool) (s : State) : Host.Outcome State Fault Refusal :=
  .next (s.on fun c m =>
    if !m.awake || !m.acreUp acre then m
    else
      let m := m.fenceStart acre 3
      if salvageable then m else m.salvageEnds c acre (m.unsalvaged acre) false)

/-- ACRE_SUPPLY_OR_CLOCK_FAULT (01 R53 cause 0x5). -/
def execAcreSupplyOrClockFault (acre : Nat) (s : State) : Host.Outcome State Fault Refusal :=
  .next (s.on fun _ m => if !m.awake || !m.acreUp acre then m else m.fenceStart acre 5)

/-- CROSSBAR_FAILURE (01 R62): no path is left between the host ports and any acre. -/
def execCrossbarFailure (s : State) : Host.Outcome State Fault Refusal :=
  .next (s.on fun _ m => if m.awake then m.enterFatal 5 else m)

/-! ## TASK_END -/

/-- The front-end task of a Set Features ends. -/
def State.endFeature (stamp fid : Nat) (s : State) : Host.Outcome State Fault Refusal :=
  match fid with
  | 0x02 => execSetFeaturesPowerMgmt stamp s
  | 0x06 => execSetFeaturesVwc stamp s
  | 0x0C => execSetFeaturesApst stamp s
  | 0xC0 => execSetFeaturesFurrowGrid stamp s
  | 0xC1 => execSetFeaturesPlacement stamp s
  | 0xC2 => execSetFeaturesPlotQuotas stamp s
  | 0xC3 => execSetFeaturesThrottle stamp s
  | 0xC4 => execSetFeaturesYbkRate stamp s
  | 0xC5 => execSetFeaturesUnwrittenRead stamp s
  | _ => execSetFeatures stamp s

/-- ... of a Get Log Page. -/
def State.endLog (stamp lid : Nat) (s : State) : Host.Outcome State Fault Refusal :=
  match lid with
  | 0xC0 => execGetLogYieldBook stamp s
  | 0xC1 => execGetLogTally stamp s
  | 0xC2 => execGetLogGridStats stamp s
  | 0xC3 => execGetLogBedHealth stamp s
  | 0xC4 => execGetLogHitchStatus stamp s
  | _ => execGetLogPage stamp s

/-- ... of a Firmware Commit, and of a Hitch Control. -/
def State.endCommit (stamp action : Nat) (s : State) : Host.Outcome State Fault Refusal :=
  match action with
  | 1 => execFwCommitReplaceUse stamp s
  | 2 => execFwCommitUseSlot stamp s
  | 3 => execFwCommitActivate stamp s
  | _ => execFwCommitReplace stamp s
def State.endHitch (stamp action : Nat) (s : State) : Host.Outcome State Fault Refusal :=
  match action with
  | 1 => execHitchIsolate stamp s.m.clk.now s
  | 2 => execHitchReadmit stamp s.m.clk.now s
  | 3 => execHitchPassAlong stamp s
  | _ => execHitchRediscover stamp s.m.clk.now s

/-- The front-end task of an admin command ends: its row acts. Those whose effect rests on what their data hold (Firmware Image Download and
Plot Restore) act by their own rows. -/
def State.endAdmin (c : Cmd) (s : State) : Host.Outcome State Fault Refusal :=
  let t := c.stamp
  let now := s.m.clk.now
  match c.sqe.opc.toNat with
  | 0x00 => execDeleteIoSq t s
  | 0x01 => execCreateIoSq t s
  | 0x02 => s.endLog t c.sqe.lid
  | 0x04 => execDeleteIoCq t s
  | 0x05 => execCreateIoCq t s
  | 0x06 => execIdentify t s
  | 0x08 => execAbort t now s
  | 0x09 => s.endFeature t c.sqe.fid
  | 0x0A => execGetFeatures t s
  | 0x0C => execAsyncEventRequest t s
  | 0x0D => if Word.bits c.sqe.cdw10 3 0 = 1 then execNamespaceDelete t s else execNamespaceCreate t s
  | 0x10 => s.endCommit t (fwAction c.sqe)
  | 0x11 => .next s
  | 0x14 => execDeviceSelfTest t s
  | 0x15 => if Word.bits c.sqe.cdw10 3 0 = 0 then execNamespaceAttach t s else execNamespaceDetach t s
  | 0x80 => execFormatNvm t s
  | 0xC1 => execPlotFreeze t now s
  | 0xC2 => execPlotSave t s
  | 0xC3 => if Word.bits c.sqe.cdw12 7 0 = 1 then execInstallMigrationKey t s else .next s
  | 0xC4 => execPlotThaw t s
  | 0xC5 => if c.plot = 0 then execPlotReset (s.m.plotPort c.sqe.target) c.sqe.target now s else execInvalidCommandOpcode t s
  | 0xC8 => s.endHitch t (hcAction c.sqe)
  | _ => execInvalidCommandOpcode t s

/-- The task of a tine ends; a task that was retried after a fault marks that fault's retry as good (01 R48). -/
def Mach.freeTine (tine : Nat) (k : Task) (m : Mach) : Mach :=
  let m := m.setTine tine { (m.tine tine) with running := none }
  match k.retried with
  | some (t, n) => if (m.tine t).fltCount = n then m.setTine t { (m.tine t) with retryOk := true } else m
  | none => m

/-- TASK_END (01 R15): the task of a tine hands its effects over: a media task posts its slot request (02 R93), a front-end task ends as the row of
its command says, a zone task journals a block erased or what a command did to a zone (its records go to the control region, 07 R338), or writes its part of a closed tally
minute (01 R17), and a codec task folds its unit or hands over the decode of its ladder's rung. A codec task
whose decode result is not known has not reached its end. -/
def execTaskEnd (tine : Nat) (s : State) : Host.Outcome State Fault Refusal :=
  if !decide (tine < s.m.nTines) || !s.m.tinesRun || !s.m.tineOk tine then .next s
  else match (s.m.tine tine).running with
    | none => .next s
    | some k =>
      let ended := s
      let s := s.on fun _ m => m.freeTine tine k
      match k.kind with
      | .zone => .next (s.on fun c m =>
          if k.stamp ≠ 0 then (m.zoneEnd c k.stamp).controlWrite k.scope
          else if k.req ≠ 0 then (m.eraseDone k.die (k.req - 1)).controlWrite k.scope
          else m.hubWrite)
      | .codec =>
        (match k.unit_, s.m.ladder? k.req with
         | some key, _ => .next (s.on fun _ m => (m.foldDram key).foldDone key)
         | none, some l => if l.res.isSome then .next (s.on fun c m => m.codecEnd c k.req) else .next ended
         | none, none => .next s)
      | .media => .next (s.on fun _ m => m.postWant k.req)
      | .frontEnd =>
        match s.m.cmd? k.stamp with
        | none => .next s
        | some c => if c.sq = 0 then s.endAdmin c else .next (s.on fun cfg m => m.ioRow cfg c.stamp m.clk.now fun _ => true)

end Sys2Proof.Machine
end

