-- ==== Sys2Proof/Machine/Dispatch.lean ====
section
/-! DEFINITION. One arm per command: a direct call of its meaning. -/

namespace Sys2Proof.Machine

def exec (i : Instr) (s : State) : Host.Outcome State Fault Refusal :=
  match i with
  | .ioFetch entries => Sys2Proof.Machine.execIoFetch entries s
  | .adminFetch entry => Sys2Proof.Machine.execAdminFetch entry s
  | .takeTask tine sramUe at_ => Sys2Proof.Machine.execTakeTask tine sramUe at_ s
  | .taskEnd tine => Sys2Proof.Machine.execTaskEnd tine s
  | .agePromotion at_ => Sys2Proof.Machine.execAgePromotion at_ s
  | .steal tine at_ => Sys2Proof.Machine.execSteal tine at_ s
  | .taskWatchdog tine at_ => Sys2Proof.Machine.execTaskWatchdog tine at_ s
  | .tineFault tine code => Sys2Proof.Machine.execTineFault tine code s
  | .salvageDone acre lost ran => Sys2Proof.Machine.execSalvageDone acre lost ran s
  | .mcoreWatchdog core at_ => Sys2Proof.Machine.execMcoreWatchdog core at_ s
  | .lateArrival latenessNs => Sys2Proof.Machine.execLateArrival latenessNs s
  | .commandFinished stamp => Sys2Proof.Machine.execCommandFinished stamp s
  | .completionPost plot qid sramUe at_ => Sys2Proof.Machine.execCompletionPost plot qid sramUe at_ s
  | .furrowBoundary sramUe => Sys2Proof.Machine.execFurrowBoundary sramUe s
  | .opIssue die at_ => Sys2Proof.Machine.execOpIssue die at_ s
  | .dieStatusPoll die reply at_ => Sys2Proof.Machine.execDieStatusPoll die reply at_ s
  | .dieReady die failed mismatch at_ => Sys2Proof.Machine.execDieReady die failed mismatch at_ s
  | .dieOpTimeout die at_ => Sys2Proof.Machine.execDieOpTimeout die at_ s
  | .zoneFinishByController nsid zone => Sys2Proof.Machine.execZoneFinishByController nsid zone s
  | .channelRetrainDone ch result us => Sys2Proof.Machine.execChannelRetrainDone ch result us s
  | .patternCheck ch matched => Sys2Proof.Machine.execPatternCheck ch matched s
  | .decodeDone ladder result => Sys2Proof.Machine.execDecodeDone ladder result s
  | .levelSweep die block group bitsAtIdx maxBits => Sys2Proof.Machine.execLevelSweep die block group bitsAtIdx maxBits s
  | .gleanerRelocate nsid => Sys2Proof.Machine.execGleanerRelocate nsid s
  | .passBoundary diodes => Sys2Proof.Machine.execPassBoundary diodes s
  | .ptmResponse t1 t2 t3 t4 malformed at_ => Sys2Proof.Machine.execPtmResponse t1 t2 t3 t4 malformed at_ s
  | .ptmTimeout at_ => Sys2Proof.Machine.execPtmTimeout at_ s
  | .ptmEnableChange port enable linkUp => Sys2Proof.Machine.execPtmEnableChange port enable linkUp s
  | .kUpdate => Sys2Proof.Machine.execKUpdate s
  | .tallyMinuteBoundary => Sys2Proof.Machine.execTallyMinuteBoundary s
  | .furCfgWrite value be => Sys2Proof.Machine.execFurCfgWrite value be s
  | .furCtrlWrite acre bed value be => Sys2Proof.Machine.execFurCtrlWrite acre bed value be s
  | .loRegisterRead offset => Sys2Proof.Machine.execLoRegisterRead offset s
  | .rcRegisterRead window offset => Sys2Proof.Machine.execRcRegisterRead window offset s
  | .registerWrite window offset value be => Sys2Proof.Machine.execRegisterWrite window offset value be s
  | .hubCtrlWrite value be => Sys2Proof.Machine.execHubCtrlWrite value be s
  | .hubIntStsClear value be => Sys2Proof.Machine.execHubIntStsClear value be s
  | .hubIntSetWrite value be => Sys2Proof.Machine.execHubIntSetWrite value be s
  | .hubLedCtrlWrite value be => Sys2Proof.Machine.execHubLedCtrlWrite value be s
  | .dirtyCfgWrite value be => Sys2Proof.Machine.execDirtyCfgWrite value be s
  | .mgdNandWpWrite swath index value be => Sys2Proof.Machine.execMgdNandWpWrite swath index value be s
  | .mgdBootWpWrite index value be => Sys2Proof.Machine.execMgdBootWpWrite index value be s
  | .mgdWindowOpen sector boot ops at_ => Sys2Proof.Machine.execMgdWindowOpen sector boot ops at_ s
  | .mgdWindowClose at_ => Sys2Proof.Machine.execMgdWindowClose at_ s
  | .dramRateRequest acre value be => Sys2Proof.Machine.execDramRateRequest acre value be s
  | .dramTrainingDone acre readEyes writeEyes readDlys writeDlys pattern => Sys2Proof.Machine.execDramTrainingDone acre readEyes writeEyes readDlys writeDlys pattern s
  | .dramTrainingTimeout acre at_ => Sys2Proof.Machine.execDramTrainingTimeout acre at_ s
  | .dramCommandSlot acre sub busy errors at_ => Sys2Proof.Machine.execDramCommandSlot acre sub busy errors at_ s
  | .requestPromotion acre at_ => Sys2Proof.Machine.execRequestPromotion acre at_ s
  | .refreshDue acre rank at_ => Sys2Proof.Machine.execRefreshDue acre rank at_ s
  | .mr4Poll acre hot at_ => Sys2Proof.Machine.execMr4Poll acre hot at_ s
  | .dqsTracking acre targets at_ => Sys2Proof.Machine.execDqsTracking acre targets at_ s
  | .mergeEntryTimeout acre at_ => Sys2Proof.Machine.execMergeEntryTimeout acre at_ s
  | .selfRefreshEntry acre at_ => Sys2Proof.Machine.execSelfRefreshEntry acre at_ s
  | .selfRefreshExit acre at_ => Sys2Proof.Machine.execSelfRefreshExit acre at_ s
  | .port0IdleTimeout at_ => Sys2Proof.Machine.execPort0IdleTimeout at_ s
  | .bufferRequest acre internal requester size sramUe at_ => Sys2Proof.Machine.execBufferRequest acre internal requester size sramUe at_ s
  | .bufferFree acre pool index internal requester at_ => Sys2Proof.Machine.execBufferFree acre pool index internal requester at_ s
  | .stripeRowReservation stamp at_ => Sys2Proof.Machine.execStripeRowReservation stamp at_ s
  | .dirtyCapAdmit at_ => Sys2Proof.Machine.execDirtyCapAdmit at_ s
  | .rangeLockGrant at_ => Sys2Proof.Machine.execRangeLockGrant at_ s
  | .commitPoint stamp => Sys2Proof.Machine.execCommitPoint stamp s
  | .descriptorPlace desc at_ => Sys2Proof.Machine.execDescriptorPlace desc at_ s
  | .drillTakeChunk group engine keyUe at_ => Sys2Proof.Machine.execDrillTakeChunk group engine keyUe at_ s
  | .chunkDone group engine bytes list => Sys2Proof.Machine.execChunkDone group engine bytes list s
  | .sealReturn group descId uncorrectable hostError at_ => Sys2Proof.Machine.execSealReturn group descId uncorrectable hostError at_ s
  | .hostCompletionTimeout group descId => Sys2Proof.Machine.execHostCompletionTimeout group descId s
  | .sqTailDoorbell port plot qid value be => Sys2Proof.Machine.execSqTailDoorbell port plot qid value be s
  | .cqHeadDoorbell port plot qid value be => Sys2Proof.Machine.execCqHeadDoorbell port plot qid value be s
  | .controllerEnable port plot cc aqa asq acq => Sys2Proof.Machine.execControllerEnable port plot cc aqa asq acq s
  | .controllerReset at_ => Sys2Proof.Machine.execControllerReset at_ s
  | .shutdownNormal port plot at_ => Sys2Proof.Machine.execShutdownNormal port plot at_ s
  | .shutdownAbrupt port plot at_ => Sys2Proof.Machine.execShutdownAbrupt port plot at_ s
  | .nvmSubsystemReset plot value => Sys2Proof.Machine.execNvmSubsystemReset plot value s
  | .createIoSq stamp => Sys2Proof.Machine.execCreateIoSq stamp s
  | .createIoCq stamp => Sys2Proof.Machine.execCreateIoCq stamp s
  | .deleteIoSq stamp => Sys2Proof.Machine.execDeleteIoSq stamp s
  | .deleteIoCq stamp => Sys2Proof.Machine.execDeleteIoCq stamp s
  | .identify stamp => Sys2Proof.Machine.execIdentify stamp s
  | .getLogPage stamp => Sys2Proof.Machine.execGetLogPage stamp s
  | .getLogYieldBook stamp => Sys2Proof.Machine.execGetLogYieldBook stamp s
  | .getLogTally stamp => Sys2Proof.Machine.execGetLogTally stamp s
  | .getLogGridStats stamp => Sys2Proof.Machine.execGetLogGridStats stamp s
  | .getLogBedHealth stamp => Sys2Proof.Machine.execGetLogBedHealth stamp s
  | .getLogHitchStatus stamp => Sys2Proof.Machine.execGetLogHitchStatus stamp s
  | .getFeatures stamp => Sys2Proof.Machine.execGetFeatures stamp s
  | .setFeatures stamp => Sys2Proof.Machine.execSetFeatures stamp s
  | .setFeaturesFurrowGrid stamp => Sys2Proof.Machine.execSetFeaturesFurrowGrid stamp s
  | .setFeaturesPlacement stamp => Sys2Proof.Machine.execSetFeaturesPlacement stamp s
  | .setFeaturesPlotQuotas stamp => Sys2Proof.Machine.execSetFeaturesPlotQuotas stamp s
  | .setFeaturesThrottle stamp => Sys2Proof.Machine.execSetFeaturesThrottle stamp s
  | .setFeaturesYbkRate stamp => Sys2Proof.Machine.execSetFeaturesYbkRate stamp s
  | .setFeaturesUnwrittenRead stamp => Sys2Proof.Machine.execSetFeaturesUnwrittenRead stamp s
  | .setFeaturesPowerMgmt stamp => Sys2Proof.Machine.execSetFeaturesPowerMgmt stamp s
  | .setFeaturesApst stamp => Sys2Proof.Machine.execSetFeaturesApst stamp s
  | .setFeaturesVwc stamp => Sys2Proof.Machine.execSetFeaturesVwc stamp s
  | .asyncEventRequest stamp => Sys2Proof.Machine.execAsyncEventRequest stamp s
  | .vendorEventPost => Sys2Proof.Machine.execVendorEventPost s
  | .abort stamp at_ => Sys2Proof.Machine.execAbort stamp at_ s
  | .namespaceCreate stamp => Sys2Proof.Machine.execNamespaceCreate stamp s
  | .namespaceDelete stamp => Sys2Proof.Machine.execNamespaceDelete stamp s
  | .namespaceAttach stamp => Sys2Proof.Machine.execNamespaceAttach stamp s
  | .namespaceDetach stamp => Sys2Proof.Machine.execNamespaceDetach stamp s
  | .formatNvm stamp => Sys2Proof.Machine.execFormatNvm stamp s
  | .deviceSelfTest stamp => Sys2Proof.Machine.execDeviceSelfTest stamp s
  | .write stamp at_ => Sys2Proof.Machine.execWrite stamp at_ s
  | .zoneAppend stamp at_ => Sys2Proof.Machine.execZoneAppend stamp at_ s
  | .writeZeroes stamp at_ => Sys2Proof.Machine.execWriteZeroes stamp at_ s
  | .copy stamp at_ => Sys2Proof.Machine.execCopy stamp at_ s
  | .read stamp at_ => Sys2Proof.Machine.execRead stamp at_ s
  | .verify stamp at_ => Sys2Proof.Machine.execVerify stamp at_ s
  | .flush stamp at_ => Sys2Proof.Machine.execFlush stamp at_ s
  | .flushDone stamp => Sys2Proof.Machine.execFlushDone stamp s
  | .datasetManagement stamp at_ => Sys2Proof.Machine.execDatasetManagement stamp at_ s
  | .zoneOpen stamp at_ => Sys2Proof.Machine.execZoneOpen stamp at_ s
  | .zoneClose stamp at_ => Sys2Proof.Machine.execZoneClose stamp at_ s
  | .zoneFinish stamp at_ => Sys2Proof.Machine.execZoneFinish stamp at_ s
  | .zoneReset stamp at_ => Sys2Proof.Machine.execZoneReset stamp at_ s
  | .zoneOffline stamp at_ => Sys2Proof.Machine.execZoneOffline stamp at_ s
  | .zoneSetZde stamp at_ => Sys2Proof.Machine.execZoneSetZde stamp at_ s
  | .reportZones stamp at_ => Sys2Proof.Machine.execReportZones stamp at_ s
  | .extendedReportZones stamp at_ => Sys2Proof.Machine.execExtendedReportZones stamp at_ s
  | .firmwareImageDownload stamp at_ => Sys2Proof.Machine.execFirmwareImageDownload stamp at_ s
  | .fwCommitReplace stamp => Sys2Proof.Machine.execFwCommitReplace stamp s
  | .fwCommitReplaceUse stamp => Sys2Proof.Machine.execFwCommitReplaceUse stamp s
  | .fwCommitUseSlot stamp => Sys2Proof.Machine.execFwCommitUseSlot stamp s
  | .fwCommitActivate stamp => Sys2Proof.Machine.execFwCommitActivate stamp s
  | .slotWriteDone readBackOk => Sys2Proof.Machine.execSlotWriteDone readBackOk s
  | .swathSwitch selfCheckOk => Sys2Proof.Machine.execSwathSwitch selfCheckOk s
  | .coreSwitch => Sys2Proof.Machine.execCoreSwitch s
  | .stagingIdleTimeout at_ => Sys2Proof.Machine.execStagingIdleTimeout at_ s
  | .plotFreeze stamp at_ => Sys2Proof.Machine.execPlotFreeze stamp at_ s
  | .freezeBoundExpiry plot at_ => Sys2Proof.Machine.execFreezeBoundExpiry plot at_ s
  | .freezeDone plot at_ => Sys2Proof.Machine.execFreezeDone plot at_ s
  | .plotSave stamp => Sys2Proof.Machine.execPlotSave stamp s
  | .plotRestore stamp => Sys2Proof.Machine.execPlotRestore stamp s
  | .installMigrationKey stamp => Sys2Proof.Machine.execInstallMigrationKey stamp s
  | .plotThaw stamp => Sys2Proof.Machine.execPlotThaw stamp s
  | .plotReset port plot at_ => Sys2Proof.Machine.execPlotReset port plot at_ s
  | .flrPlot0 at_ => Sys2Proof.Machine.execFlrPlot0 at_ s
  | .plotResetHostTimeout plot at_ => Sys2Proof.Machine.execPlotResetHostTimeout plot at_ s
  | .plotResetDone plot at_ => Sys2Proof.Machine.execPlotResetDone plot at_ s
  | .vfEnableSet port numVfs => Sys2Proof.Machine.execVfEnableSet port numVfs s
  | .vfEnableClear port numVfs at_ => Sys2Proof.Machine.execVfEnableClear port numVfs at_ s
  | .pltCfgWrite plot value be => Sys2Proof.Machine.execPltCfgWrite plot value be s
  | .isoApply plot value be => Sys2Proof.Machine.execIsoApply plot value be s
  | .isoApplyDone plot => Sys2Proof.Machine.execIsoApplyDone plot s
  | .hitchRediscover stamp at_ => Sys2Proof.Machine.execHitchRediscover stamp at_ s
  | .hitchIsolate stamp at_ => Sys2Proof.Machine.execHitchIsolate stamp at_ s
  | .hitchReadmit stamp at_ => Sys2Proof.Machine.execHitchReadmit stamp at_ s
  | .hitchPassAlong stamp => Sys2Proof.Machine.execHitchPassAlong stamp s
  | .isolateWaitExpiry position at_ => Sys2Proof.Machine.execIsolateWaitExpiry position at_ s
  | .keepaliveSend port at_ => Sys2Proof.Machine.execKeepaliveSend port at_ s
  | .keepalive port at_ => Sys2Proof.Machine.execKeepalive port at_ s
  | .keepaliveMiss port at_ => Sys2Proof.Machine.execKeepaliveMiss port at_ s
  | .discover port manager entries => Sys2Proof.Machine.execDiscover port manager entries s
  | .discoverTimeout at_ => Sys2Proof.Machine.execDiscoverTimeout at_ s
  | .announce port position entry => Sys2Proof.Machine.execAnnounce port position entry s
  | .linkDown source port sideband at_ => Sys2Proof.Machine.execLinkDown source port sideband at_ s
  | .linkUp source port at_ => Sys2Proof.Machine.execLinkUp source port at_ s
  | .time gridNs pass latencyNs managerLocked at_ => Sys2Proof.Machine.execTime gridNs pass latencyNs managerLocked at_ s
  | .timeLossTimeout at_ => Sys2Proof.Machine.execTimeLossTimeout at_ s
  | .resync tags => Sys2Proof.Machine.execResync tags s
  | .resyncReply source generation tags => Sys2Proof.Machine.execResyncReply source generation tags s
  | .orphan reason => Sys2Proof.Machine.execOrphan reason s
  | .readmitTimer position at_ => Sys2Proof.Machine.execReadmitTimer position at_ s
  | .cmd generation tag plot admin resense entry at_ => Sys2Proof.Machine.execCmd generation tag plot admin resense entry at_ s
  | .dataReq source generation tag offset length => Sys2Proof.Machine.execDataReq source generation tag offset length s
  | .dataW generation tag offset blocks crcs => Sys2Proof.Machine.execDataW generation tag offset blocks crcs s
  | .dataR source generation tag offset blocks crcs => Sys2Proof.Machine.execDataR source generation tag offset blocks crcs s
  | .cpl source generation tag dw0 dw1 sct sc dnr => Sys2Proof.Machine.execCpl source generation tag dw0 dw1 sct sc dnr s
  | .ack tags => Sys2Proof.Machine.execAck tags s
  | .cancel generation tag reason => Sys2Proof.Machine.execCancel generation tag reason s
  | .cancelReply source generation tag caught => Sys2Proof.Machine.execCancelReply source generation tag caught s
  | .imgHdr port named header => Sys2Proof.Machine.execImgHdr port named header s
  | .imgBlk port named block => Sys2Proof.Machine.execImgBlk port named block s
  | .imgSts source result => Sys2Proof.Machine.execImgSts source result s
  | .imgCommit action => Sys2Proof.Machine.execImgCommit action s
  | .regRd offset => Sys2Proof.Machine.execRegRd offset s
  | .regWr offset value => Sys2Proof.Machine.execRegWr offset value s
  | .regData source offset value => Sys2Proof.Machine.execRegData source offset value s
  | .tally source minute entries => Sys2Proof.Machine.execTally source minute entries s
  | .hitchTrainingDone port width => Sys2Proof.Machine.execHitchTrainingDone port width s
  | .hitchTrainingRetry port at_ => Sys2Proof.Machine.execHitchTrainingRetry port at_ s
  | .sidebandChange port pattern => Sys2Proof.Machine.execSidebandChange port pattern s
  | .apstIdleTimeout at_ => Sys2Proof.Machine.execApstIdleTimeout at_ s
  | .nonopEntry at_ => Sys2Proof.Machine.execNonopEntry at_ s
  | .domainDrainDone at_ => Sys2Proof.Machine.execDomainDrainDone at_ s
  | .drainBoundExpiry at_ => Sys2Proof.Machine.execDrainBoundExpiry at_ s
  | .nonopExit at_ => Sys2Proof.Machine.execNonopExit at_ s
  | .throttleEval => Sys2Proof.Machine.execThrottleEval s
  | .isnsSample samples => Sys2Proof.Machine.execIsnsSample samples s
  | .diodeSelfCheck diode mv10 mv100 reading => Sys2Proof.Machine.execDiodeSelfCheck diode mv10 mv100 reading s
  | .tripSample readings at_ => Sys2Proof.Machine.execTripSample readings at_ s
  | .tripDumpDone at_ => Sys2Proof.Machine.execTripDumpDone at_ s
  | .tripBackstop at_ => Sys2Proof.Machine.execTripBackstop at_ s
  | .tripRestart at_ => Sys2Proof.Machine.execTripRestart at_ s
  | .powerFail at_ => Sys2Proof.Machine.execPowerFail at_ s
  | .dumpDone at_ => Sys2Proof.Machine.execDumpDone at_ s
  | .powerfailDeassert at_ => Sys2Proof.Machine.execPowerfailDeassert at_ s
  | .supplyOutOfLimits us at_ => Sys2Proof.Machine.execSupplyOutOfLimits us at_ s
  | .coldResetRelease at_ => Sys2Proof.Machine.execColdResetRelease at_ s
  | .warmStart straps suppliesGood perstHigh at_ => Sys2Proof.Machine.execWarmStart straps suppliesGood perstHigh at_ s
  | .perstAssert at_ => Sys2Proof.Machine.execPerstAssert at_ s
  | .perst1Assert at_ => Sys2Proof.Machine.execPerst1Assert at_ s
  | .startupPhaseDone info at_ => Sys2Proof.Machine.execStartupPhaseDone info at_ s
  | .nandTrainingDone ch result => Sys2Proof.Machine.execNandTrainingDone ch result s
  | .nandTrainingTimeout ch at_ => Sys2Proof.Machine.execNandTrainingTimeout ch at_ s
  | .hostLinkTrained port => Sys2Proof.Machine.execHostLinkTrained port s
  | .equalizationDone port requestedGTs => Sys2Proof.Machine.execEqualizationDone port requestedGTs s
  | .timeBaseWrite at_ => Sys2Proof.Machine.execTimeBaseWrite at_ s
  | .occurrenceApply at_ => Sys2Proof.Machine.execOccurrenceApply at_ s
  | .persistIntervalEnd code at_ => Sys2Proof.Machine.execPersistIntervalEnd code at_ s
  | .journalUnitProgram at_ => Sys2Proof.Machine.execJournalUnitProgram at_ s
  | .polezIdentify seqNo => Sys2Proof.Machine.execPolezIdentify seqNo s
  | .polezReadSensors seqNo => Sys2Proof.Machine.execPolezReadSensors seqNo s
  | .polezReadYieldBook seqNo payload => Sys2Proof.Machine.execPolezReadYieldBook seqNo payload s
  | .polezReadTally seqNo payload => Sys2Proof.Machine.execPolezReadTally seqNo payload s
  | .polezPlotState seqNo payload => Sys2Proof.Machine.execPolezPlotState seqNo payload s
  | .polezImageHeader seqNo payload at_ => Sys2Proof.Machine.execPolezImageHeader seqNo payload at_ s
  | .polezImageBlock seqNo payload at_ => Sys2Proof.Machine.execPolezImageBlock seqNo payload at_ s
  | .polezCommitWrite seqNo payload => Sys2Proof.Machine.execPolezCommitWrite seqNo payload s
  | .polezCommitWriteUse seqNo payload => Sys2Proof.Machine.execPolezCommitWriteUse seqNo payload s
  | .polezCommitUseSlot seqNo payload => Sys2Proof.Machine.execPolezCommitUseSlot seqNo payload s
  | .polezCommitActivate seqNo payload => Sys2Proof.Machine.execPolezCommitActivate seqNo payload s
  | .polezCommitEmpty seqNo payload => Sys2Proof.Machine.execPolezCommitEmpty seqNo payload s
  | .polezFramingError length => Sys2Proof.Machine.execPolezFramingError length s
  | .lossOfPower => Sys2Proof.Machine.execLossOfPower s
  | .acreLinkFailure acre salvageable => Sys2Proof.Machine.execAcreLinkFailure acre salvageable s
  | .acreSupplyOrClockFault acre => Sys2Proof.Machine.execAcreSupplyOrClockFault acre s
  | .crossbarFailure => Sys2Proof.Machine.execCrossbarFailure s
  | .hostReadErrorCompletion plot descId at_ => Sys2Proof.Machine.execHostReadErrorCompletion plot descId at_ s
  | .hitchFrameCrcError port keepAlive => Sys2Proof.Machine.execHitchFrameCrcError port keepAlive s
  | .hitchFrameRelay port frame => Sys2Proof.Machine.execHitchFrameRelay port frame s
  | .unknownFrameType port type => Sys2Proof.Machine.execUnknownFrameType port type s
  | .polezOpcodeNotSupported seqNo opcode => Sys2Proof.Machine.execPolezOpcodeNotSupported seqNo opcode s
  | .invalidCommandOpcode stamp => Sys2Proof.Machine.execInvalidCommandOpcode stamp s
  | .deviceSelfTestEnd => Sys2Proof.Machine.execDeviceSelfTestEnd s

end Sys2Proof.Machine
end

