-- ==== Sys2Proof/Safety.lean ====
section
/-! DEFINITION. What the claims call legal: the ranges that the register tables give the configured fields, and the shape of the data. -/

namespace Sys2Proof.Machine

/-- A table in canonical form whose listed values all satisfy `p`. -/
def Tbl.Legal (d : Nat) (p : Nat → Prop) (t : Tbl Nat) : Prop := Tbl.wf d t = true ∧ ∀ e ∈ t, p e.2

/-- Every configured field is in the range that its register's rule gives it: FUR_CFG (02 R89), FUR_CTRL.P (02 R111), HUB_FETCH_CFG
(04 R183), SWT_ERS_CFG (05 R264), DRM_ARB_CFG (07 R345), DRM_RATE_REQ (07 R357), BPM_DIRTY_CFG (07 R383), DRL_GRP_CFG (08 R410),
HUB_INT_EN (15 R639). -/
structure Cfg.Legal (c : Cfg) : Prop where
  ptmInt : 1 ≤ c.ptmInt ∧ c.ptmInt ≤ 64
  rdRes : c.rdRes ≤ 50
  bedP : Tbl.Legal 1 (fun v => 1 ≤ v ∧ v ≤ 16) c.bedP
  fetch : 1 ≤ c.admMax ∧ c.admMax ≤ 255 ∧ 1 ≤ c.burst ∧ c.burst ≤ 8
  intEn : c.intEn &&& intMask = c.intEn
  minSlice : Tbl.Legal 0x258 (fun v => 200 ≤ v ∧ v ≤ 4000) c.minSlice
  arpLog2 : Tbl.Legal 0x0A (fun v => 6 ≤ v ∧ v ≤ 16) c.arpLog2
  age : Tbl.Legal 4 (fun v => 1 ≤ v ∧ v ≤ 63) c.age
  rateTarget : Tbl.Legal 0x370 (fun v => v ∈ dramRates) c.rateTarget
  intWt : Tbl.Legal 0x10 (fun v => 1 ≤ v ∧ v ≤ 255) c.intWt
  dirtyCap : 16 ≤ c.dirtyCap ∧ c.dirtyCap ≤ 32

/-- The state with the same configuration and queue, and `m` for everything else. -/
def State.withM (s : State) (m : Mach) : State := { s with m := m }

/-- The next state that a command answers, when it answers one. -/
def nextOf (o : Host.Outcome State Fault Refusal) : Option State :=
  match o with
  | .next t => some t
  | .fault _ => none
  | .refused _ => none

end Sys2Proof.Machine
end

