-- ==== Sys2Proof/Certificates/Slice0/Obligations.lean ====
section
/-! DEFINITION. The statements for the provers: what a step does, what reset leaves, what every step keeps, and for every command
where it completes and with which next state (`s.withM m` is the state with the same configuration and queue). Statements that
rest on a choice of the model say so in their docstrings, with the log entry. -/

open Sys2Proof Sys2Proof.Machine

/-- IO_FETCH (04 R179), which an admin fetch that is ready precedes (R181), and ADMIN_FETCH (04 R180) where a queue is fetchable. One fetched entry is `fetchOne`, of which `FetchTakesNextNumbers` speaks. -/
def Obligations.FetchCommandsComplete : Prop :=
  (∀ (s : State) (entries : List Sqe) (p : Nat), s.m.adminReady s.cfg = false →
      nextPlot s.m.front.lastIo (s.m.ioFetchable.map (fun k => k / 1024)) = some p →
      let credit := Tbl.get 0 p s.m.front.credit + (s.m.plot p).quota.fetchW
      let m := Mach.visit s.cfg p credit entries
        (s.m.onFront fun f => { f with lastIo := p, credit := Tbl.put 0 p credit f.credit })
      exec (.ioFetch entries) s = .next (s.withM
        (if m.ioFetchable.any (fun k => k / 1024 == p) then m
         else m.onFront fun f => { f with credit := Tbl.put 0 p 0 f.credit }))) ∧
  (∀ (s : State) (entry : Sqe) (p : Nat),
      s.m.adminCount < s.cfg.admMax → nextPlot s.m.front.lastAdm s.m.admFetchable = some p →
      exec (.adminFetch entry) s =
        .next (s.withM ((s.m.onFront fun f => { f with lastAdm := p }).fetchOne p 0 entry)))

/-- Numbering of commands: 04 R182 (stamps in fetch order over the controller) and 01 R31 (sequence numbers of a queue). -/
def Obligations.FetchTakesNextNumbers : Prop :=
  ∀ (m : Mach) (p q : Nat) (e : Sqe), m.power.entering = none →
    let t := m.fetchOne p q e
    let clash := m.front.inflight.any (fun k => k.plot == p && k.sq == q && k.sqe.cid == e.cid)
    let flush := (newCmd m.front.nextStamp p q (m.sq p q).cq (m.sq p q).nextSeq m.clk.now e).isFlush && m.power.vwc
    let hold := if flush = true ∧ clash = false then m.front.nextStamp else (m.sq p q).flushStamp
    (∃ c : Cmd, t.front.inflight = m.front.inflight ++ [c] ∧ c.stamp = m.front.nextStamp ∧ c.seq = (m.sq p q).nextSeq ∧
        c.plot = p ∧ c.sq = q ∧ c.cq = (m.sq p q).cq ∧ c.sqe = e) ∧
    t.front.nextStamp = m.front.nextStamp + 1 ∧
    (Tbl.wf Sq.init m.front.sqs = true →
      t.sq p q = { m.sq p q with head := ((m.sq p q).head + 1) % (m.sq p q).size, nextSeq := (m.sq p q).nextSeq + 1, flushStamp := hold } ∧
      ∀ p' q', qkey p' q' ≠ qkey p q → t.sq p' q' = m.sq p' q') ∧
    t.clk = m.clk ∧ t.med = m.med ∧ t.stg = m.stg ∧ t.front.out = m.front.out

/-- The owner's take (01 R19), promotion (01 R20), a steal (01 R24 to R27; the order of the tines within another swath is the model's, notes/assumptions/114; from the dispatcher the longest held task, DEDUCED: notes/assumptions/22) and the end of a task (01 R15). -/
def Obligations.TineCommandsComplete : Prop :=
  (∀ (s : State) (tine at_ l : Nat) (k : Task) (rest : List Task),
      let m := (s.m.advanceOn .tine at_).offerRetries
      tine < m.nTines → m.tinesRun = true → m.tineOk tine = true → (m.tine tine).running = none →
      (m.tine tine).topLane = some l → (m.tine tine).lane l = k :: rest →
      exec (.takeTask tine false at_) s =
        .next (s.withM ((m.setTine tine ((m.tine tine).setLane l rest)).startTask tine k))) ∧
  (∀ (s : State) (tine at_ : Nat),
      let m := (s.m.advanceOn .tine at_).offerRetries
      tine < m.nTines → m.awake = true →
      exec (.takeTask tine true at_) s = .next (s.withM (m.fenceStart (tineAcre tine) 2))) ∧
  (∀ (s : State) (at_ : Nat),
      let m := s.m.advanceOn .tine at_
      exec (.agePromotion at_) s =
        .next (s.withM (m.tines.foldl (fun x e => x.setTine e.1 (e.2.promote x.clk.now)) m))) ∧
  (∀ (s : State) (tine at_ v l : Nat) (k : Task),
      let m := s.m.advanceOn .tine at_
      m.mayThieve tine = true → m.stealFrom tine = some (v, l, k) →
      (m.tine v).stolenAt ≠ m.clk.now + 1 → s.pending.any (m.rival tine v l) = false →
      exec (.steal tine at_) s = .next (s.withM (m.takeTail tine v l k))) ∧
  (∀ (s : State) (tine at_ : Nat) (k : Task) (rest : List Task),
      let m := s.m.advanceOn .tine at_
      m.mayThieve tine = true → m.stealFrom tine = none → m.disp = k :: rest →
      exec (.steal tine at_) s = .next (s.withM (({ m with disp := rest } : Mach).startTask tine (k.enter m.clk.now)))) ∧
  (∀ (s : State) (tine at_ v l : Nat) (k : Task),
      let m := s.m.advanceOn .tine at_
      m.mayThieve tine = true → m.stealFrom tine = none → m.disp = [] → m.mostLoaded = some v →
      (m.tine v).stealLane (fun k => k.kind = .frontEnd) = some (l, k) →
      (m.tine v).stolenAt ≠ m.clk.now + 1 → s.pending.any (m.rival tine v l) = false →
      exec (.steal tine at_) s = .next (s.withM (m.takeTail tine v l k))) ∧
  (∀ (s : State) (tine : Nat) (k : Task),
      let f := s.m.freeTine tine k
      tine < s.m.nTines → s.m.tinesRun = true → s.m.tineOk tine = true → (s.m.tine tine).running = some k →
      (k.kind = .media → exec (.taskEnd tine) s = .next (s.withM (f.postWant k.req))) ∧
      (∀ c, k.kind = .frontEnd → f.cmd? k.stamp = some c → c.sq ≠ 0 →
        exec (.taskEnd tine) s = .next (s.withM (f.ioRow s.cfg c.stamp f.clk.now fun _ => true))) ∧
      (∀ c, k.kind = .frontEnd → f.cmd? k.stamp = some c → c.sq = 0 →
        exec (.taskEnd tine) s = (s.withM f).endAdmin c ∧ ∃ t, exec (.taskEnd tine) s = .next t) ∧
      (k.kind = .zone → exec (.taskEnd tine) s = .next (s.withM
        (if k.stamp ≠ 0 then (f.zoneEnd s.cfg k.stamp).controlWrite k.scope
         else if k.req ≠ 0 then (f.eraseDone k.die (k.req - 1)).controlWrite k.scope
         else f.hubWrite))) ∧
      (∀ key, k.kind = .codec → k.unit_ = some key →
        exec (.taskEnd tine) s = .next (s.withM ((f.foldDram key).foldDone key))) ∧
      (∀ l, k.kind = .codec → k.unit_ = none → s.m.ladder? k.req = some l → l.res.isSome = true →
        exec (.taskEnd tine) s = .next (s.withM (f.codecEnd s.cfg k.req))))

/-- Faults of tines (01 R41, R42), of acres (01 R53, R54), of the crossbar (01 R62), of a management core (01 R61), and late arrivals (01 R70). -/
def Obligations.TineAndAcreFaultsComplete : Prop :=
  (∀ (s : State) (tine at_ : Nat),
      let m := s.m.advanceOn .tine at_
      tine < m.nTines → m.tineOk tine = true → m.taskOverdue tine = true →
      exec (.taskWatchdog tine at_) s = .next (s.withM (m.tineFault tine 1))) ∧
  (∀ (s : State) (tine code : Nat),
      tine < s.m.nTines → s.m.tineOk tine = true → 1 ≤ code → code ≤ 5 →
      exec (.tineFault tine code) s = .next (s.withM (s.m.tineFault tine code))) ∧
  (∀ (s : State) (acre : Nat) (lost : List (Nat × Nat × Nat × Nat)), s.m.fencingA acre = true →
      exec (.salvageDone acre lost true) s = .next (s.withM (s.m.salvageEnds s.cfg acre (lost ++ s.m.hub.salvLost) true)) ∧
      exec (.salvageDone acre lost false) s = .next (s.withM (s.m.salvageEnds s.cfg acre (s.m.unsalvaged acre) false))) ∧
  (∀ (s : State) (acre : Nat), s.m.awake = true → s.m.acreUp acre = true →
      exec (.acreLinkFailure acre true) s = .next (s.withM (s.m.fenceStart acre 3))) ∧
  (∀ (s : State) (acre : Nat), s.m.awake = true → s.m.acreUp acre = true →
      let m := s.m.fenceStart acre 3
      exec (.acreLinkFailure acre false) s =
        .next (s.withM (m.salvageEnds s.cfg acre (m.unsalvaged acre) false))) ∧
  (∀ (s : State) (acre : Nat), s.m.awake = true → s.m.acreUp acre = true →
      exec (.acreSupplyOrClockFault acre) s = .next (s.withM (s.m.fenceStart acre 5))) ∧
  (∀ (s : State), s.m.awake = true → exec .crossbarFailure s = .next (s.withM (s.m.enterFatal 5))) ∧
  (∀ (s : State) (core at_ : Nat),
      let m := s.m.advance at_
      core < 4 → m.awake = true →
      let n := (m.onHub fun h => { h with mcoreAt := [m.clk.now], restarts := h.restarts + 1 }).record 0x0150 core 0
      exec (.mcoreWatchdog core at_) s = .next (s.withM
        (if m.hub.mcoreAt.any (fun t => decide (m.clk.now - t ≤ 60 * Config.edgesPerSec)) then n.enterFatal 1 else n))) ∧
  (∀ (s : State) (latenessNs : Nat),
      exec (.lateArrival latenessNs) s = .next (s.withM (s.m.record 0x0120 latenessNs 0)))

/-- Ends and completions (01 R32, R36; 04 R191; 10 R476 on a worker), doorbells (04 R175, R176; 15 R622) and hub events (15 R640). -/
def Obligations.CompletionAndDoorbellCommandsComplete : Prop :=
  (∀ (s : State) (stamp : Nat) (c : Cmd), s.m.cmd? stamp = some c → c.stage = .done → (s.m.recv? stamp).isSome = false →
      let n := if c.status = Status.ok ∧ c.sq ≠ 0 ∧ c.sqe.opc = 0x02 then s.m.countRead c.plot (4096 * c.sqe.nlb) else s.m
      let m := ((n.releaseLocks stamp).updCmd stamp fun k => { k with stage := .finished }).updSq c.plot c.sq
        fun x => { x with flushStamp := if x.flushStamp = stamp then 0 else x.flushStamp }
      exec (.commandFinished stamp) s = .next (s.withM
        (if (m.plot c.plot).st = .freezing ∧ c.caught = false then m.updPlot c.plot fun p => { p with frzDone := p.frzDone + 1 }
         else m))) ∧
  (∀ (s : State) (stamp : Nat) (c : Cmd), s.m.cmd? stamp = some c → c.stage = .done → (s.m.recv? stamp).isSome = true →
      exec (.commandFinished stamp) s = .next (s.withM (s.m.workerDone c))) ∧
  (∀ (s : State) (stamp : Nat), s.m.cmd? stamp = none → s.m.awake = true → s.m.hitch.role ≠ 2 →
      (stamp = 0 ∨ s.m.front.nextStamp ≤ stamp ∨ s.m.front.out.any (fun x => x.stamp == stamp) = true) →
      exec (.commandFinished stamp) s = .next (s.withM (s.m.enterFatal 3))) ∧
  (∀ (s : State) (plot qid at_ : Nat) (c : Cmd),
      let m := s.m.advance at_
      m.hub.fatal = false → ((m.plot plot).st = .ready ∨ (m.plot plot).st = .freezing ∨ (m.plot plot).st = .frozen) →
      (m.sq plot qid).size ≠ 0 →
      m.front.inflight.find? (fun c => c.plot == plot && c.sq == qid && c.seq == (m.sq plot qid).posted &&
        c.stage == .finished) = some c →
      (m.plots.bmeOff.contains plot = true → exec (.completionPost plot qid false at_) s = .next (s.withM (m.plotError plot 4))) ∧
      (m.plots.bmeOff.contains plot = false → (m.cq plot c.cq).hasRoom = true →
        exec (.completionPost plot qid false at_) s = .next (s.withM ((m.advance (m.sq plot qid).nextPost).postCpl c)))) ∧
  (∀ (s : State) (plot qid at_ : Nat), (s.m.advance at_).awake = true →
      exec (.completionPost plot qid true at_) s = .next (s.withM ((s.m.advance at_).enterFatal 0))) ∧
  (∀ (s : State) (port plot qid value : Nat) (be : BitVec 4),
      s.m.barTakes port plot = true → s.m.inService = true → qid ≤ 512 →
      (be = 15 ∧ (s.m.sq plot qid).size ≠ 0 ∧ value < (s.m.sq plot qid).size →
        exec (.sqTailDoorbell port plot qid value be) s =
          .next (s.withM (s.m.updSq plot qid fun q => { q with tail := value }).doorbell)) ∧
      (¬(be = 15 ∧ (s.m.sq plot qid).size ≠ 0 ∧ value < (s.m.sq plot qid).size) →
        exec (.sqTailDoorbell port plot qid value be) s = .next (s.withM (s.m.badDoorbell plot)))) ∧
  (∀ (s : State) (port plot qid value : Nat) (be : BitVec 4),
      s.m.barTakes port plot = true → s.m.inService = true → qid ≤ 512 →
      (be = 15 → (s.m.cq plot qid).size ≠ 0 → value < (s.m.cq plot qid).size →
        let q : Cq := { s.m.cq plot qid with head := value }
        (q.fullAt = none → exec (.cqHeadDoorbell port plot qid value be) s = .next (s.withM
          (s.m.updCq plot qid fun _ => q).doorbell)) ∧
        (∀ t, q.fullAt = some t → q.hasRoom = true → exec (.cqHeadDoorbell port plot qid value be) s = .next (s.withM
          ((s.m.record 0x0405 (s.m.usSince t) 0).updCq plot qid fun _ => { q with fullAt := none }).doorbell)) ∧
        (∀ t, q.fullAt = some t → q.hasRoom = false → exec (.cqHeadDoorbell port plot qid value be) s = .next (s.withM
          (s.m.updCq plot qid fun _ => q).doorbell))) ∧
      (¬(be = 15 ∧ (s.m.cq plot qid).size ≠ 0 ∧ value < (s.m.cq plot qid).size) →
        exec (.cqHeadDoorbell port plot qid value be) s = .next (s.withM (s.m.badDoorbell plot)))) ∧
  (∀ (s : State) (a : Cmd),
      s.m.heldAer 0 = some a → s.m.hub.intSts &&& s.cfg.intEn ≠ 0 → s.m.maskedType 0 7 = false → s.m.hub.fatal = false →
      exec .vendorEventPost s = .next (s.withM (s.m.postEvent
        { plot := 0, type := 7, info := lowBit (s.m.hub.intSts &&& s.cfg.intEn), lid := 0xC0 } a)))

/-- Completions leave a submission queue in the order of its sequence numbers, at most one a command (01 R32, R33). -/
def Obligations.PostingFollowsSequenceOrder : Prop :=
  ∀ (s t : State) (plot qid at_ : Nat) (sramUe : Bool), exec (.completionPost plot qid sramUe at_) s = .next t →
    t.m.front.out = s.m.front.out ∨
    ∃ c ∈ s.m.front.inflight, ∃ x : Cpl, t.m.front.out = s.m.front.out ++ [x] ∧ c.plot = plot ∧ c.sq = qid ∧
      c.seq = (s.m.sq plot qid).posted ∧ c.stage = .finished ∧
      x.stamp = c.stamp ∧ x.plot = plot ∧ x.sq = qid ∧ x.cid = c.sqe.cid ∧ x.status = c.status ∧ x.dw0 = c.dw0 ∧ x.dw1 = c.dw1

/-- The grid's commands (02 R73 to R103; 09 R438; a late PTM response by 01 R70; the swaths' edge by 02 R75; an acre's SRAM by 01 R53). -/
def Obligations.GridCommandsComplete : Prop :=
  (∀ (s : State) (sramUe : List Nat), s.m.awake = true →
      let start := furrowStart (s.m.grid.furrow + 1)
      let b := s.m.gridTo start
      let e := b.edgeOf start
      let n := (b.advance (e + 16)).onGrid fun g =>
        { g with furrow := g.furrow + 1, ticks := g.ticks + 1, boundaryAt := e, actionAt := e + 16 }
      let m := (dedup sramUe).foldl (fun m a => m.fenceStart a 2) n
      exec (.furrowBoundary sramUe) s = .next (s.withM (if m.granting then m.boundaryGrants s.cfg else m))) ∧
  (∀ (s : State) (diodes : List Int), s.m.awake = true →
      let m := (((s.m.gridTo (passStart (s.m.grid.pass + 1))).passEnergy).passDiodes diodes).passCounts
      let go := m.grid.st == .adopt && m.grid.adoptReady
      let n := if go then m.adopt else m
      exec (.passBoundary diodes) s = .next (s.withM
        ((((((n.passClock go).passPower).passBeds s.cfg).passBudget s.cfg).passDialogue s.cfg).sendTimes))) ∧
  (∀ (s : State), s.m.awake = true →
      exec .tallyMinuteBoundary s = .next (s.withM
        (((s.m.gridTo (minuteStart (s.m.grid.minute + 1))).closeMinute).onGrid fun g => { g with minute := g.minute + 1 }))) ∧
  (∀ (s : State) (t1 t2 t3 t4 : Int) (malformed : Bool) (at_ sent : Nat),
      let m := s.m.advance at_
      s.m.hitch.role ≠ 2 → s.m.grid.awaiting = some sent →
      (m.clk.now - sent ≤ 100 * Config.edgesPerUs →
        exec (.ptmResponse t1 t2 t3 t4 malformed at_) s = .next (s.withM
          (if malformed then m.dialogueFails 1 else m.dialogueOk (((t2 - t1) + (t3 - t4)) / 2) t2))) ∧
      (100 * Config.edgesPerUs < m.clk.now - sent →
        exec (.ptmResponse t1 t2 t3 t4 malformed at_) s = .next (s.withM
          (m.record 0x0120 ((m.clk.now - sent - 100 * Config.edgesPerUs) * 5 / 16) 0)))) ∧
  (∀ (s : State) (at_ sent : Nat),
      let m := s.m.advance at_
      s.m.hitch.role ≠ 2 → s.m.grid.awaiting = some sent → 100 * Config.edgesPerUs ≤ m.clk.now - sent →
      exec (.ptmTimeout at_) s = .next (s.withM (m.dialogueFails 0))) ∧
  (∀ (s : State) (port : Nat) (enable linkUp : Bool), port < 2 →
      let m := s.m.onGrid fun g =>
        { g with ptmEn := Tbl.put false port enable g.ptmEn, linkUp := Tbl.put false port linkUp g.linkUp }
      exec (.ptmEnableChange port enable linkUp) s = .next (s.withM (if m.ptmOn s.cfg then m else m.toFree))) ∧
  (∀ (s : State),
      (s.m.grid.kDue = none → exec .kUpdate s = .next s) ∧
      ∀ charges measured, s.m.grid.kDue = some (charges, measured) →
        let k : Int := (s.m.grid.k : Int) + 4096 * ((measured : Int) - charges) / (8 * charges)
        exec .kUpdate s = .next (s.withM (s.m.onGrid fun g =>
          { g with k := if charges = 0 then g.k else if k < 2048 then 2048 else if 8192 < k then 8192 else k.toNat,
                   kDue := none })))

/-- The correction factor (02 R103), apart from its reset value and the resolution of its report. -/
def Obligations.CorrectionFactorStaysInRange : Prop :=
  ∀ (s t : State), exec .kUpdate s = .next t → 2048 ≤ s.m.grid.k → s.m.grid.k ≤ 8192 →
    2048 ≤ t.m.grid.k ∧ t.m.grid.k ≤ 8192 ∧ t.m.grid.kDue = none ∧
    (s.m.grid.kDue = none → t = s) ∧
    (∀ charges measured, s.m.grid.kDue = some (charges, measured) →
      (charges ≤ measured → s.m.grid.k ≤ t.m.grid.k) ∧ (measured ≤ charges → t.m.grid.k ≤ s.m.grid.k) ∧
      (charges = 0 → t.m.grid.k = s.m.grid.k))

/-- Die operations (02 R97; 05 R232, R245 to R248, R270, R278; 01 R51, R70). -/
def Obligations.DieCommandsComplete : Prop :=
  (∀ (s : State) (die at_ : Nat),
      let d := s.m.die die
      let m := s.m.advance (if d.granted || d.suspGranted then Nat.max at_ d.issueAt else at_)
      m.acreUp (dieAcre die) = true → die < m.nDies → (m.chan (dieChan die)).training = false →
      (d.suspGranted = true → exec (.opIssue die at_) s = .next (s.withM (m.suspendDie die d.issueAt))) ∧
      (∀ r, d.suspGranted = false → d.granted = true → d.op = some r →
        ((∀ sector unit, r.purp ≠ .headland sector unit) →
          exec (.opIssue die at_) s = .next (s.withM (m.issueOp die r))) ∧
        (∀ sector unit, r.purp = .headland sector unit →
          (r.op ≠ .program → r.op ≠ .erase → exec (.opIssue die at_) s = .next (s.withM (m.issueOp die r))) ∧
          (r.op = .program ∨ r.op = .erase →
            (m.guarded false sector = true → exec (.opIssue die at_) s = .next (s.withM
              (((m.guardRefuse false sector).updDie die fun d => { d with granted := false, op := none }).headWrite die r.block r.op unit))) ∧
            (m.guarded false sector = false →
              exec (.opIssue die at_) s = .next (s.withM ((m.guardUse false sector).2.issueOp die r))))))) ∧
  (∀ (s : State) (die at_ : Nat) (reply : StatusReply),
      let m := s.m.advance at_
      let n := m.updDie die fun d => { d with polledAt := some m.clk.now }
      m.dieRuns die = true → m.pollFalls die = true →
      ((reply.reserved = true ∨ (reply.ready = true ∧ reply.busy = true)) →
        exec (.dieStatusPoll die reply at_) s = .next (s.withM (n.ifError s.cfg (dieChan die) 1))) ∧
      (reply.reserved = false → reply.ready = false → exec (.dieStatusPoll die reply at_) s = .next (s.withM n)) ∧
      (reply.reserved = false → reply.ready = true → reply.busy = false → exec (.dieStatusPoll die reply at_) s =
        .next (s.withM (if n.opLate die then n.lateReady die else (n.dieReady die reply.failed).beginClosing)))) ∧
  (∀ (s : State) (die at_ : Nat) (failed mismatch : Bool) (r : SlotReq),
      let m := s.m.advance at_
      let n := m.advance (m.clk.now + m.toPoll die r)
      let f := if mismatch = true ∧ (r.op = .setFeatures ∨ r.op = .getFeatures) then n.ifError s.cfg (dieChan die) 2 else n
      m.dieRuns die = true → (m.die die).op = some r →
      exec (.dieReady die failed mismatch at_) s =
        .next (s.withM (if n.opLate die then n.lateReady die else (f.dieReady die failed).beginClosing))) ∧
  (∀ (s : State) (die at_ : Nat) (r : SlotReq),
      let m := s.m.advance at_
      let rec_ := m.record 0x0501 0 (dieAcre die + 1)
      let n := (m.updDie die fun d =>
          { d with timeouts := d.timeouts + 1, timedOut := some r, timedAt := m.clk.now, op := none, suspGranted := false }).post
            (mkReq die .reset (.recovery r.op) r.block 0 0)
      m.dieRuns die = true → (m.die die).op = some r → m.timeoutEdges die r ≤ m.ranEdges (m.die die) →
      (r.op = .reset → exec (.dieOpTimeout die at_) s = .next (s.withM (rec_.markFailed s.cfg die))) ∧
      (r.op ≠ .reset → 2 ≤ (m.die die).timeouts →
        (∀ nsid zi row col, r.purp = .unit nsid zi row col → exec (.dieOpTimeout die at_) s = .next (s.withM
          (((m.updUnit nsid zi row col fun u => { u with issued := false }).record 0x0501 0 (dieAcre die + 1)).markFailed s.cfg die))) ∧
        ((∀ nsid zi row col, r.purp ≠ .unit nsid zi row col) →
          exec (.dieOpTimeout die at_) s = .next (s.withM (rec_.markFailed s.cfg die)))) ∧
      (r.op ≠ .reset → (m.die die).timeouts < 2 →
        (∀ stamp id, r.purp = .host stamp id → exec (.dieOpTimeout die at_) s = .next (s.withM (n.aroundLate id))) ∧
        ((∀ stamp id, r.purp ≠ .host stamp id) → exec (.dieOpTimeout die at_) s = .next (s.withM n))))

/-- Channels (01 R49, 05 R232), decode (06 R302, 01 R15), level sweeps (05 R275), the gleaner (03 R165) and Finish by the controller (03 R151). -/
def Obligations.MediaCommandsComplete : Prop :=
  (∀ (s : State) (ch us : Nat),
      let m := s.m.record 0x0130 us (chanAcre ch + 1)
      ch < s.m.nChans → s.m.acreUp (chanAcre ch) = true → s.m.inService = true → (s.m.chan ch).training = true →
      exec (.channelRetrainDone ch .passed us) s = .next (s.withM
        (((List.range 32).foldl (fun x b => x.updWd s.cfg (32 * chanAcre ch + b))
          (m.updChan ch fun x => { x with training := false, inService := true, errPasses := [] })).chanResume ch)) ∧
      (∀ r, (s.m.chan ch).lower = some r →
        exec (.channelRetrainDone ch .failed us) s = .next (s.withM
          ((m.updChan ch fun x =>
            { x with mode := r.1, rate := r.2, inService := ({ x with mode := r.1, rate := r.2 } : Chan).lower.isSome }).record
              0x0131 (10 * r.2) (chanAcre ch + 1)))) ∧
      ((s.m.chan ch).lower = none →
        exec (.channelRetrainDone ch .failed us) s = .next (s.withM (m.failChannel s.cfg ch)))) ∧
  (∀ (s : State) (ch : Nat), ch < s.m.nChans → s.m.acreUp (chanAcre ch) = true → s.m.inService = true →
      (s.m.chan ch).training = false → ((s.m.chan ch).unchecked = true ∨ (s.m.chan ch).checkAt + 1000 ≤ s.m.grid.passes) →
      let m := s.m.updChan ch fun x => { x with checkAt := s.m.grid.passes, unchecked := false }
      exec (.patternCheck ch false) s = .next (s.withM (m.ifError s.cfg ch 4)) ∧
      exec (.patternCheck ch true) s = .next (s.withM m)) ∧
  (∀ (s : State) (id : Nat) (r : DecodeResult) (l : Ladder), s.m.ladder? id = some l → l.waiting = 0 →
      s.m.codecWaits id = true →
      let n := s.m.updLadder id fun l => { l with res := some r }
      let m := if l.pageDone r then n.releaseDie l.die l.id else n
      (m.codecTine id = none → exec (.decodeDone id r) s = .next (s.withM m)) ∧
      (∀ t, m.codecTine id = some t → exec (.decodeDone id r) s = .next (s.withM
        ((m.setTine t { m.tine t with running := none }).codecEnd s.cfg id)))) ∧
  (∀ (s : State) (die block group : Nat) (bits : List Nat) (maxBits : Nat),
      let key := (die * 8192 + block) * 8 + group
      let cur := s.m.driftOf key
      let new := (sweepBest cur ((sweepIdx cur).map fun e => (e.1, bits.getD e.2 0))).getD cur
      let m := (s.m.onMed fun x =>
        { x with sweepDue := x.sweepDue.filter (fun k => k != key), sweepRead := x.sweepRead.filter (fun k => k != key),
                 lastSweep := Tbl.put 0 key (s.m.lifeSec + 1) x.lastSweep }).updDie die fun d => { d with sweeps := sat 16 (d.sweeps + 1) }
      let n := match m.zoneOfBlock die block with
        | some z => m.noteCorr z.1 z.2 maxBits
        | none => m
      key ∈ s.m.med.sweepRead → group < 8 → block < 8192 →
      exec (.levelSweep die block group bits maxBits) s = .next (s.withM
        (((n.setDrift die key new).controlWrite (dieAcre die)).record 0x050C (if new < cur then cur - new else new - cur) (dieAcre die + 1)))) ∧
  (∀ (s : State) (nsid : Nat) (b : Nat × Nat),
      (s.m.ns nsid).exists_ = true → (s.m.ns nsid).headland = true → s.m.tinesRun = true → s.m.gleanBlock nsid = some b →
      let valid := if s.m.acreUp (bedAcre (s.m.zone nsid b.1).bed) then s.m.colValid nsid b.1 b.2 else []
      let r := valid.foldl (fun (acc : Nat × Mach) l =>
        match acc.2.headPut nsid 1024 with
        | some (pos, m) =>
          (acc.1 + 1, m.onMed fun x => { x with copies := x.copies ++ [(nsid, l, Tbl.get 0 l (s.m.ns nsid).map - 1, pos)] })
        | none => acc) (0, s.m)
      let m := r.2.onMed fun x => { x with glean := if r.1 = valid.length then x.glean.filter (fun e => e != (nsid, b)) else x.glean }
      exec (.gleanerRelocate nsid) s = .next (s.withM
        (((m.record 0x0310 r.1 (bedAcre (m.zone nsid b.1).bed + 1)).noteFloor nsid (s.m.headFreePct nsid)).recycleAll nsid))) ∧
  (∀ (s : State) (nsid zone : Nat),
      let z := s.m.zone nsid zone
      z.bound = true → z.st.isActive = true → z.cols.any (fun c => c.carried) = true → s.m.zoneBusy nsid zone = false →
      s.m.acreUp (bedAcre z.bed) = true →
      exec (.zoneFinishByController nsid zone) s = .next (s.withM (s.m.finishZone nsid zone)))

/-- Configuration by commands of their own (02 R89, R111; 15 R634, R641; 07 R355 to R357). FUR_CFG also brings the lock and the Tight bound up to date (`setFurCfg`). -/
def Obligations.FurrowAndHubConfigurationWrites : Prop :=
  (∀ (s : State) (v : Word), s.m.deviceUp = true → s.cfg.wrGuard = false →
      (1 ≤ Word.bits v 23 16 → Word.bits v 23 16 ≤ 64 → Word.bits v 15 8 ≤ 50 →
        ∃ t, exec (.furCfgWrite v 15) s = .next t ∧ t = s.setFurCfg (Word.bits v 23 16) (Word.bits v 15 8) (v.getLsbD 1) (v.getLsbD 0) ∧
          t.cfg = { s.cfg with ptmInt := Word.bits v 23 16, rdRes := Word.bits v 15 8, ptmPort := v.getLsbD 1, ptmUse := v.getLsbD 0 } ∧
          t.pending = s.pending) ∧
      (¬(1 ≤ Word.bits v 23 16 ∧ Word.bits v 23 16 ≤ 64 ∧ Word.bits v 15 8 ≤ 50) → exec (.furCfgWrite v 15) s = .next s)) ∧
  (∀ (s : State) (acre bed : Nat) (v : Word), s.m.deviceUp = true → s.cfg.wrGuard = false → acre < 4 → bed < 32 →
      s.m.reachable acre = true →
      exec (.furCtrlWrite acre bed v 15) s = .next
        (if 1 ≤ Word.bits v 4 0 ∧ Word.bits v 4 0 ≤ 16 then
          { s with cfg := { s.cfg with bedP := Tbl.put 1 (32 * acre + bed) (Word.bits v 4 0) s.cfg.bedP } }
         else s)) ∧
  (∀ (s : State) (v : Word), s.m.deviceUp = true →
      (s.cfg.hubLock = false → exec (.hubCtrlWrite v 15) s = .next
        { s with cfg := { s.cfg with hubLock := v.getLsbD 31, wrGuard := v.getLsbD 0 } }) ∧
      (s.cfg.hubLock = true → exec (.hubCtrlWrite v 15) s = .next
        (if v.getLsbD 0 = s.cfg.wrGuard then s else s.withM (s.m.wrDrop 4 0x04)))) ∧
  (∀ (s : State) (v : Word), s.m.deviceUp = true →
      exec (.hubLedCtrlWrite v 15) s = .next { s with cfg := { s.cfg with led := v.setWidth 2 } }) ∧
  (∀ (s : State) (acre : Nat) (v : Word), s.m.deviceUp = true → s.cfg.wrGuard = false → acre < 4 → s.m.reachable acre = true →
      exec (.dramRateRequest acre v 15) s = .next
        (if Word.bits v 9 0 ∈ dramRates then
          { s with cfg := { s.cfg with rateTarget := Tbl.put 0x370 acre (Word.bits v 9 0) s.cfg.rateTarget },
                   m := s.m.rateAsk acre (Word.bits v 9 0) }
         else s))

/-- Dropped BAR2 writes (15 R625, R627, R635, R637). -/
def Obligations.DroppedWritesOnlyCount : Prop :=
  (∀ (s : State) (v : Word) (be : BitVec 4) (acre bed : Nat), s.m.deviceUp = false → acre < 4 → bed < 32 →
      exec (.furCfgWrite v be) s = .next s ∧ exec (.furCtrlWrite acre bed v be) s = .next s ∧
      exec (.dramRateRequest acre v be) s = .next s ∧ exec (.hubCtrlWrite v be) s = .next s ∧
      exec (.hubIntStsClear v be) s = .next s ∧ exec (.hubIntSetWrite v be) s = .next s ∧
      exec (.hubLedCtrlWrite v be) s = .next s ∧ exec (.dirtyCfgWrite v be) s = .next s) ∧
  (∀ (s : State) (v : Word) (be : BitVec 4) (acre bed : Nat), s.m.deviceUp = true → be ≠ 15 → acre < 4 → bed < 32 →
      s.m.reachable acre = true →
      exec (.furCfgWrite v be) s = .next (s.withM (s.m.wrDrop 1 0x500)) ∧
      exec (.furCtrlWrite acre bed v be) s = .next (s.withM (s.m.wrDrop 1 (acreBase acre + 0x800 + 4 * bed))) ∧
      exec (.dramRateRequest acre v be) s = .next (s.withM (s.m.wrDrop 1 (acreBase acre + 0xC08))) ∧
      exec (.hubCtrlWrite v be) s = .next (s.withM (s.m.wrDrop 1 0x04)) ∧
      exec (.hubIntStsClear v be) s = .next (s.withM (s.m.wrDrop 1 0x10)) ∧
      exec (.hubIntSetWrite v be) s = .next (s.withM (s.m.wrDrop 1 0x18)) ∧
      exec (.hubLedCtrlWrite v be) s = .next (s.withM (s.m.wrDrop 1 0x20)) ∧
      exec (.dirtyCfgWrite v be) s = .next (s.withM (s.m.wrDrop 1 0xB00))) ∧
  (∀ (s : State) (v : Word) (acre bed : Nat), s.m.deviceUp = true → s.cfg.wrGuard = true → acre < 4 → bed < 32 →
      s.m.reachable acre = true →
      exec (.furCfgWrite v 15) s = .next (s.withM (s.m.wrDrop 2 0x500)) ∧
      exec (.furCtrlWrite acre bed v 15) s = .next (s.withM (s.m.wrDrop 2 (acreBase acre + 0x800 + 4 * bed))) ∧
      exec (.dramRateRequest acre v 15) s = .next (s.withM (s.m.wrDrop 2 (acreBase acre + 0xC08)))) ∧
  (∀ (s : State) (v : Word) (be : BitVec 4) (acre bed : Nat), s.m.deviceUp = true → acre < 4 → bed < 32 →
      s.m.reachable acre = false →
      exec (.furCtrlWrite acre bed v be) s = .next (s.withM (s.m.wrDrop 3 (acreBase acre + 0x800 + 4 * bed))) ∧
      exec (.dramRateRequest acre v be) s = .next (s.withM (s.m.wrDrop 3 (acreBase acre + 0xC08)))) ∧
  (∀ (m : Mach) (cause addr : Nat),
      m.wrDrop cause addr = { m with hub := { m.hub with drops := if m.hub.drops + 1 < 65536 then m.hub.drops + 1 else 65535,
                                                         dropCause := cause, dropAddr := addr,
                                                         intSts := m.hub.intSts ||| (1#32 <<< 20) } })

/-- 07 R383. -/
def Obligations.DirtyCfgFollowsItsRule : Prop :=
  (∀ (s : State) (v : Word), s.m.deviceUp = true → s.cfg.wrGuard = false → s.cfg.dirtyLock = false →
      exec (.dirtyCfgWrite v 15) s = .next { s with cfg := { s.cfg with
        dirtyLock := v.getLsbD 31,
        dirtyCap := if 16 ≤ Word.bits v 5 0 ∧ Word.bits v 5 0 ≤ 32 then Word.bits v 5 0 else s.cfg.dirtyCap } }) ∧
  (∀ (s : State) (v : Word), s.m.deviceUp = true → s.cfg.wrGuard = false → s.cfg.dirtyLock = true →
      exec (.dirtyCfgWrite v 15) s = .next
        (if Word.bits v 5 0 = s.cfg.dirtyCap then s else s.withM (s.m.wrDrop 4 0xB00))) ∧
  (∀ scratch, (Cfg.reset scratch).dirtyLock = false ∧ (Cfg.reset scratch).dirtyCap = 0x10) ∧
  (∀ (m : Mach) (c : Cfg), m.hubReg c 0xB00 = some (fields [(b2n c.dirtyLock, 31), (low 6 c.dirtyCap, 0)]))

/-- 04 R183. -/
def Obligations.FetchCfgFollowsItsRule : Prop :=
  (∀ (s : State) (v : Word), s.m.deviceUp = true → s.cfg.wrGuard = false →
      exec (.registerWrite .device 0x364 v 15) s = .next
        (if 1 ≤ Word.bits v 15 8 ∧ 1 ≤ Word.bits v 3 0 ∧ Word.bits v 3 0 ≤ 8 then
          { s with cfg := { s.cfg with admMax := Word.bits v 15 8, burst := Word.bits v 3 0 } }
         else s)) ∧
  (∀ v : Word, Word.bits v 15 8 ≤ 255) ∧
  (∀ (m : Mach) (c : Cfg), m.hubReg c 0x364 = some (fields [(c.admMax, 8), (c.burst, 0)])) ∧
  (∀ scratch, (Cfg.reset scratch).admMax = 0x40 ∧ (Cfg.reset scratch).burst = 4)

/-- Register commands (15 R619 to R639; 05 R279 to R281; 09 R415, R420 to R425). What BAR0 holds beyond CAP, and the dwords of BAR4 and of the configuration space, are the model's choice (notes/assumptions/139). -/
def Obligations.RegisterCommandsComplete : Prop :=
  (∀ (s : State) (o : Nat), s.m.deviceUp = true → o < 0x10000000 →
      let pl := placeOf (o / 4 * 4)
      let h := s.m.halves s.cfg pl
      let done := s.withM ((h.2.rcClear pl).readReturns (h.1.getD ((s.m.placeReg s.cfg pl).getD 0)))
      let ones := s.withM (s.m.readReturns 0xFFFFFFFF)
      ((∀ n r, pl ≠ .member n r) →
        (s.m.placeReach pl = true → exec (.loRegisterRead o) s = .next done ∧ exec (.rcRegisterRead .device o) s = .next done) ∧
        (s.m.placeReach pl = false → exec (.loRegisterRead o) s = .next ones ∧ exec (.rcRegisterRead .device o) s = .next ones)) ∧
      (∀ n r, pl = .member n r →
        (s.m.hitch.role = 1 → (s.m.member n).st = 1 → r < 0x00400000 → exec (.rcRegisterRead .device o) s = .next (s.withM
          ((s.m.onHitch fun h => { h with regPend := h.regPend ++ [o / 4 * 4] }).sendBody 0x30 n (s.m.pathPort n) 0 (le 4 r)))) ∧
        (s.m.placeReach pl = false → exec (.rcRegisterRead .device o) s = .next ones))) ∧
  (∀ (s : State) (port fn o : Nat), o < 0x4000 →
      (s.m.barTakes port fn = true →
        exec (.rcRegisterRead (.bar0 port fn) o) s = .next (s.withM (s.m.readReturns (s.m.bar0Dword fn (o / 4 * 4)))) ∧
        exec (.rcRegisterRead (.bar4 port fn) o) s = .next (s.withM (s.m.readReturns (s.m.bar4Dword fn (o / 4 * 4))))) ∧
      (s.m.awake = true → s.m.barTakes port fn = false → s.m.parkedFn port fn = true →
        exec (.rcRegisterRead (.bar0 port fn) o) s = .next (s.withM (s.m.readReturns
          (if o / 4 * 4 = 0 then capLow else if o / 4 * 4 = 4 then capHigh else 0))))) ∧
  (∀ (s : State) (port fn o : Nat) (v : Word) (be : BitVec 4), s.m.fnUp fn = true → s.m.plotPort fn = port →
      exec (.rcRegisterRead (.config port fn) o) s = .next (s.withM (s.m.readReturns (if o / 4 * 4 = 4 then
        BitVec.ofNat 32 ((if s.m.plots.mseOff.contains fn then 0 else 2) + (if s.m.plots.bmeOff.contains fn then 0 else 4))
        else Config.configDword port fn (o / 4 * 4)))) ∧
      (o / 4 = 1 → be.getLsbD 0 = true → exec (.registerWrite (.config port fn) o v be) s = .next (s.withM (s.m.onPlots fun x =>
        { x with mseOff := listed x.mseOff fn (!v.getLsbD 1), bmeOff := listed x.bmeOff fn (!v.getLsbD 2) })))) ∧
  (∀ (s : State) (port fn o : Nat) (v : Word) (be : BitVec 4), s.m.barTakes port fn = true →
      exec (.registerWrite (.bar0 port fn) o v be) s = .next (s.withM (s.m.bar0Write port fn o v be)) ∧
      exec (.registerWrite (.bar4 port fn) o v be) s = .next (s.withM (s.m.bar4Write port fn o v be))) ∧
  (∀ (s : State) (v : Word) (be : BitVec 4),
      exec (.registerWrite .device 0x04 v be) s = exec (.hubCtrlWrite v be) s ∧
      exec (.registerWrite .device 0x10 v be) s = exec (.hubIntStsClear v be) s ∧
      exec (.registerWrite .device 0x18 v be) s = exec (.hubIntSetWrite v be) s ∧
      exec (.registerWrite .device 0x20 v be) s = exec (.hubLedCtrlWrite v be) s ∧
      exec (.registerWrite .device 0x500 v be) s = exec (.furCfgWrite v be) s ∧
      exec (.registerWrite .device 0xB00 v be) s = exec (.dirtyCfgWrite v be) s) ∧
  (∀ (s : State) (o : Nat) (v : Word), s.m.deviceUp = true → o < 0x10000 → o % 4 = 0 →
      o ∉ [0x04, 0x10, 0x18, 0x20, 0x500, 0xB00] → ¬(0xA00 ≤ o ∧ o < 0xA80) → (s.m.hubReg s.cfg o).isSome = true →
      (guardedPlace (.hub o) = true → s.cfg.wrGuard = false) →
      exec (.registerWrite .device o v 15) s = .next (State.placeWrite (.hub o) v s)) ∧
  (∀ (s : State) (v : Word), s.m.deviceUp = true →
      exec (.hubIntStsClear v 15) s = .next (s.withM (s.m.onHub fun h => { h with intSts := h.intSts &&& ~~~v })) ∧
      exec (.hubIntSetWrite v 15) s = .next (s.withM (s.m.onHub fun h => { h with intSts := h.intSts ||| (v &&& intMask) }))) ∧
  (∀ (s : State) (swath i : Nat) (v : Word), s.m.deviceUp = true → swath < 32 → i < 16 → s.m.reachable (swath / 8) = true →
      exec (.mgdNandWpWrite swath i v 15) s = .next (s.withM (s.m.protectBits false ((64 * swath + 4 * i) * 8) 32 v))) ∧
  (∀ (s : State) (i : Nat) (v : Word), s.m.deviceUp = true → i < 32 →
      exec (.mgdBootWpWrite i v 15) s = .next (s.withM (s.m.protectBits true (32 * i) 32 v))) ∧
  (∀ (s : State) (sector ops at_ : Nat) (boot : Bool),
      let m := s.m.advance at_
      let w : Window := { boot := boot, sector := sector, ops := ops, closes := m.clk.now + 250 * Config.edgesPerMs }
      let n := m.onMed fun x => { x with windows := x.windows.filter (fun w => !(w.boot == boot && w.sector == sector)) ++ [w] }
      m.awake = true → 1 ≤ ops → ops ≤ 65535 → sector < (if boot then 128 else m.nDies * 8) →
      exec (.mgdWindowOpen sector boot ops at_) s = .next (s.withM (n.onMed fun x =>
        { x with bootWp := if boot then Tbl.upd 0xFFFFFFFF#32 (sector / 32) (fun b => b &&& ~~~(1#32 <<< (sector % 32))) x.bootWp else x.bootWp,
                 wp := if boot then x.wp else Tbl.upd 0xFF#8 (sector / 8) (fun b => b &&& ~~~(1#8 <<< (sector % 8))) x.wp }))) ∧
  (∀ (s : State) (at_ : Nat),
      let m := s.m.advance at_
      exec (.mgdWindowClose at_) s = .next (s.withM
        ((m.med.windows.filter (fun w => decide (w.closes ≤ m.clk.now) || decide (w.ops = 0))).foldl
          (fun x w => x.protect w.boot w.sector) m))) ∧
  (∀ (s : State) (p : Nat) (v : Word), s.m.deviceUp = true → p < 1024 →
      let m := (s.m.updPlot p fun x => { x with port := v.getLsbD 0, portSaved := v.getLsbD 0 }).saveHub 0x11
      (p ≠ 0 → s.m.boot.straps.portMode = true → (s.m.plot p).st = .frozen →
        exec (.pltCfgWrite p v 15) s = .next (s.withM m)) ∧
      (p ≠ 0 → s.m.boot.straps.portMode = true → (s.m.plot p).st = .absent →
        exec (.pltCfgWrite p v 15) s = .next (s.withM
          (if m.vfOn p then m.updPlot p fun x => { x with st := .ready, after := .ready } else m))) ∧
      (p = 0 ∨ s.m.boot.straps.portMode = false ∨ ((s.m.plot p).st ≠ .frozen ∧ (s.m.plot p).st ≠ .absent) →
        exec (.pltCfgWrite p v 15) s = .next s) ∧
      (exec (.isoApply p v 15) s = .next
        (if v.getLsbD 0 then s.withM (s.m.updPlot p fun x => { x with isoBusy := true }) else s))) ∧
  (∀ (s : State) (p : Nat),
      let x := s.m.plot p
      let held := fun (b : Nat) => (s.m.bed b).owner == p + 1
      let changes := (List.range 128).filter fun b => x.isoMask.getLsbD b != held b
      let check := fun (b : Nat) => s.m.isoCheck p b (x.isoMask.getLsbD b)
      x.isoBusy = true →
      (∀ b r, changes.findSome? (fun b => if check b = 0 then none else some (b, check b)) = some (b, r) →
        exec (.isoApplyDone p) s = .next (s.withM
          ((s.m.updPlot p fun x => { x with isoBusy := false, isoResult := r, isoBed := b }).record 0x0905 r 0))) ∧
      (changes.findSome? (fun b => if check b = 0 then none else some (b, check b)) = none →
        let owner := fun (b : Nat) => if x.isoMask.getLsbD b then p + 1 else 0
        let m := (changes.foldl (fun m b => m.updBed b fun y => { y with owner := owner b }) s.m).onBoot fun y =>
          { y with isoOwner := changes.foldl (fun t b => Tbl.put 0 b (owner b) t) y.isoOwner }
        exec (.isoApplyDone p) s = .next (s.withM
          (((dedup (changes.map bedAcre)).foldl (fun m a => m.saveRec (recKey 4 a)) m).updPlot p fun x =>
            { x with isoBusy := false, isoResult := 0 })))) ∧
  (∀ (s : State) (v : Word), s.m.deviceUp = true → s.m.hub.part = false →
      exec (.registerWrite .device 0x08001010 v 15) s = .next (s.withM (s.m.updPlot 1 fun x =>
        { x with isoMask := (x.isoMask &&& ~~~(0xFFFFFFFF#128)) ||| v.setWidth 128 })))

/-- 15 R631. The registers: FUR_PASS at 0x510, HUB_IMG_VER at 0x314, HUB_LIFE_SEC at 0x40, the _HI register next to each. -/
def Obligations.SplitValuesReadConsistently : Prop :=
  ∀ (s : State), s.m.deviceUp = true →
    exec (.loRegisterRead 0x510) s = .next (s.withM (s.m.onHub fun h =>
      { h with readData := BitVec.ofNat 32 s.m.grid.pass, latchPass := some (BitVec.ofNat 32 (s.m.grid.pass / 2 ^ 32)) })) ∧
    exec (.loRegisterRead 0x514) s = .next (s.withM (s.m.onHub fun h =>
      { h with readData := s.m.hub.latchPass.getD (BitVec.ofNat 32 (s.m.grid.pass / 2 ^ 32)), latchPass := none })) ∧
    exec (.loRegisterRead 0x314) s = .next (s.withM (s.m.onHub fun h =>
      { h with readData := BitVec.ofNat 32 s.m.img.version, latchVer := some (BitVec.ofNat 32 (s.m.img.version / 2 ^ 32)) })) ∧
    exec (.loRegisterRead 0x318) s = .next (s.withM (s.m.onHub fun h =>
      { h with readData := s.m.hub.latchVer.getD (BitVec.ofNat 32 (s.m.img.version / 2 ^ 32)), latchVer := none })) ∧
    exec (.loRegisterRead 0x40) s = .next (s.withM (s.m.onHub fun h =>
      { h with readData := BitVec.ofNat 32 s.m.lifeSec, latchLife := some (BitVec.ofNat 32 (s.m.lifeSec / 2 ^ 32 % 256)) })) ∧
    exec (.loRegisterRead 0x44) s = .next (s.withM (s.m.onHub fun h =>
      { h with readData := s.m.hub.latchLife.getD (BitVec.ofNat 32 (s.m.lifeSec / 2 ^ 32 % 256)), latchLife := none }))

/-- 15 R642. The table of scratch words lists no word that is 0. -/
def Obligations.ScratchKeptThroughWarmReset : Prop :=
  (∀ (s : State) (i : Nat) (v : Word), s.m.deviceUp = true → i < 4 →
      exec (.registerWrite .device (0x30 + 4 * i) v 15) s = .next { s with cfg := { s.cfg with scratch := Tbl.put 0 i v s.cfg.scratch } }) ∧
  (∀ (m : Mach) (c : Cfg) (i : Nat), i < 4 → m.hubReg c (0x30 + 4 * i) = some (Tbl.get 0 i c.scratch)) ∧
  (∀ (s : State) (nssro restart : Bool), (s.warmReset nssro restart).cfg.scratch = s.cfg.scratch) ∧
  (∀ (s t : State) (at_ p port : Nat), (exec (.controllerReset at_) s = .next t ∨ exec (.plotReset port p at_) s = .next t ∨
      exec (.plotResetDone p at_) s = .next t) → t.cfg.scratch = s.cfg.scratch) ∧
  (∀ (s t : State), exec .lossOfPower s = .next t → t.cfg.scratch = []) ∧ State.reset.cfg.scratch = []

/-- 15 R639. The bits that have events are 20:0. -/
def Obligations.InterruptEnableAndSetFollowTheirRule : Prop :=
  (∀ (s : State) (v : Word), s.m.deviceUp = true →
      exec (.registerWrite .device 0x14 v 15) s = .next { s with cfg := { s.cfg with intEn := v &&& 0x1FFFFF } }) ∧
  (∀ (m : Mach) (c : Cfg), m.hubReg c 0x14 = some c.intEn ∧ m.hubReg c 0x18 = some 0) ∧
  (∀ scratch, (Cfg.reset scratch).intEn = 0) ∧
  (∀ (s : State) (v : Word), s.m.deviceUp = true →
      ∃ t, exec (.hubIntSetWrite v 15) s = .next t ∧
        t = s.withM (s.m.onHub fun h => { h with intSts := t.m.hub.intSts }) ∧
        ∀ i < 32, t.m.hub.intSts.getLsbD i = (s.m.hub.intSts.getLsbD i || (v.getLsbD i && decide (i ≤ 20))))

/-- DRAM ports in service (07 R344 to R349, R354; 06 R326). The value of a draw is free (notes/assumptions/4). -/
def Obligations.DramServiceCommandsComplete : Prop :=
  (∀ (s : State) (acre sub at_ : Nat) (busy : List Nat) (errors : List (Nat × BitVec 16)),
      let n := s.m.advance at_
      let m := n.crossAll acre
      let ready := fun (e : Nat × Nat × Nat) => e.1 == sub && !busy.contains e.2.1
      sub < 2 → n.portServes acre = true →
      ((m.port acre).nref.any ready = true →
        exec (.dramCommandSlot acre sub busy errors at_) s = .next (s.withM
          (m.updPort acre fun p => { p with nref := p.nref.eraseP ready }))) ∧
      (∀ r, (m.port acre).nref.any ready = false → (m.port acre).pick sub busy = some r →
        exec (.dramCommandSlot acre sub busy errors at_) s = .next (s.withM
          ((((m.updPort acre fun p =>
            { p with lastUse := m.clk.now,
                     reqs := if r.count ≤ 1 then p.reqs.filter (fun q => q.id != r.id)
                       else p.reqs.map fun q => if q.id = r.id then
                         { q with line := q.line + 2, count := q.count - 1, data := q.more.headD q.data, more := q.more.drop 1 } else q }).drawNeighbour
              s.cfg acre r.line).moveLine acre r errors).updPort acre Port.payRefresh)))) ∧
  (∀ (s : State) (acre at_ : Nat) (r : DramReq),
      let m := s.m.advance at_
      (m.port acre).reqs.find? (fun r => !r.promoted && decide (r.since + Config.edgesPerUs * Tbl.get 4 acre s.cfg.age < m.clk.now)) = some r →
      exec (.requestPromotion acre at_) s = .next (s.withM
        ((m.updPort acre fun p => { p with reqs := p.reqs.map fun q => if q.id = r.id then { q with promoted := true } else q }).record
          0x0704 ((m.clk.now - r.since) * 5 / 16) (acre + 1)))) ∧
  (∀ (s : State) (acre rank at_ : Nat),
      let m := s.m.advance at_
      let n := Tbl.get 0 rank (m.port acre).owed
      m.portServes acre = true → rank < (if (m.port acre).ranks2 then 2 else 1) → Tbl.get 0 rank (m.port acre).refDue ≤ m.clk.now →
      exec (.refreshDue acre rank at_) s = .next (s.withM (m.updPort acre fun p =>
        { p with owed := Tbl.put 0 rank (if (m.port acre).rankBusy rank && decide (n < 4) then n + 1 else 0) p.owed,
                 refDue := Tbl.put 0 rank (Tbl.get 0 rank p.refDue + p.trefi) p.refDue }))) ∧
  (∀ (s : State) (acre at_ : Nat),
      let m := s.m.advance at_
      let n := m.updPort acre fun p => { p with mr4At := m.clk.now }
      let h := n.updPort acre fun p => { p with hot := true, coolRuns := 0 }
      m.portServes acre = true → (m.port acre).mr4At + 16 * Config.edgesPerMs ≤ m.clk.now →
      exec (.mr4Poll acre true at_) s = .next (s.withM (if (n.port acre).hot then h else h.record 0x0703 acre (acre + 1))) ∧
      exec (.mr4Poll acre false at_) s = .next (s.withM (n.updPort acre fun q =>
        { q with coolRuns := Nat.min 2 (q.coolRuns + 1), hot := q.hot && decide (q.coolRuns + 1 < 2) }))) ∧
  (∀ (s : State) (acre at_ : Nat) (targets : List Nat),
      let m := s.m.advance at_
      ((m.portServes acre = true ∧ (m.port acre).dqsAt + 100 * Config.edgesPerMs ≤ m.clk.now) ∨
        ((m.port acre).recentre = true ∧ m.acreUp acre = true ∧ (m.port acre).st = 2)) →
      exec (.dqsTracking acre targets at_) s = .next (s.withM (m.updPort acre fun p =>
        { p with dqsAt := m.clk.now, recentre := false, lanes := (List.range 10).foldl (fun t i =>
            let w := Tbl.get 0 i t
            let d := Word.bits w 7 0
            let g := (targets.getD i d) % 256
            Tbl.put 0 i (BitVec.ofNat 32 (w.toNat - d + if d < g then d + 1 else if g < d then d - 1 else d)) t) p.lanes }))) ∧
  (∀ (s : State) (acre at_ : Nat) (e : MergeEntry),
      let m := s.m.advance at_
      m.portServes acre = true → (m.port acre).merge.find? (fun e =>
        decide (e.since + 2 * Config.edgesPerUs ≤ m.clk.now) && !(m.port acre).writesTo e.line) = some e →
      exec (.mergeEntryTimeout acre at_) s = .next (s.withM (m.mergeRmw acre e)))

/-- Training and self-refresh (07 R351 to R364; 11 R502). -/
def Obligations.DramTrainingCommandsComplete : Prop :=
  (∀ (s : State) (acre : Nat) (re we rd wd : List Nat) (pattern : Bool), (s.m.port acre).attempt ≠ 0 → s.m.fencedA acre = false →
      s.m.fencingA acre = false →
      let m := s.m.updPort acre fun p =>
        { p with lanes := (List.range 10).foldl (fun t i =>
            Tbl.put 0 i (laneWord (re.getD i 0) (we.getD i 0) (rd.getD i 0) (wd.getD i 0)) t) p.lanes }
      exec (.dramTrainingDone acre re we rd wd pattern) s = .next (s.withM
        (if pattern && (List.range 10).all (fun i => decide (19 ≤ re.getD i 0) && decide (16 ≤ we.getD i 0)) then m.attemptPassed acre
         else m.attemptFailed acre))) ∧
  (∀ (s : State) (acre at_ : Nat),
      let m := s.m.advance at_
      (m.port acre).attempt ≠ 0 → m.fencedA acre = false → m.fencingA acre = false → (m.port acre).attemptAt + 100 * Config.edgesPerMs ≤ m.clk.now →
      exec (.dramTrainingTimeout acre at_) s = .next (s.withM (m.attemptFailed acre))) ∧
  (∀ (s : State) (acre at_ : Nat),
      let m := s.m.advance at_
      m.portServes acre = true → (m.port acre).srWanted = true →
      (m.port acre).reqs.any (fun r => decide (r.since ≤ (m.port acre).srReq)) = false →
      exec (.selfRefreshEntry acre at_) s = .next (s.withM ((m.enterSelfRefresh acre).trySleep s.cfg))) ∧
  (∀ (s : State) (acre at_ : Nat),
      let m := s.m.advance at_
      let p := m.port acre
      m.acreUp acre = true → p.inSelfRefresh = true →
      (p.srExit = false → p.srAt + 384 ≤ m.clk.now → (p.srForRate = true ∨ p.srWaitAt.isSome = true ∨ (m.power.ps < 3 ∧ m.power.closing = false)) →
        exec (.selfRefreshExit acre at_) s = .next (s.withM (m.updPort acre fun p => { p with srExit := true, srAt := m.clk.now }))) ∧
      (p.srExit = true → p.srAt + p.txs ≤ m.clk.now → p.srForRate = true →
        exec (.selfRefreshExit acre at_) s = .next (s.withM (m.updPort acre fun p =>
          { p with srForRate := false, srExit := false, attempt := p.firstRate (Tbl.get 0x370 acre s.cfg.rateTarget),
                   attemptAt := m.clk.now }))) ∧
      (p.srExit = true → p.srAt + p.txs ≤ m.clk.now → p.srForRate = false →
        let n := match p.srWaitAt with
          | some t => m.record 0x0706 ((m.clk.now - t) * 5 / 16) (acre + 1)
          | none => m
        let k := n.updPort acre fun p =>
          { p with st := 2, srExit := false, srWaitAt := none, lastUse := n.clk.now, held := none }.startRefresh n.clk.now
        exec (.selfRefreshExit acre at_) s = .next (s.withM (p.held.elim k (fun t => k.rateStart acre t))))) ∧
  (∀ (s : State) (at_ : Nat),
      let m := s.m.advance at_
      3 ≤ m.power.ps → (m.port 0).st = 2 → (m.port 0).reqs = [] → (m.port 0).lastUse + 100 * Config.edgesPerUs ≤ m.clk.now →
      exec (.port0IdleTimeout at_) s = .next (s.withM (m.enterSelfRefresh 0)))

/-- Pool requests and frees (07 R367 to R375; 01 R53, R56). -/
def Obligations.BufferCommandsComplete : Prop :=
  (∀ (s : State) (acre : Nat) (internal : Bool) (req size at_ : Nat),
      let m := s.m.advance at_
      m.awake = true → m.acreUp acre = true → acre < m.nAcres →
      exec (.bufferRequest acre internal req size true at_) s = .next (s.withM (m.fenceStart acre 2))) ∧
  (∀ (s : State) (acre a : Nat) (internal : Bool) (req size at_ : Nat),
      let m := s.m.advance at_
      let o := requester internal req
      acre < m.nAcres → m.poolAcre acre = some a → requesterOk internal req = true → size ≠ 0 → poolFor size < 5 →
      (∀ k, m.poolWalk a o (poolFor size) ((List.range 5).drop (poolFor size)) = .inl k →
        exec (.bufferRequest acre internal req size false at_) s = .next (s.withM
          (if k = poolFor size then (m.takeBuf a k o).2 else (m.takeBuf a k o).2.record 0x070B k (a + 1)))) ∧
      (∀ w, m.poolWalk a o (poolFor size) ((List.range 5).drop (poolFor size)) = .inr w →
        exec (.bufferRequest acre internal req size false at_) s = .next (s.withM (m.freshId.2.onStg fun g =>
          { g with waits := g.waits ++ [{ id := m.freshId.1, acre := a, pool := w.1, first := poolFor size, owner := o, quota := w.2,
                                          since := m.clk.now }] })))) ∧
  (∀ (s : State) (acre pool index : Nat) (internal : Bool) (req at_ : Nat),
      let m := s.m.advance at_
      let o := requester internal req
      let b := Tbl.get Buf.init index (m.pool acre pool).bufs
      m.acreUp acre = true → pool < 5 → index < (m.pool acre pool).count → requesterOk internal req = true →
      (b.held = true ∧ b.owner = o → exec (.bufferFree acre pool index internal req at_) s =
        .next (s.withM ((m.releaseBuf acre pool index).serveWaits acre pool))) ∧
      (¬(b.held = true ∧ b.owner = o) → exec (.bufferFree acre pool index internal req at_) s = .next (s.withM
        (((m.onStg fun g => { g with dfCount := Tbl.upd 0 acre (fun n => if n + 1 < 65536 then n + 1 else 65535) g.dfCount,
                                     dfPool := Tbl.put 0 acre pool g.dfPool,
                                     dfReq := Tbl.put 0 acre o g.dfReq }).hubInt 15).record 0x070D pool (acre + 1)))))

/-- What the walk of 07 R369 may answer for a plot. -/
def Obligations.BufferReserveIsKept : Prop :=
  ∀ (m : Mach) (a plot first k : Nat) (l : List Nat), plot < 1024 → m.poolWalk a plot first l = .inl k →
    k ∈ l ∧ poolReserve k < (m.pool a k).free ∧
    ((m.plot plot).quota.pools.getD k 0xFFFFFFFF ≠ 0xFFFFFFFF → (m.pool a k).heldBy plot < (m.plot plot).quota.pools.getD k 0xFFFFFFFF)

/-- Drills (08 R387 to R406; 09 R431; a key store failure by 01 R62). `placed` descriptors are identified by the machine's own count (`freshId`). -/
def Obligations.DrillCommandsComplete : Prop :=
  (∀ (s : State) (bytes : List Byte) (at_ : Nat),
      let m := s.m.advance at_
      let d := DrillDesc.ofBytes bytes
      let g := descGroup d
      (g = 4 ∨ m.acreUp g = true) → requesterOk d.internal d.requester = true → m.awake = true →
      exec (.descriptorPlace bytes at_) s = .next (s.withM (m.freshId.2.updGroup g fun p =>
        { p with queue := p.queue ++ [{ id := m.freshId.1, d := d, moved := 0, started := false, engine := none, ended := none, seals := 0,
                                        sealAt := 0, last := none, stream := [], placedAt := m.clk.now, squash := false }] }))) ∧
  (∀ (s : State) (group engine at_ last : Nat) (keyUe : Bool) (w : Desc) (credit : Tbl Nat),
      let m := s.m.advance at_
      let x := { w with last := some engine }
      let n := m.engineTakes group engine x credit last
      let code := if (group = 4 ∨ n.acreUp group = true) ∨ n.descCheck x.d = 1 ∨ n.descCheck x.d = 2 then n.descCheck x.d else 3
      let late := if group = 4 ∨ n.acreUp group = true then 0 else 3
      let out := exec (.drillTakeChunk group engine keyUe at_) s
      group ≤ 4 → engine < 8 → (group = 4 ∨ group < m.nAcres) → m.awake = true → m.power.ps < 3 →
      (group = 4 ∨ m.power.closing = false ∨ m.power.closeAt = none) →
      (m.group group).queue.any (fun x => x.engine == some engine) = false → m.pickChunk s.cfg group = some (w, credit, last) →
      (x.started = false → code ≠ 0 → out = .next (s.withM (n.descEnd group x code (n.checkPlace x.d code)))) ∧
      (x.started = true → late ≠ 0 → out = .next (s.withM (n.descEnd group x 3 (n.checkPlace x.d 3)))) ∧
      ((x.started = true ∨ code = 0) → late = 0 →
        (x.d.len = 0 → out = .next (s.withM (n.descEnd group x 0 0xFFFF))) ∧
        (x.d.len ≠ 0 → n.masterOff x.d = true →
          out = .next (s.withM (n.descEnd group x 8 (entryPlace x.d fun e => e.space == .host)))) ∧
        (x.d.len ≠ 0 → n.masterOff x.d = false →
          let held := (Tbl.get Engine.init engine (n.group group).engines).keyOf
          let load := (x.d.enc || x.d.dec) && held != some x.d.requester
          let src := if group < 4 then group + 1 else 0
          let k := if x.d.lane0 && !x.started then n.record 0x0806 ((n.clk.now - x.placedAt) * 5 / 16) src else n
          (load = true → keyUe = true → out = .next (s.withM (n.enterFatal 4))) ∧
          (load = true → keyUe = false →
            out = .next (s.withM ((k.record 0x0807 x.d.requester src).startChunk group engine x (some x.d.requester)))) ∧
          (load = false → out = .next (s.withM (k.startChunk group engine x held)))))) ∧
  (∀ (s : State) (group engine : Nat) (bytes : List Byte) (list : List Nat) (x : Desc),
      (s.m.group group).queue.find? (fun x => x.engine == some engine) = some x →
      let io := s.m.chunkBytes x (window bytes 0 x.chunk)
      let bad := if x.d.grainChk then badGrain io.1 list else none
      let k := if x.squash then 0 else match bad with | some k => 1024 * k | none => x.chunk
      let y := x.join (io.1.take k)
      let n := (s.m.chunkDram x true k (io.2.take k ++ (grainCrcs (io.1.take k)).flatMap (le 4))).updGroup group fun p =>
        { p with queue := p.queue.map (fun d => if d.id = y.id then y else d),
                 engines := Tbl.upd Engine.init engine (fun z => { z with st := 0 }) p.engines }
      let out := exec (.chunkDone group engine bytes list) s
      (y.squash = true → out = .next (s.withM (n.descEnd group y 11 0xFFFF))) ∧
      (y.squash = false → n.checkFence y.d = false → out = .next (s.withM (n.descEnd group y 3 (n.checkPlace y.d 3)))) ∧
      (y.squash = false → n.checkFence y.d = true → bad.isSome = true → out = .next (s.withM (n.descEnd group y 10 (y.moved / 1024)))) ∧
      (y.squash = false → n.checkFence y.d = true → bad = none →
        (y.moved < y.d.len → out = .next (s.withM n)) ∧
        (y.d.len ≤ y.moved → sealsOf group y.d = 0 → out = .next (s.withM (n.descEnd group y 0 0xFFFF))) ∧
        (y.d.len ≤ y.moved → sealsOf group y.d ≠ 0 → out = .next (s.withM (n.updGroup group fun p =>
          { p with queue := p.queue.map fun d => if d.id = y.id then { d with seals := sealsOf group y.d, sealAt := n.clk.now } else d }))))) ∧
  (∀ (s : State) (group id at_ : Nat) (ue : Option Nat) (hostError : Bool) (x : Desc),
      let m := s.m.advance at_
      (m.group group).queue.find? (fun x => x.id == id && decide (0 < x.seals)) = some x →
      let r := match ue with
        | some a => m.record 0x0802 a (if group < 4 then group + 1 else 0)
        | none => m
      let y : Desc := { x with seals := x.seals - 1, ended := if hostError then some 8 else if ue.isSome then some 9 else x.ended }
      let n := r.updGroup group fun p => { p with queue := p.queue.map fun d => if d.id = x.id then y else d }
      let k := if (dstsOf x.d).any (fun e => e.1.space == .host) then n.record 0x0805 ((n.clk.now - x.sealAt) * 5 / 16) 0 else n
      exec (.sealReturn group id ue hostError at_) s = .next (s.withM
        (if 1 < x.seals then n else if k.checkFence x.d then k.descDone group y else k.descEnd group y 3 (k.checkPlace x.d 3)))) ∧
  (∀ (s : State) (group id : Nat) (x : Desc),
      (s.m.group group).queue.find? (fun x => x.id == id && x.started) = some x →
      exec (.hostCompletionTimeout group id) s =
        .next (s.withM (s.m.descEnd group x 8 (entryPlace x.d fun e => e.space == .host)))) ∧
  (∀ (s : State) (plot at_ : Nat),
      let m := s.m.advance at_
      m.awake = true → plot < 1024 →
      (exec (.hostReadErrorCompletion plot none at_) s = .next (s.withM (m.plotError plot 3))) ∧
      (∀ (group id : Nat) (x : Desc), (m.group group).queue.find? (fun x => x.id == id && x.started) = some x →
        exec (.hostReadErrorCompletion plot (some (group, id)) at_) s =
          .next (s.withM (m.descEnd group x 8 (entryPlace x.d fun e => e.space == .host)))))

/-- A write's way from its locks to its commit point (04 R185 to R191; 07 R377, R382; 03 R140). -/
def Obligations.WriteFlowCommandsComplete : Prop :=
  (∀ (s : State) (stamp at_ : Nat) (c : Cmd) (rows : List (Nat × Nat)),
      let m := s.m.advance at_
      m.cmd? stamp = some c → c.stage = .rowWait → m.rowsNeeded c = some rows →
      (∀ r ∈ rows, m.rowHeld c.sqe.nsid.toNat r.1 r.2 = true) →
      exec (.stripeRowReservation stamp at_) s = .next (s.withM
        (((if c.since < m.clk.now then m.record 0x070F (m.usSince c.since) 0 else m).setStage stamp .capWait).tryCap s.cfg stamp))) ∧
  (∀ (s : State) (at_ : Nat) (c : Cmd),
      let m := s.m.advance at_
      let l := (m.front.inflight.filter (fun k => k.stage == .capWait)).map (fun k => k.stamp)
      l ≠ [] → m.cmd? (l.foldl Nat.min (l.headD 0)) = some c → c.stage = .capWait →
      m.front.inflight.any (fun k => k.stage == .capWait && decide (k.stamp < l.foldl Nat.min (l.headD 0))) = false →
      (m.stg.dirty + c.bytes ≤ s.cfg.capBytes → exec (.dirtyCapAdmit at_) s = .next (s.withM
        ((if c.since < m.clk.now then m.record 0x0710 (m.usSince c.since) 0 else m).startData c))) ∧
      (s.cfg.capBytes < m.stg.dirty + c.bytes → exec (.dirtyCapAdmit at_) s = .next (s.withM m))) ∧
  (∀ (s : State) (at_ : Nat),
      exec (.rangeLockGrant at_) s = .next (s.withM ((s.m.advance at_).pump s.cfg))) ∧
  (∀ (s : State) (stamp : Nat) (c : Cmd),
      s.m.cmd? stamp = some c → c.stage = .data → s.m.liveDescs stamp = false → s.m.med.ladders.any (fun l => l.stamp == stamp) = false →
      s.m.awaitsData c = false → s.m.sealedAll c (if c.sqe.hostData then c.bytes else 0) = true →
      let m := s.m.onMed fun x => { x with staged := x.staged.filter (fun e => e.1 != stamp) }
      let count := fun (m : Mach) => m.updPlot c.plot fun p => { p with acc := { p.acc with wr := p.acc.wr + c.bytes } }
      let ends := fun (m : Mach) => ((count m).updCmd stamp fun k =>
        { k with committed := true, dw1 := if c.sqe.opc = 0x7D then BitVec.ofNat 32 (c.lba / 2 ^ 32) else 0 }).finish
          stamp Status.ok (if c.sqe.opc = 0x7D then BitVec.ofNat 32 c.lba else 0)
      (∀ zi, c.zone = some zi → s.m.firstAdmitted c = true →
        let a := bedAcre (s.m.zone c.sqe.nsid.toNat zi).bed
        s.m.acreUp a = true →
        exec (.commitPoint stamp) s = .next (s.withM (ends ((m.commitZone c zi).controlWrite a)))) ∧
      (c.zone = none → c.nlb ≤ s.m.headFree c.sqe.nsid.toNat →
        exec (.commitPoint stamp) s = .next (s.withM (ends (m.commitHead c)))))

/-- Admin commands on queues, events, aborts and self-tests (04 R171 to R174, R184, R204 to R214; 14 R609). The front-end task of the command ends first (`dropTasks`), and the command has then acted (`actsOnce`, R184). -/
def Obligations.QueueAdminCommandsComplete : Prop :=
  (∀ (s : State) (stamp : Nat) (c : Cmd), s.m.adminCmd stamp = some c → s.m.adminTurn c = true →
      let m := s.m.dropTasks stamp
      let acts := fun (x : Mach) => Host.Outcome.next (s.withM (x.actsOnce stamp))
      let q := c.sqe.qid
      (c.sqe.opc = 0x01 →
        (∀ st, m.createSqStatus c = some st → exec (.createIoSq stamp) s = acts (m.failWith stamp st)) ∧
        (m.createSqStatus c = none → exec (.createIoSq stamp) s = acts ((m.updSq c.plot q fun _ =>
          { Sq.init with base := c.sqe.prp1, size := c.sqe.qsize, cq := Word.bits c.sqe.cdw11 31 16 }).succeed stamp))) ∧
      (c.sqe.opc = 0x05 →
        (∀ st, m.createCqStatus c = some st → exec (.createIoCq stamp) s = acts (m.failWith stamp st)) ∧
        (m.createCqStatus c = none → exec (.createIoCq stamp) s = acts ((m.updCq c.plot q fun _ =>
          { Cq.init with base := c.sqe.prp1, size := c.sqe.qsize, iv := Word.bits c.sqe.cdw11 31 16, ien := c.sqe.cdw11.getLsbD 1 }).succeed
            stamp))) ∧
      (c.sqe.opc = 0x00 →
        (¬(q = 0 ∨ 512 < q ∨ (m.sq c.plot q).size = 0 ∨ (m.sq c.plot q).deleting = true) → exec (.deleteIoSq stamp) s = acts
          (((m.front.inflight.filter fun k => k.plot == c.plot && k.sq == q && !k.committed).foldl
            (fun m k => m.squash k.stamp (some St.sqDeletion))
            ((m.setStage stamp .media).updSq c.plot q fun x => { x with deleting := true })).tryDeleteSq c.plot q)) ∧
        (q = 0 ∨ 512 < q ∨ (m.sq c.plot q).size = 0 ∨ (m.sq c.plot q).deleting = true →
          exec (.deleteIoSq stamp) s = acts (m.failWith stamp St.invalidQid))) ∧
      (c.sqe.opc = 0x04 →
        (q = 0 ∨ 512 < q ∨ (m.cq c.plot q).size = 0 → exec (.deleteIoCq stamp) s = acts (m.failWith stamp St.invalidQid)) ∧
        (¬(q = 0 ∨ 512 < q ∨ (m.cq c.plot q).size = 0) →
          (m.front.sqs.any (fun e => decide (e.1 / 1024 = c.plot) && e.2.cq == q) = true →
            exec (.deleteIoCq stamp) s = acts (m.failWith stamp St.invalidQueueDel)) ∧
          (m.front.sqs.any (fun e => decide (e.1 / 1024 = c.plot) && e.2.cq == q) = false →
            exec (.deleteIoCq stamp) s = acts ((m.updCq c.plot q fun _ => Cq.init).succeed stamp)))) ∧
      (c.sqe.opc = 0x0C →
        (4 ≤ (m.heldAers c.plot).length → exec (.asyncEventRequest stamp) s = acts (m.failWith stamp (Status.mk2 1 0x05))) ∧
        ((m.heldAers c.plot).length < 4 →
          exec (.asyncEventRequest stamp) s = acts ((m.setStage stamp .held).pumpEvents c.plot 4))) ∧
      (c.sqe.opc = 0x14 →
        let stc := Word.bits c.sqe.cdw10 3 0
        (c.plot ≠ 0 → exec (.deviceSelfTest stamp) s = acts (m.failWith c.stamp St.invalidOpcode)) ∧
        (c.plot = 0 → stc = 0xF → exec (.deviceSelfTest stamp) s = acts ((m.endSelfTest).succeed stamp)) ∧
        (c.plot = 0 → stc ≠ 0xF → stc ≠ 1 → stc ≠ 2 → exec (.deviceSelfTest stamp) s = acts (m.failWith stamp St.invalidField)) ∧
        (c.plot = 0 → stc = 1 ∨ stc = 2 → m.hub.selfTest ≠ 0 →
          exec (.deviceSelfTest stamp) s = acts (m.failWith stamp (Status.mk2 1 0x1D))) ∧
        (c.plot = 0 → stc = 1 ∨ stc = 2 → m.hub.selfTest = 0 → exec (.deviceSelfTest stamp) s = acts
          (((m.onHub fun h => { h with selfTest := stamp }).onYbk fun y => { y with mode := if y.mode = 0 then 2 else y.mode }).succeed
            stamp)))) ∧
  (∀ (s : State) (stamp at_ : Nat) (c : Cmd), (s.m.advance at_).adminCmd stamp = some c → c.sqe.opc = 0x08 →
      let m := (s.m.advance at_).dropTasks stamp
      let acts := fun (x : Mach) => Host.Outcome.next (s.withM (x.actsOnce stamp))
      (16 ≤ m.abortsBefore c → exec (.abort stamp at_) s = acts (m.failWith stamp St.abortLimit)) ∧
      (m.abortsBefore c < 16 → m.abortTarget c = none → exec (.abort stamp at_) s = acts
        ((m.finish c.stamp Status.ok 1).record 0x0401 (Word.bits c.sqe.cdw10 31 16) 0)) ∧
      (∀ k f, m.abortsBefore c < 16 → m.abortTarget c = some k → m.fwd? k.stamp = some f →
        exec (.abort stamp at_) s = acts ((m.cancelFwd f 0).setStage stamp .media)) ∧
      (∀ k, m.abortsBefore c < 16 → m.abortTarget c = some k → m.fwd? k.stamp = none → exec (.abort stamp at_) s = acts
        (((m.squash k.stamp (some St.abortRequested)).finish c.stamp Status.ok 0).record 0x0400
          ((m.squash k.stamp (some St.abortRequested)).usSince c.fetchedAt) 0))) ∧
  (∀ (s : State), (s.m.hub.selfTest = 0 → exec .deviceSelfTestEnd s = .next s) ∧
      (s.m.hub.selfTest ≠ 0 → exec .deviceSelfTestEnd s = .next (s.withM
        ((s.m.onHub fun h => { h with selfTest := 0 }).onYbk fun y => { y with mode := if y.mode = 2 then 0 else y.mode })))) ∧
  (∀ (s : State) (stamp : Nat) (c : Cmd), s.m.cmd? stamp = some c → c.stage = .fetched → c.opcodeOk = false →
      exec (.invalidCommandOpcode stamp) s = .next (s.withM ((s.m.dropTasks stamp).failWith stamp St.invalidOpcode)))

/-- Admin commands that return data (04 R211 to R224; 02 R115; 03 R167). Structures of the standards are PRESUMED (notes/assumptions/24). -/
def Obligations.DataAdminCommandsComplete : Prop :=
  (∀ (s : State) (stamp : Nat) (c : Cmd), s.m.adminCmd stamp = some c → s.m.adminTurn c = true →
      let m := s.m.dropTasks stamp
      let acts := fun (x : Mach) => Host.Outcome.next (s.withM (x.actsOnce stamp))
      let bad := Host.Outcome.next (s.withM (if c.sqe.buf = .malformed then m.plotError c.plot 2 else m.failWith stamp St.badSglSegment))
      let cns := Word.bits c.sqe.cdw10 7 0
      let away := (cns = 0 ∨ cns = 3 ∨ cns = 5) ∧ m.remote c.sqe.nsid.toNat = true
      let ret := fun (l : List Byte) => m.logReply c (window l c.sqe.logOff c.sqe.logLen)
      (c.sqe.buf = .malformed ∨ c.sqe.buf = .sglUnsupported →
        (c.sqe.opc = 0x06 → exec (.identify stamp) s = bad) ∧
        (c.sqe.opc = 0x0A → exec (.getFeatures stamp) s = bad) ∧
        (c.sqe.opc = 0x02 →
          (vendorLogs.contains c.sqe.lid = false → exec (.getLogPage stamp) s = bad) ∧
          (c.sqe.lid = 0xC0 → exec (.getLogYieldBook stamp) s = bad) ∧ (c.sqe.lid = 0xC1 → exec (.getLogTally stamp) s = bad) ∧
          (c.sqe.lid = 0xC2 → exec (.getLogGridStats stamp) s = bad) ∧ (c.sqe.lid = 0xC3 → exec (.getLogBedHealth stamp) s = bad) ∧
          (c.sqe.lid = 0xC4 → exec (.getLogHitchStatus stamp) s = bad))) ∧
      (c.sqe.buf = .prp ∨ c.sqe.buf = .sgl →
        (c.sqe.opc = 0x06 →
          (away → exec (.identify stamp) s = acts (m.toMember c)) ∧
          (∀ st, ¬away → m.identifyData c = .inl st → exec (.identify stamp) s = acts (m.failWith stamp st)) ∧
          (∀ data, ¬away → m.identifyData c = .inr data →
            (c.replyStatus 4096 = none → exec (.identify stamp) s = acts (m.reply c.stamp data)) ∧
            (∀ st, c.replyStatus 4096 = some st → exec (.identify stamp) s = acts (m.failWith c.stamp st)))) ∧
        (c.sqe.opc = 0x02 →
          (∀ st, vendorLogs.contains c.sqe.lid = false → m.stdLog c = .inl st → exec (.getLogPage stamp) s = acts (m.failWith stamp st)) ∧
          (∀ l, vendorLogs.contains c.sqe.lid = false → m.stdLog c = .inr l → exec (.getLogPage stamp) s = acts (ret l)) ∧
          (c.plot = 0 →
            (c.sqe.lid = 0xC0 → c.sqe.lsi = 0 → exec (.getLogYieldBook stamp) s = acts (m.logReply c (m.ybkWindow c.sqe.logOff c.sqe.logLen))) ∧
            (c.sqe.lid = 0xC0 → c.sqe.lsi ≠ 0 → c.sqe.lsi ≤ 7 → m.hitch.role = 1 → (m.member c.sqe.lsi).st = 1 →
              exec (.getLogYieldBook stamp) s = acts (m.logReply c (m.memberBook c.sqe.lsi c.sqe.logOff c.sqe.logLen))) ∧
            (c.sqe.lid = 0xC0 → c.sqe.lsi ≠ 0 → ¬(c.sqe.lsi ≤ 7 ∧ m.hitch.role = 1 ∧ (m.member c.sqe.lsi).st = 1) →
              exec (.getLogYieldBook stamp) s = acts (m.failWith stamp St.invalidField)) ∧
            (c.sqe.lid = 0xC1 → c.sqe.lsi ≤ 1023 ∨ c.sqe.lsi = 0xFFFF → exec (.getLogTally stamp) s = acts (ret (m.tallyLog c.sqe.lsi))) ∧
            (c.sqe.lid = 0xC1 → ¬(c.sqe.lsi ≤ 1023 ∨ c.sqe.lsi = 0xFFFF) →
              exec (.getLogTally stamp) s = acts (m.failWith stamp St.invalidField)) ∧
            (c.sqe.lid = 0xC2 → exec (.getLogGridStats stamp) s = acts (ret (m.gridLog s.cfg))) ∧
            (c.sqe.lid = 0xC3 → exec (.getLogBedHealth stamp) s = acts (ret m.healthLog)) ∧
            (c.sqe.lid = 0xC4 → exec (.getLogHitchStatus stamp) s = acts (ret m.hitchLog))) ∧
          (c.plot ≠ 0 →
            (c.sqe.lid = 0xC0 → exec (.getLogYieldBook stamp) s = acts (m.failWith stamp St.invalidLog)) ∧
            (c.sqe.lid = 0xC1 → exec (.getLogTally stamp) s = acts (m.failWith stamp St.invalidLog)) ∧
            (c.sqe.lid = 0xC2 → exec (.getLogGridStats stamp) s = acts (m.failWith stamp St.invalidLog)) ∧
            (c.sqe.lid = 0xC3 → exec (.getLogBedHealth stamp) s = acts (m.failWith stamp St.invalidLog)) ∧
            (c.sqe.lid = 0xC4 → exec (.getLogHitchStatus stamp) s = acts (m.failWith stamp St.invalidLog)))) ∧
        (c.sqe.opc = 0x0A →
          (m.featOk c.sqe.fid = false ∨ 3 < c.sqe.sel → exec (.getFeatures stamp) s = acts (m.failWith stamp St.invalidField)) ∧
          (m.featOk c.sqe.fid = true → c.sqe.sel = 3 →
            exec (.getFeatures stamp) s = acts (m.finish stamp Status.ok (BitVec.ofNat 32 (featCaps c.sqe.fid)))) ∧
          (m.featOk c.sqe.fid = true → c.sqe.sel < 3 → m.featRemote c = true → exec (.getFeatures stamp) s = acts (m.toMember c)) ∧
          (∀ st, m.featOk c.sqe.fid = true → c.sqe.sel < 3 → m.featRemote c = false → m.getFeature s.cfg c = .inl st →
            exec (.getFeatures stamp) s = acts (m.failWith stamp st)) ∧
          (∀ v data, m.featOk c.sqe.fid = true → c.sqe.sel < 3 → m.featRemote c = false → m.getFeature s.cfg c = .inr (v, data) →
            exec (.getFeatures stamp) s = acts
              ((m.updCmd stamp fun k => { k with outData := data }).finish stamp Status.ok (BitVec.ofNat 32 v)))))) ∧
  (∀ (m : Mach) (c : Cmd) (data : List Byte), c.sqe.logOff % 4 = 0 → c.replyStatus c.sqe.logLen = none →
      m.logReply c data = (m.reply c.stamp data).logRead c)

/-- Set Features (04 R199, R222 to R224; 02 R113; 03 R149, R150; 11 R497 to R507; 00 R8). Standard features are PRESUMED (notes/assumptions/24). -/
def Obligations.FeatureCommandsComplete : Prop :=
  ∀ (s : State) (stamp : Nat) (c : Cmd), s.m.adminCmd stamp = some c → s.m.adminTurn c = true → c.sqe.opc = 0x09 →
      let m := s.m.dropTasks stamp
      let acts := fun (x : Mach) => Host.Outcome.next (s.withM (x.actsOnce stamp))
      let bad := Host.Outcome.next (s.withM (if c.sqe.buf = .malformed then m.plotError c.plot 2 else m.failWith stamp St.badSglSegment))
      let field := acts (m.failWith stamp St.invalidField)
      let d := c.sqe.data
      let i := c.sqe.nsid.toNat
      (c.sqe.buf = .malformed ∨ c.sqe.buf = .sglUnsupported →
        (ownRow.contains c.sqe.fid = false → exec (.setFeatures stamp) s = bad) ∧ (c.sqe.fid = 0x02 → exec (.setFeaturesPowerMgmt stamp) s = bad) ∧
        (c.sqe.fid = 0x0C → exec (.setFeaturesApst stamp) s = bad) ∧ (c.sqe.fid = 0x06 → exec (.setFeaturesVwc stamp) s = bad) ∧
        (c.sqe.fid = 0xC0 → exec (.setFeaturesFurrowGrid stamp) s = bad) ∧ (c.sqe.fid = 0xC1 → exec (.setFeaturesPlacement stamp) s = bad) ∧
        (c.sqe.fid = 0xC2 → exec (.setFeaturesPlotQuotas stamp) s = bad) ∧ (c.sqe.fid = 0xC3 → exec (.setFeaturesThrottle stamp) s = bad) ∧
        (c.sqe.fid = 0xC4 → exec (.setFeaturesYbkRate stamp) s = bad) ∧ (c.sqe.fid = 0xC5 → exec (.setFeaturesUnwrittenRead stamp) s = bad)) ∧
      (c.sqe.buf = .prp ∨ c.sqe.buf = .sgl →
        (ownRow.contains c.sqe.fid = false →
          (m.featOk c.sqe.fid = false → exec (.setFeatures stamp) s = field) ∧
          (m.featOk c.sqe.fid = true → c.sqe.save = true → exec (.setFeatures stamp) s = acts (m.failWith c.stamp featNotSaveable)) ∧
          (m.featOk c.sqe.fid = true → c.sqe.save = false → exec (.setFeatures stamp) s = acts (m.setStd c))) ∧
        (c.sqe.fid = 0x02 ∨ c.sqe.fid = 0x0C → c.plot = 0 → c.sqe.save = true →
          (c.sqe.fid = 0x02 → exec (.setFeaturesPowerMgmt stamp) s = acts (m.failWith c.stamp featNotSaveable)) ∧
          (c.sqe.fid = 0x0C → exec (.setFeaturesApst stamp) s = acts (m.failWith c.stamp featNotSaveable))) ∧
        (c.plot ≠ 0 →
          (c.sqe.fid = 0x02 → exec (.setFeaturesPowerMgmt stamp) s = acts (m.failWith c.stamp St.invalidField)) ∧
          (c.sqe.fid = 0x0C → exec (.setFeaturesApst stamp) s = acts (m.failWith c.stamp St.invalidField)) ∧
          (c.sqe.fid = 0xC0 → exec (.setFeaturesFurrowGrid stamp) s = field) ∧
          (c.sqe.fid = 0xC2 → exec (.setFeaturesPlotQuotas stamp) s = acts (m.failWith c.stamp St.invalidField)) ∧
          (c.sqe.fid = 0xC3 → exec (.setFeaturesThrottle stamp) s = acts (m.failWith c.stamp St.invalidField)) ∧
          (c.sqe.fid = 0xC4 → exec (.setFeaturesYbkRate stamp) s = acts (m.failWith c.stamp St.invalidField))) ∧
        (c.sqe.fid = 0x02 → c.plot = 0 → c.sqe.save = false →
          let ps := powerStateOf c.sqe
          (4 < ps ∨ Word.bits c.sqe.cdw11 7 5 ≠ 0 → exec (.setFeaturesPowerMgmt stamp) s = field) ∧
          (Word.bits c.sqe.cdw11 7 5 = 0 → ps < 3 →
            exec (.setFeaturesPowerMgmt stamp) s = acts ((m.onPower fun p => { p with want := some ps }).succeed stamp)) ∧
          (Word.bits c.sqe.cdw11 7 5 = 0 → 3 ≤ ps → ps ≤ 4 → m.mayIdle = false →
            exec (.setFeaturesPowerMgmt stamp) s = acts (m.succeed stamp)) ∧
          (Word.bits c.sqe.cdw11 7 5 = 0 → 3 ≤ ps → ps ≤ 4 → m.mayIdle = true → exec (.setFeaturesPowerMgmt stamp) s = acts
            ((m.onPower fun p => { p with entering := some ps, entryCmd := stamp, closing := false }).setStage stamp .media))) ∧
        (c.sqe.fid = 0x0C → c.plot = 0 → c.sqe.save = false →
          ((∀ t ∈ (apstEntries d).take 5, t.2 ≠ 0 → t.1 = 3 ∨ t.1 = 4) → exec (.setFeaturesApst stamp) s = acts
            ((m.onPower fun p => { p with apst := c.sqe.cdw11.getLsbD 0, apstIdle := (apstEntries d).take 5 }).succeed stamp)) ∧
          ((∃ t ∈ (apstEntries d).take 5, t.2 ≠ 0 ∧ t.1 ≠ 3 ∧ t.1 ≠ 4) → exec (.setFeaturesApst stamp) s = field)) ∧
        (c.sqe.fid = 0x06 →
          (m.power.vwc = true → c.sqe.cdw11.getLsbD 0 = true → exec (.setFeaturesVwc stamp) s = acts
            (if c.sqe.save then m.failWith c.stamp featNotSaveable else m.succeed stamp)) ∧
          (m.power.vwc = false ∨ c.sqe.cdw11.getLsbD 0 = false → exec (.setFeaturesVwc stamp) s = field)) ∧
        (c.sqe.fid = 0xC0 → c.plot = 0 →
          let t := (s.withM m).applyGrid d
          let n := if c.sqe.save then (t.m.onBoot fun b => { b with savedC0 := some t.cfg.grid }).copyAll c.sqe else t.m
          (s.m.gridFeatOk d = true → exec (.setFeaturesFurrowGrid stamp) s = .next (t.withM ((n.succeed stamp).actsOnce stamp))) ∧
          (s.m.gridFeatOk d = false → exec (.setFeaturesFurrowGrid stamp) s = field)) ∧
        (c.sqe.fid = 0xC1 →
          let n := m.updNs i fun n => { n with dflt := Ext.parse d, dfltSaved := if c.sqe.save then Ext.parse d else n.dfltSaved }
          (m.remote i = true → exec (.setFeaturesPlacement stamp) s = acts (m.toMember c)) ∧
          (∀ st, m.remote i = false → m.nsStatus c = some st → exec (.setFeaturesPlacement stamp) s = acts (m.failWith stamp st)) ∧
          (m.remote i = false → m.nsStatus c = none →
            (extOk d (m.nsBeds (m.ns i)) = true → leAt d 24 8 = 0 → exec (.setFeaturesPlacement stamp) s = acts
              ((if c.sqe.save then n.saveHub 0x10 else n).succeed stamp)) ∧
            (extOk d (m.nsBeds (m.ns i)) = false ∨ leAt d 24 8 ≠ 0 → exec (.setFeaturesPlacement stamp) s = field))) ∧
        (c.sqe.fid = 0xC2 → c.plot = 0 →
          let t := Word.bits c.sqe.cdw11 15 0
          let q := quotaOf d
          let out := 1024 ≤ t ∨ quotaOk q = false ∨ q.active < q.open_ ∨ q.qpairs < m.qpairs t ∨ m.quotasFit t q = false
          (¬out → exec (.setFeaturesPlotQuotas stamp) s = acts (((m.setQuota t q c.sqe.save).copyAll c.sqe).succeed stamp)) ∧
          (out → exec (.setFeaturesPlotQuotas stamp) s = field)) ∧
        (c.sqe.fid = 0xC3 → c.plot = 0 →
          let ok := 10 ≤ leAt d 0 2 ∧ leAt d 0 2 ≤ 120 ∧ leAt d 0 2 ≤ m.power.decl.bMax ∧ 85 ≤ leAt d 2 1 ∧ leAt d 2 1 ≤ 125 ∧
            1 ≤ leAt d 3 1 ∧ leAt d 3 1 ≤ 8 ∧ 50 ≤ leAt d 4 1 ∧ leAt d 4 1 ≤ 90 ∧ 1 ≤ leAt d 5 1 ∧ leAt d 5 1 ≤ 10
          (ok → exec (.setFeaturesThrottle stamp) s = acts (((m.setLadder d c.sqe.save).copySaved c.sqe).succeed stamp)) ∧
          (¬ok → exec (.setFeaturesThrottle stamp) s = field)) ∧
        (c.sqe.fid = 0xC4 → c.plot = 0 →
          let code := Word.bits c.sqe.cdw11 15 0
          let v := Word.bits c.sqe.cdw12 15 0
          let out := 3600 < v ∨ (code ≠ 0xFFFF ∧ m.ybk.slots.contains code = false)
          (¬out → exec (.setFeaturesYbkRate stamp) s = acts (((m.setYbkRate code v c.sqe.save).copySaved c.sqe).succeed stamp)) ∧
          (out → exec (.setFeaturesYbkRate stamp) s = field)) ∧
        (c.sqe.fid = 0xC5 →
          let v := Word.bits c.sqe.cdw11 1 0
          let n := m.updNs i fun n => { n with unwritten := v, unwrittenSaved := if c.sqe.save then v else n.unwrittenSaved }
          (m.remote i = true → exec (.setFeaturesUnwrittenRead stamp) s = acts (m.toMember c)) ∧
          (∀ st, m.remote i = false → m.nsStatus c = some st → exec (.setFeaturesUnwrittenRead stamp) s = acts (m.failWith stamp st)) ∧
          (m.remote i = false → m.nsStatus c = none →
            (v < 2 → exec (.setFeaturesUnwrittenRead stamp) s = acts ((if c.sqe.save then n.saveHub 0x10 else n).succeed stamp)) ∧
            (2 ≤ v → exec (.setFeaturesUnwrittenRead stamp) s = field))))

/-- Namespaces (03 R124 to R129; 04 R184, R213; 09 R416, R426, R428). -/
def Obligations.NamespaceCommandsComplete : Prop :=
  (∀ (s : State) (stamp : Nat) (c : Cmd), s.m.adminCmd stamp = some c → s.m.adminTurn c = true → c.sqe.opc = 0x0D →
      let m := s.m.dropTasks stamp
      let i := c.sqe.nsid.toNat
      let n := i - 0xFFFFFF00
      let acts := fun (x : Mach) => Host.Outcome.next (s.withM (x.actsOnce stamp))
      let bad := Host.Outcome.next (s.withM (if c.sqe.buf = .malformed then m.plotError c.plot 2 else m.failWith stamp St.badSglSegment))
      (c.sqe.buf = .malformed ∨ c.sqe.buf = .sglUnsupported →
        (Word.bits c.sqe.cdw10 3 0 ≠ 1 → exec (.namespaceCreate stamp) s = bad) ∧
        (Word.bits c.sqe.cdw10 3 0 = 1 → exec (.namespaceDelete stamp) s = bad)) ∧
      (c.sqe.buf = .prp ∨ c.sqe.buf = .sgl → c.plot ≠ 0 →
        (Word.bits c.sqe.cdw10 3 0 ≠ 1 → exec (.namespaceCreate stamp) s = acts (m.failWith stamp St.invalidOpcode)) ∧
        (Word.bits c.sqe.cdw10 3 0 = 1 → exec (.namespaceDelete stamp) s = acts (m.failWith stamp St.invalidOpcode))) ∧
      (c.sqe.buf = .prp ∨ c.sqe.buf = .sgl → c.plot = 0 →
        (Word.bits c.sqe.cdw10 3 0 ≠ 0 → Word.bits c.sqe.cdw10 3 0 ≠ 1 →
          exec (.namespaceCreate stamp) s = acts (m.failWith stamp St.invalidField)) ∧
        (Word.bits c.sqe.cdw10 3 0 = 0 → m.hitch.role = 1 ∧ 0xFFFFFF01 ≤ i ∧ n ≤ 7 →
          ((m.member n).st = 0 → exec (.namespaceCreate stamp) s = acts (m.failWith stamp St.invalidField)) ∧
          ((m.member n).st = 1 → exec (.namespaceCreate stamp) s = acts (m.forward c n)) ∧
          (1 < (m.member n).st → exec (.namespaceCreate stamp) s = acts (m.failWith stamp St.anaInaccessible))) ∧
        (Word.bits c.sqe.cdw10 3 0 = 0 → ¬(m.hitch.role = 1 ∧ 0xFFFFFF01 ≤ i ∧ n ≤ 7) →
          (∀ st, m.createNs c.sqe.data = .inl st → exec (.namespaceCreate stamp) s = acts (m.failWith stamp st)) ∧
          (∀ k x, m.createNs c.sqe.data = .inr (k, x) → exec (.namespaceCreate stamp) s = acts
            ((x.updCmd stamp fun k => { k with committed := true }).finish stamp Status.ok (BitVec.ofNat 32 k)))) ∧
        (Word.bits c.sqe.cdw10 3 0 = 1 → m.remote i = true → exec (.namespaceDelete stamp) s = acts (m.toMember c)) ∧
        (Word.bits c.sqe.cdw10 3 0 = 1 → m.remote i = false →
          c.sqe.nsid ≠ 0xFFFFFFFF ∧ ((m.ns i).exists_ = false ∨ m.deletedBefore c = true) →
            exec (.namespaceDelete stamp) s = acts (m.failWith stamp St.invalidNs)) ∧
        (Word.bits c.sqe.cdw10 3 0 = 1 → m.remote i = false →
          ¬(c.sqe.nsid ≠ 0xFFFFFFFF ∧ ((m.ns i).exists_ = false ∨ m.deletedBefore c = true)) →
          ((m.nsNamed c.sqe).any m.nsFrozen = true → exec (.namespaceDelete stamp) s = acts (m.failWith stamp St.ctrlListInvalid)) ∧
          ((m.nsNamed c.sqe).any m.nsFrozen = false → exec (.namespaceDelete stamp) s = acts
            ((((m.nsNamed c.sqe).foldl (fun m k => m.updNs k fun n =>
              { n with deleting := if n.deleting = 0 then stamp else n.deleting }) m).setStage stamp .locked).pump s.cfg))))) ∧
  (∀ (s : State) (stamp : Nat) (c : Cmd), s.m.adminCmd stamp = some c → s.m.adminTurn c = true → c.sqe.opc = 0x15 →
      let m := s.m.dropTasks stamp
      let i := c.sqe.nsid.toNat
      let l := ctrlList c.sqe.data
      let sel := Word.bits c.sqe.cdw10 3 0
      let gone := (m.ns i).exists_ = false ∨ m.deletedBefore c = true
      let acts := fun (x : Mach) => Host.Outcome.next (s.withM (x.actsOnce stamp))
      let bad := Host.Outcome.next (s.withM (if c.sqe.buf = .malformed then m.plotError c.plot 2 else m.failWith stamp St.badSglSegment))
      (c.sqe.buf = .malformed ∨ c.sqe.buf = .sglUnsupported →
        (sel = 0 → exec (.namespaceAttach stamp) s = bad) ∧ (sel ≠ 0 → exec (.namespaceDetach stamp) s = bad)) ∧
      (c.sqe.buf = .prp ∨ c.sqe.buf = .sgl → c.plot ≠ 0 →
        (sel = 0 → exec (.namespaceAttach stamp) s = acts (m.failWith c.stamp St.invalidOpcode)) ∧
        (sel ≠ 0 → exec (.namespaceDetach stamp) s = acts (m.failWith c.stamp St.invalidOpcode))) ∧
      (c.sqe.buf = .prp ∨ c.sqe.buf = .sgl → c.plot = 0 →
        (sel ≠ 0 → sel ≠ 1 → exec (.namespaceDetach stamp) s = acts (m.failWith stamp St.invalidField)) ∧
        (m.remote i = true →
          (sel = 0 → exec (.namespaceAttach stamp) s = acts (m.toMember c)) ∧ (sel = 1 → exec (.namespaceDetach stamp) s = acts (m.toMember c))) ∧
        (m.remote i = false → gone →
          (sel = 0 → exec (.namespaceAttach stamp) s = acts (m.failWith c.stamp St.invalidNs)) ∧
          (sel = 1 → exec (.namespaceDetach stamp) s = acts (m.failWith c.stamp St.invalidNs))) ∧
        (m.remote i = false → ¬gone → ctrlListOk c.sqe.data = false →
          (sel = 0 → exec (.namespaceAttach stamp) s = acts (m.failWith c.stamp St.ctrlListInvalid)) ∧
          (sel = 1 → exec (.namespaceDetach stamp) s = acts (m.failWith c.stamp St.ctrlListInvalid))) ∧
        (m.remote i = false → ¬gone → ctrlListOk c.sqe.data = true →
          (∀ st, sel = 0 → l.findSome? (m.attachStatus i) = some st → exec (.namespaceAttach stamp) s = acts (m.failWith c.stamp st)) ∧
          (sel = 0 → l.findSome? (m.attachStatus i) = none → exec (.namespaceAttach stamp) s = acts
            (((l.foldl (fun m p => m.attachPlot i p) m).updCmd c.stamp fun k => { k with committed := true }).succeed c.stamp)) ∧
          (∀ st, sel = 1 → l.findSome? (m.detachStatus i) = some st → exec (.namespaceDetach stamp) s = acts (m.failWith c.stamp st)) ∧
          (sel = 1 → l.findSome? (m.detachStatus i) = none → exec (.namespaceDetach stamp) s = acts
            (((l.foldl (fun m p => m.detachPlot i p) m).updCmd c.stamp fun k => { k with committed := true }).succeed c.stamp))))) ∧
  (∀ (s : State) (stamp : Nat) (c : Cmd), s.m.adminCmd stamp = some c → s.m.adminTurn c = true → c.sqe.opc = 0x80 →
      let m := s.m.dropTasks stamp
      let i := c.sqe.nsid.toNat
      let gone := c.sqe.nsid ≠ 0xFFFFFFFF ∧ ((m.ns i).exists_ = false ∨ m.deletedBefore c = true)
      let acts := fun (x : Mach) => Host.Outcome.next (s.withM (x.actsOnce stamp))
      (c.plot ≠ 0 → exec (.formatNvm stamp) s = acts (m.failWith c.stamp St.invalidOpcode)) ∧
      (c.plot = 0 → Word.bits c.sqe.cdw10 11 9 ≠ 0 → exec (.formatNvm stamp) s = acts (m.failWith stamp St.invalidField)) ∧
      (c.plot = 0 → Word.bits c.sqe.cdw10 11 9 = 0 → m.remote i = true → exec (.formatNvm stamp) s = acts (m.toMember c)) ∧
      (c.plot = 0 → Word.bits c.sqe.cdw10 11 9 = 0 → m.remote i = false → gone →
        exec (.formatNvm stamp) s = acts (m.failWith stamp St.invalidNs)) ∧
      (c.plot = 0 → Word.bits c.sqe.cdw10 11 9 = 0 → m.remote i = false → ¬gone →
        exec (.formatNvm stamp) s = acts ((m.setStage stamp .locked).pump s.cfg)))

/-- I/O commands (04 R185 to R211, R225; 03 R132, R135, R150; 09 R431). -/
def Obligations.IoCommandsComplete : Prop :=
  (∀ (s : State) (stamp at_ : Nat) (c : Cmd) (t : Mach),
      let m := s.m.advance at_
      let n := m.dropTasks c.stamp
      m.cmd? stamp = some c → c.sq ≠ 0 →
      (c.stage = .fetched ∧ c.sqe.opc ≠ 0 ∧ t = (if n.remote c.sqe.nsid.toNat then n.ioToMember c
          else match n.ioStatus c with
            | some st => (n.failWith c.stamp st).pump s.cfg
            | none => if c.sqe.usesBuf && c.sqe.buf == .malformed then (n.plotError c.plot 2).pump s.cfg
                      else (n.setStage c.stamp .locked).pump s.cfg)) ∨
        (c.stage = .zoned ∧ t = (m.dropTasks stamp).zoneEnd s.cfg stamp) →
      (c.sqe.opc = 0x01 → exec (.write stamp at_) s = .next (s.withM t)) ∧
      (c.sqe.opc = 0x7D → exec (.zoneAppend stamp at_) s = .next (s.withM t)) ∧
      (c.sqe.opc = 0x08 → exec (.writeZeroes stamp at_) s = .next (s.withM t)) ∧
      (c.sqe.opc = 0x19 → exec (.copy stamp at_) s = .next (s.withM t)) ∧
      (c.sqe.opc = 0x02 → exec (.read stamp at_) s = .next (s.withM t)) ∧
      (c.sqe.opc = 0x0C → exec (.verify stamp at_) s = .next (s.withM t)) ∧
      (c.sqe.opc = 0x09 → exec (.datasetManagement stamp at_) s = .next (s.withM t)) ∧
      (c.sqe.opc = 0x79 →
        (c.sqe.zsa ≠ 1 → c.sqe.zsa ≠ 2 → c.sqe.zsa ≠ 4 → c.sqe.zsa ≠ 5 → c.sqe.zsa ≠ 0x10 → exec (.zoneOpen stamp at_) s = .next (s.withM t)) ∧
        (c.sqe.zsa = 1 → exec (.zoneClose stamp at_) s = .next (s.withM t)) ∧
        (c.sqe.zsa = 2 → exec (.zoneFinish stamp at_) s = .next (s.withM t)) ∧
        (c.sqe.zsa = 4 → exec (.zoneReset stamp at_) s = .next (s.withM t)) ∧
        (c.sqe.zsa = 5 → exec (.zoneOffline stamp at_) s = .next (s.withM t)) ∧
        (c.sqe.zsa = 0x10 → exec (.zoneSetZde stamp at_) s = .next (s.withM t))) ∧
      (c.sqe.opc = 0x7A →
        (c.sqe.zsa ≠ 1 → exec (.reportZones stamp at_) s = .next (s.withM t)) ∧
        (c.sqe.zsa = 1 → exec (.extendedReportZones stamp at_) s = .next (s.withM t)))) ∧
  (∀ (s : State) (stamp at_ : Nat) (c : Cmd),
      let m := s.m.advance at_
      let n := m.dropTasks c.stamp
      m.cmd? stamp = some c → c.stage = .fetched → c.sq ≠ 0 → c.sqe.opc = 0x00 →
      let full := (n.med.units.filter fun u => u.full && !u.done).map fun u => (zkey u.nsid u.zone, u.row * 32 + u.col)
      (n.remote c.sqe.nsid.toNat = true → exec (.flush stamp at_) s = .next (s.withM (n.ioToMember c))) ∧
      (n.remote c.sqe.nsid.toNat = false →
        (∀ st, n.ioStatus c = some st → exec (.flush stamp at_) s = .next (s.withM ((n.failWith c.stamp st).pump s.cfg))) ∧
        (n.ioStatus c = none → n.power.vwc = false → exec (.flush stamp at_) s = .next (s.withM (n.succeed c.stamp))) ∧
        (n.ioStatus c = none → n.power.vwc = true → exec (.flush stamp at_) s = .next (s.withM
          ((n.updCmd c.stamp fun k => { k with cover := k.cover.filter full.contains, stage := .media }).dumpOpen (n.flushNs c)))))) ∧
  (∀ (s : State) (stamp : Nat) (c : Cmd), s.m.cmd? stamp = some c → c.stage = .media → c.sqe.opc = 0x00 → c.sq ≠ 0 →
      (s.m.uncovered c.cover = false → exec (.flushDone stamp) s = .next (s.withM
        (((s.m.dumpOpen (s.m.flushNs c)).record 0x0404 c.flushKib 0).succeed stamp))) ∧
      (s.m.uncovered c.cover = true → exec (.flushDone stamp) s = .next s))

/-- Images (13 R574 to R589; 04 R184). -/
def Obligations.ImageCommandsComplete : Prop :=
  (∀ (s : State) (stamp at_ : Nat) (c : Cmd), (s.m.advance at_).adminCmd stamp = some c → (s.m.advance at_).adminTurn c = true → c.sqe.opc = 0x11 →
      let m := (s.m.advance at_).dropTasks stamp
      let d := c.sqe.data
      let off := dlOff c.sqe
      let len := dlLen c.sqe
      let h := ImageHdr.ofBytes d
      let e := m.onImg Img.emptied
      let acts := fun (x : Mach) => Host.Outcome.next (s.withM (x.actsOnce stamp))
      let ends := fun (r : Bool × Mach) => acts (if r.1 then r.2.succeed stamp else r.2.failWith stamp St.invalidImage)
      (c.sqe.buf = .malformed ∨ c.sqe.buf = .sglUnsupported → exec (.firmwareImageDownload stamp at_) s =
        .next (s.withM (if c.sqe.buf = .malformed then m.plotError c.plot 2 else m.failWith stamp St.badSglSegment))) ∧
      (c.sqe.buf = .prp ∨ c.sqe.buf = .sgl →
        (c.plot ≠ 0 → exec (.firmwareImageDownload stamp at_) s = acts (m.failWith c.stamp St.invalidOpcode)) ∧
        (c.plot = 0 → m.stagingBusy 0 = true → exec (.firmwareImageDownload stamp at_) s = acts (m.failWith stamp St.fwProhibited)) ∧
        (c.plot = 0 → m.stagingBusy 0 = false → off = 0 →
          (len < 4096 → exec (.firmwareImageDownload stamp at_) s = acts (e.failWith stamp St.invalidField)) ∧
          (4096 ≤ len → e.headerCheck e.floorNow h ≠ 0 →
            exec (.firmwareImageDownload stamp at_) s = acts ((e.refuseImage (e.headerCheck e.floorNow h)).failWith stamp St.invalidImage)) ∧
          (4096 ≤ len → e.headerCheck e.floorNow h = 0 → 4096 + h.bodyLen < len →
            exec (.firmwareImageDownload stamp at_) s = acts (e.failWith stamp St.invalidImage)) ∧
          (4096 ≤ len → e.headerCheck e.floorNow h = 0 → len < 4096 + h.bodyLen → len % 4096 ≠ 0 →
            exec (.firmwareImageDownload stamp at_) s = acts (e.failWith stamp St.invalidField)) ∧
          (e.headerCheck e.floorNow h = 0 → len ≤ 4096 + h.bodyLen → len = 4096 →
            exec (.firmwareImageDownload stamp at_) s = acts ((e.stageHeader 0 d).succeed stamp)) ∧
          (e.headerCheck e.floorNow h = 0 → len ≤ 4096 + h.bodyLen → 4096 < len → (len < 4096 + h.bodyLen → len % 4096 = 0) →
            exec (.firmwareImageDownload stamp at_) s = ends ((e.stageHeader 0 d).stageBody (window d 4096 (len - 4096))))) ∧
        (c.plot = 0 → m.stagingBusy 0 = false → off ≠ 0 → off ≠ m.img.hdrBytes + m.img.body ∨ m.img.hdr = none →
          exec (.firmwareImageDownload stamp at_) s = acts (m.failWith stamp St.invalidField)) ∧
        (∀ g, c.plot = 0 → m.stagingBusy 0 = false → off ≠ 0 → off = m.img.hdrBytes + m.img.body → m.img.hdr = some g →
          (4096 + g.bodyLen < off + len → exec (.firmwareImageDownload stamp at_) s = acts (m.failWith stamp St.invalidImage)) ∧
          (off + len < 4096 + g.bodyLen → len % 4096 ≠ 0 →
            exec (.firmwareImageDownload stamp at_) s = acts (m.failWith stamp St.invalidField)) ∧
          (off + len ≤ 4096 + g.bodyLen → (off + len < 4096 + g.bodyLen → len % 4096 = 0) →
            exec (.firmwareImageDownload stamp at_) s = ends (m.stageBody (window d 0 len)))))) ∧
  (∀ (m : Mach) (h : ImageHdr) (bytes : List Byte), m.img.hdr = some h →
      let n := m.onImg fun i => { i with body := i.body + bytes.length, staged := i.staged ++ bytes, lastAt := m.clk.now }
      (n.img.body < h.bodyLen → m.stageBody bytes = (true, n)) ∧
      (h.bodyLen ≤ n.img.body → leAt (sha384 (n.img.staged.drop 4096)) 0 48 = h.digest →
        m.stageBody bytes = (true, n.onImg fun i => { i with stage := 2 })) ∧
      (h.bodyLen ≤ n.img.body → leAt (sha384 (n.img.staged.drop 4096)) 0 48 ≠ h.digest → m.stageBody bytes = (false, n.refuseImage 8))) ∧
  (∀ (s : State) (stamp : Nat) (c : Cmd), s.m.adminCmd stamp = some c → s.m.adminTurn c = true → c.sqe.opc = 0x10 →
      let m := s.m.dropTasks stamp
      let a := fwAction c.sqe
      let slotOf := m.fwSlot (fwSlotField c.sqe)
      let acts := fun (x : Mach) => Host.Outcome.next (s.withM (x.actsOnce stamp))
      let all := fun (x : Host.Outcome State Fault Refusal) =>
        (a = 0 ∨ 4 ≤ a → exec (.fwCommitReplace stamp) s = x) ∧ (a = 1 → exec (.fwCommitReplaceUse stamp) s = x) ∧
        (a = 2 → exec (.fwCommitUseSlot stamp) s = x) ∧ (a = 3 → exec (.fwCommitActivate stamp) s = x)
      (c.plot ≠ 0 → all (acts (m.failWith stamp St.invalidOpcode))) ∧
      (c.plot = 0 → m.committing = true → all (acts (m.failWith stamp St.fwProhibited))) ∧
      (c.plot = 0 → m.committing = false →
        (4 ≤ a → exec (.fwCommitReplace stamp) s = acts (m.commitFails stamp St.invalidField)) ∧
        (a < 4 → slotOf = none → all (acts (m.commitFails stamp St.invalidFwSlot))) ∧
        (∀ slot, slotOf = some slot →
          (m.img.hdr = none ∨ m.img.stage ≠ 2 →
            (a = 0 → exec (.fwCommitReplace stamp) s = acts (m.commitFails stamp St.invalidImage)) ∧
            (a = 1 → exec (.fwCommitReplaceUse stamp) s = acts (m.commitFails stamp St.invalidImage))) ∧
          (∀ h : ImageHdr, m.img.hdr = some h → m.img.stage = 2 →
            (a = 0 → exec (.fwCommitReplace stamp) s = acts ((m.startSlotWrite slot stamp 0).setStage stamp .media)) ∧
            (a = 1 → m.notBelow slot h.version = false → exec (.fwCommitReplaceUse stamp) s = acts (m.commitFails stamp St.fwProhibited)) ∧
            (a = 1 → m.notBelow slot h.version = true →
              exec (.fwCommitReplaceUse stamp) s = acts ((m.startSlotWrite slot stamp 1).setStage stamp .media))) ∧
          (∀ st, m.useStatus slot = some st →
            (a = 2 → exec (.fwCommitUseSlot stamp) s = acts (m.commitFails stamp st)) ∧
            (a = 3 → exec (.fwCommitActivate stamp) s = acts (m.commitFails stamp st))) ∧
          (m.useStatus slot = none →
            (a = 2 → exec (.fwCommitUseSlot stamp) s = acts
              (((m.onImg fun i => { i with nextSlot := some slot }).commitEnds stamp 1).failWith stamp St.fwNeedsReset)) ∧
            (a = 3 → m.slotVersion slot = m.img.version → exec (.fwCommitActivate stamp) s = acts ((m.commitEnds stamp 1).succeed stamp)) ∧
            (a = 3 → m.slotVersion slot ≠ m.img.version → m.activateBlock slot = none →
              exec (.fwCommitActivate stamp) s = acts (m.startActivation slot stamp)) ∧
            (∀ r, a = 3 → m.slotVersion slot ≠ m.img.version → m.activateBlock slot = some r →
              let n := m.commitEnds stamp r.1
              exec (.fwCommitActivate stamp) s = acts
                ((if r.2 then n.record 0x0D06 (match n.img.runHdr with | some r => r.stateFmt | none => 0) 0 else n).failWith
                  stamp St.fwNeedsReset)))))) ∧
  (∀ (s : State) (ok : Bool), s.m.img.writing = none ∨ s.m.img.hdr = none → exec (.slotWriteDone ok) s = .next s) ∧
  (∀ (s : State) (slot cmd use : Nat) (h : ImageHdr), s.m.img.writing = some (slot, cmd, use) → s.m.img.hdr = some h →
      let m := s.m.onImg fun i => { i.emptied with writing := none }
      let done := (((m.onImg fun i => { i with slots := Tbl.put Slot.init slot { hdr := some h, bodyOk := true } i.slots,
                                               valid := i.valid ++ [slot], nextSlot := if use = 1 then some slot else i.nextSlot }).record
                    0x0D02 slot 0).commitEnds cmd 1).finish cmd (if use = 1 then St.fwNeedsReset else Status.ok) 0
      let t := s.withM (if use = 3 then done.activateSlot slot 0 Mach.reportVersion Mach.reportVersion else done)
      (s.m.headerCheck s.m.floorNow h = 0 → exec (.slotWriteDone true) s = .next (if use = 2 then t.warmReset false false else t)) ∧
      (s.m.headerCheck s.m.floorNow h ≠ 0 →
        exec (.slotWriteDone true) s = .next (s.withM (((m.record 0x0D03 slot 0).commitEnds cmd 3).failWith cmd St.fwProhibited))) ∧
      (exec (.slotWriteDone false) s = .next (s.withM (((m.record 0x0D03 slot 0).commitEnds cmd 3).failWith cmd St.fwProhibited)))) ∧
  (∀ (s : State) (ok : Bool),
      (s.m.img.act = none → exec (.swathSwitch ok) s = .next s ∧ exec .coreSwitch s = .next s) ∧
      (∀ a : Activ, s.m.img.act = some a →
        (a.waiting = true → exec (.swathSwitch ok) s = .next (s.withM s.m.activationGo) ∧ exec .coreSwitch s = .next s) ∧
        (∀ l, a.waiting = false → a.back = some l →
          let left := l.filter fun sw => s.m.acreUp (swathAcre sw)
          (exec .coreSwitch s = .next s) ∧
          (left = [] → exec (.swathSwitch ok) s = .next (s.withM (s.m.reverseGo a []))) ∧
          (∀ sw rest, left = sw :: rest →
            (s.m.swathEmpty sw = true → exec (.swathSwitch ok) s = .next (s.withM (s.m.reverseGo a rest).placeHeld)) ∧
            (s.m.swathEmpty sw = false → exec (.swathSwitch ok) s = .next s))) ∧
        (∀ sw rest, a.waiting = false → a.back = none → s.m.toSwitch a = sw :: rest →
          let m := s.m.onImg fun i => { i with act := some { a with swaths := sw :: rest } }
          (exec .coreSwitch s = .next s) ∧
          (m.swathEmpty sw = false → exec (.swathSwitch ok) s = .next (s.withM m)) ∧
          (m.swathEmpty sw = true →
            exec (.swathSwitch true) s = .next (s.withM
              (m.onImg fun i => { i with act := some { a with swaths := rest, done := a.done ++ [sw] } }).placeHeld) ∧
            exec (.swathSwitch false) s = .next (s.withM
              (m.onImg fun i => { i with act := some { a with swaths := [], back := some (sw :: a.done.reverse) } })))) ∧
        (a.waiting = false → a.back = none → s.m.toSwitch a = [] →
          (exec (.swathSwitch ok) s = .next (s.withM (s.m.onImg fun i => { i with act := some { a with swaths := [] } }))) ∧
          (a.cores < 3 → exec .coreSwitch s = .next (s.withM
            (s.m.onImg fun i => { i with act := some { a with swaths := [], cores := a.cores + 1 } }))) ∧
          (3 ≤ a.cores → (s.m.slot a.slot).hdr = none → exec .coreSwitch s = .next s) ∧
          (∀ h : ImageHdr, 3 ≤ a.cores → (s.m.slot a.slot).hdr = some h →
            let n := ((s.m.raiseFloors a.slot h).onImg fun i =>
              { i.emptied with act := none, running := a.slot, runHdr := some h, version := h.version,
                               nextSlot := if i.nextSlot = some a.slot then none else i.nextSlot })
            let d := ((n.record 0x0D04 ((n.clk.now - a.at_) / Config.edgesPerMs) 0).commitEnds a.cmd 1).succeed a.cmd
            exec .coreSwitch s = .next (s.withM (if a.cmd = 0 then d.reportVersion else d.commitMembers h.version)))))) ∧
  (∀ (m : Mach) (a : Activ) (left : List Nat),
      ((∃ sw ∈ left, m.acreUp (swathAcre sw) = true) → m.reverseGo a left = m.onImg fun i => { i with act := some { a with back := some left } }) ∧
      ((∀ sw ∈ left, m.acreUp (swathAcre sw) = false) → m.reverseGo a left =
        ((((((m.onImg fun i => { i.emptied with act := none }).placeHeld).record 0x0D05 a.done.length 0).commitEnds a.cmd 5).failWith
          a.cmd St.invalidImage).reportVersion))) ∧
  (∀ (s : State) (at_ : Nat),
      let m := s.m.advance at_
      (m.img.stage = 1 → m.img.lastAt + 600 * Config.edgesPerSec ≤ m.clk.now →
        exec (.stagingIdleTimeout at_) s = .next (s.withM ((m.onImg Img.emptied).record 0x0D01 (m.img.body / 1024) 0))) ∧
      (m.img.stage ≠ 1 ∨ m.clk.now < m.img.lastAt + 600 * Config.edgesPerSec → exec (.stagingIdleTimeout at_) s = .next (s.withM m)))

/-- Freezing and moving a plot (09 R430, R443 to R449; 04 R184, R215, R216). The front-end task ends first (`dropTasks`), and the command has then acted (`actsOnce`). -/
def Obligations.PlotCommandsComplete : Prop :=
  (∀ (s : State) (stamp at_ : Nat) (c : Cmd),
      let m := s.m.advance at_
      let n := m.dropTasks stamp
      let p := c.sqe.target
      let len := c.sqe.cdw11.toNat
      let acts := fun (x : Mach) => Host.Outcome.next (s.withM (x.actsOnce stamp))
      m.cmd? stamp = some c → m.adminCmd stamp = some c → m.adminTurn c = true → c.sqe.opc = 0xC1 →
      (c.plot = 0 → p < 1024 → (m.plot p).st = .resetting → exec (.plotFreeze stamp at_) s = .next (s.withM m)) ∧
      (¬(c.plot = 0 ∧ p < 1024 ∧ (m.plot p).st = .resetting) → c.sqe.buf = .malformed ∨ c.sqe.buf = .sglUnsupported →
        exec (.plotFreeze stamp at_) s =
          .next (s.withM (if c.sqe.buf = .malformed then n.plotError c.plot 2 else n.failWith stamp St.badSglSegment))) ∧
      (c.sqe.buf = .prp ∨ c.sqe.buf = .sgl →
        (c.plot ≠ 0 → exec (.plotFreeze stamp at_) s = acts (n.failWith c.stamp St.invalidOpcode)) ∧
        (c.plot = 0 → 1024 ≤ p → exec (.plotFreeze stamp at_) s = acts (n.failWith c.stamp St.invalidField)) ∧
        (c.plot = 0 → p < 1024 → (m.plot p).st ≠ .resetting →
          (p = 0 ∨ (len ≠ 0 ∧ len ≠ 16) → exec (.plotFreeze stamp at_) s = acts (n.failWith stamp St.invalidField)) ∧
          (p ≠ 0 → len = 0 ∨ len = 16 → (n.plot p).st ≠ .ready →
            exec (.plotFreeze stamp at_) s = acts (n.failWith stamp St.plotConflict)) ∧
          (p ≠ 0 → len = 0 ∨ len = 16 → (n.plot p).st = .ready →
            let k := (n.setStage stamp .media).updPlot p fun x =>
              { x with st := .freezing, freezeCmd := stamp, freezeAt := n.clk.now, frzDone := 0, frzSquash := 0 }
            (len = 16 → (leAt c.sqe.data 0 1).testBit 0 = true → exec (.plotFreeze stamp at_) s = acts (k.freezeSquash p)) ∧
            (¬(len = 16 ∧ (leAt c.sqe.data 0 1).testBit 0 = true) → exec (.plotFreeze stamp at_) s = acts k))))) ∧
  (∀ (s : State) (plot at_ : Nat),
      let m := s.m.advance at_
      let posted := m.front.inflight.all (fun c => c.plot != plot || c.stage == .held) = true ∧ m.unitsFlushed (m.attachedTo plot) = true ∧
        m.front.cqs.all (fun e => decide (e.1 / 1024 ≠ plot) || e.2.hasRoom) = true
      ((m.plot plot).st = .freezing → (m.plot plot).freezeAt + 10 * Config.edgesPerMs ≤ m.clk.now →
        exec (.freezeBoundExpiry plot at_) s = .next (s.withM (m.freezeSquash plot))) ∧
      ((m.plot plot).st ≠ .freezing ∨ m.clk.now < (m.plot plot).freezeAt + 10 * Config.edgesPerMs →
        exec (.freezeBoundExpiry plot at_) s = .next (s.withM m)) ∧
      ((m.plot plot).st = .freezing → posted →
        let d := ((m.dumpOpen (m.attachedTo plot)).updPlot plot fun x =>
            { x with st := .frozen, after := .frozen, freezeCmd := 0, acc := { x.acc with frozen := true } }).finish
          (m.plot plot).freezeCmd Status.ok (BitVec.ofNat 32 (2 ^ 16 * sat 16 (m.plot plot).frzDone + sat 16 (m.plot plot).frzSquash))
        exec (.freezeDone plot at_) s = .next (s.withM
          (d.record 0x0908 ((d.clk.now - (m.plot plot).freezeAt) / Config.edgesPerMs) 0))) ∧
      ((m.plot plot).st ≠ .freezing ∨ ¬posted → exec (.freezeDone plot at_) s = .next (s.withM m))) ∧
  (∀ (s : State) (stamp : Nat) (c : Cmd),
      let n := s.m.dropTasks stamp
      let p := c.sqe.target
      let waits := c.plot = 0 ∧ p < 1024 ∧ (s.m.plot p).st = .resetting
      let len := c.sqe.cdw11.toNat
      let slot := Word.bits c.sqe.cdw12 2 0
      let key := Tbl.get 0 slot n.plots.migKeys
      let into := leAt c.sqe.data 0 1
      let acts := fun (x : Mach) => Host.Outcome.next (s.withM (x.actsOnce stamp))
      let bad := Host.Outcome.next (s.withM (if c.sqe.buf = .malformed then n.plotError c.plot 2 else n.failWith stamp St.badSglSegment))
      s.m.cmd? stamp = some c → s.m.adminCmd stamp = some c → s.m.adminTurn c = true →
      (waits →
        (c.sqe.opc = 0xC2 → exec (.plotSave stamp) s = .next s) ∧
        (c.sqe.opc = 0xC3 → Word.bits c.sqe.cdw12 7 0 ≠ 1 → exec (.plotRestore stamp) s = .next s) ∧
        (c.sqe.opc = 0xC4 → exec (.plotThaw stamp) s = .next s)) ∧
      (c.sqe.buf = .malformed ∨ c.sqe.buf = .sglUnsupported →
        (¬waits → c.sqe.opc = 0xC2 → exec (.plotSave stamp) s = bad) ∧
        (¬waits → c.sqe.opc = 0xC3 → Word.bits c.sqe.cdw12 7 0 ≠ 1 → exec (.plotRestore stamp) s = bad) ∧
        (c.sqe.opc = 0xC3 → Word.bits c.sqe.cdw12 7 0 = 1 → exec (.installMigrationKey stamp) s = bad)) ∧
      (c.sqe.buf = .prp ∨ c.sqe.buf = .sgl →
        (c.plot ≠ 0 →
          (c.sqe.opc = 0xC2 → exec (.plotSave stamp) s = acts (n.failWith c.stamp St.invalidOpcode)) ∧
          (c.sqe.opc = 0xC3 → Word.bits c.sqe.cdw12 7 0 ≠ 1 → exec (.plotRestore stamp) s = acts (n.failWith c.stamp St.invalidOpcode)) ∧
          (c.sqe.opc = 0xC3 → Word.bits c.sqe.cdw12 7 0 = 1 →
            exec (.installMigrationKey stamp) s = acts (n.failWith c.stamp St.invalidOpcode))) ∧
        (c.plot = 0 → 1024 ≤ p →
          (c.sqe.opc = 0xC2 → exec (.plotSave stamp) s = acts (n.failWith c.stamp St.invalidField)) ∧
          (c.sqe.opc = 0xC3 → Word.bits c.sqe.cdw12 7 0 ≠ 1 → exec (.plotRestore stamp) s = acts (n.failWith c.stamp St.invalidField))) ∧
        (c.plot = 0 → p < 1024 → ¬waits → c.sqe.opc = 0xC2 →
          (len < 131072 → exec (.plotSave stamp) s = acts (n.failWith stamp St.invalidField)) ∧
          (131072 ≤ len → (n.plot p).st ≠ .frozen ∨ (n.plot p).key = 0 →
            exec (.plotSave stamp) s = acts (n.failWith stamp St.plotConflict)) ∧
          (131072 ≤ len → (n.plot p).st = .frozen → (n.plot p).key ≠ 0 → key = 0 →
            exec (.plotSave stamp) s = acts (n.failWith stamp St.keyAbsent)) ∧
          (131072 ≤ len → (n.plot p).st = .frozen → (n.plot p).key ≠ 0 → key ≠ 0 →
            let k := (n.plot p).saveSeq + 1
            let x := n.updPlot p fun x => { x with saveSeq := k }
            exec (.plotSave stamp) s = acts
              (((x.updCmd stamp fun r => { r with outData := x.recordBody p slot k ++ recordTagOf (x.recordBody p slot k) key }).finish stamp
                Status.ok 288784).record 0x0909 p 0))) ∧
        (c.plot = 0 → p < 1024 → ¬waits → c.sqe.opc = 0xC3 → Word.bits c.sqe.cdw12 7 0 ≠ 1 →
          (Word.bits c.sqe.cdw12 7 0 ≠ 0 ∨ len = 0 ∨ 131072 < len → exec (.plotRestore stamp) s = acts (n.failWith stamp St.invalidField)) ∧
          (¬(Word.bits c.sqe.cdw12 7 0 ≠ 0 ∨ len = 0 ∨ 131072 < len) →
            (n.restoreCheck p c.sqe.data (4 * len) = none → exec (.plotRestore stamp) s = acts
              (((n.applyRecord p c.sqe.data).succeed stamp).record 0x090A (b2n (!decide (((c.sqe.data.drop 16).take 16) = n.identity))) 0)) ∧
            (∀ k st, n.restoreCheck p c.sqe.data (4 * len) = some (k, st) →
              exec (.plotRestore stamp) s = acts ((n.failWith stamp st).record 0x090B k 0)))) ∧
        (c.plot = 0 → c.sqe.opc = 0xC3 → Word.bits c.sqe.cdw12 7 0 = 1 →
          (c.sqe.cdw11 ≠ 16 ∨ 8 ≤ into → exec (.installMigrationKey stamp) s = acts (n.failWith stamp St.invalidField)) ∧
          (c.sqe.cdw11 = 16 → into < 8 → exec (.installMigrationKey stamp) s = acts
            (((n.onPlots fun x => { x with migKeys := Tbl.put 0 into (leAt c.sqe.data 32 32) x.migKeys }).saveHub 0x12).succeed stamp)))) ∧
      (c.sqe.opc = 0xC4 →
        (c.plot ≠ 0 → exec (.plotThaw stamp) s = acts (n.failWith c.stamp St.invalidOpcode)) ∧
        (c.plot = 0 → 1024 ≤ p → exec (.plotThaw stamp) s = acts (n.failWith c.stamp St.invalidField)) ∧
        (c.plot = 0 → p < 1024 → ¬waits →
          ((n.plot p).st ≠ .frozen → exec (.plotThaw stamp) s = acts (n.failWith stamp St.plotConflict)) ∧
          ((n.plot p).st = .frozen → exec (.plotThaw stamp) s = acts
            ((n.updPlot p fun x => { x with st := .ready, after := .ready }).succeed stamp)))))

/-- Plot resets and functions (09 R418, R433 to R436). -/
def Obligations.PlotResetCommandsComplete : Prop :=
  (∀ (s : State) (port plot at_ : Nat),
      let m := s.m.advance at_
      (m.awake = false ∨ m.plotPort plot ≠ port → exec (.plotReset port plot at_) s = .next (s.withM m)) ∧
      (m.awake = true → m.plotPort plot = port →
        let cmds := m.front.inflight.filter (fun c => c.plot == 0 && c.sq == 0 && c.stage == .fetched && c.sqe.opc == 0xC5 && c.sqe.target == plot &&
          !m.heldByActivation c && m.adminTurn c)
        let bad := cmds.filter (fun c => c.sqe.cdw11 != 0 || decide (plot = 0) || decide (1024 ≤ plot))
        let good := cmds.filter (fun c => !bad.contains c)
        let n := bad.foldl (fun m c => m.failWith c.stamp St.invalidField) (cmds.foldl (fun m c => m.dropTasks c.stamp) m)
        let joined := (good.foldl (fun m c => m.setStage c.stamp .media) n).updPlot plot fun x =>
          { x with resetCmds := x.resetCmds ++ good.map (fun c => c.stamp) }
        (plot = 0 ∨ 1024 ≤ plot ∨ (cmds ≠ [] ∧ good = []) → exec (.plotReset port plot at_) s = .next (s.withM n)) ∧
        (1 ≤ plot → plot < 1024 → cmds = [] ∨ good ≠ [] →
          ((n.plot plot).st = .absent → exec (.plotReset port plot at_) s = .next (s.withM
            (good.foldl (fun m c => m.failWith c.stamp St.plotConflict) n))) ∧
          ((n.plot plot).st = .resetting → exec (.plotReset port plot at_) s = .next (s.withM joined)) ∧
          ((n.plot plot).st = .ready ∨ (n.plot plot).st = .error →
            exec (.plotReset port plot at_) s = .next (s.withM (joined.startPlotReset plot .ready))) ∧
          ((n.plot plot).st = .frozen ∨ (n.plot plot).st = .freezing →
            exec (.plotReset port plot at_) s = .next (s.withM (joined.startPlotReset plot (n.plot plot).st)))))) ∧
  (∀ (s : State) (plot at_ : Nat),
      let m := s.m.advance at_
      ((m.plot plot).st = .resetting → m.plotBusy plot = true → (m.plot plot).resetAt + 40 * Config.edgesPerMs ≤ m.clk.now →
        exec (.plotResetHostTimeout plot at_) s = .next (s.withM ((m.dropTransfers plot).record 0x0902 plot 0))) ∧
      ((m.plot plot).st ≠ .resetting ∨ m.clk.now < (m.plot plot).resetAt + 40 * Config.edgesPerMs ∨ m.plotBusy plot = false →
        exec (.plotResetHostTimeout plot at_) s = .next (s.withM m)) ∧
      ((m.plot plot).st = .resetting → m.plotBusy plot = false →
        exec (.plotResetDone plot at_) s = .next (s.withM (m.endPlotReset plot))) ∧
      ((m.plot plot).st = .resetting → m.plotBusy plot = true → (m.plot plot).resetAt + 50 * Config.edgesPerMs ≤ m.clk.now →
        exec (.plotResetDone plot at_) s = .next (s.withM ((m.dropTransfers plot).endPlotReset plot))) ∧
      ((m.plot plot).st ≠ .resetting ∨ (m.plotBusy plot = true ∧ m.clk.now < (m.plot plot).resetAt + 50 * Config.edgesPerMs) →
        exec (.plotResetDone plot at_) s = .next (s.withM m))) ∧
  (∀ (s : State) (at_ : Nat),
      let m := s.m.advance at_
      let n := ((m.plotsOn 0 (Tbl.get 0 0 m.plots.vfEn)).foldl (fun m p => m.makeAbsent p) m).onPlots fun x =>
        { x with vfEn := Tbl.put 0 0 0 x.vfEn }
      (m.awake = false → exec (.flrPlot0 at_) s = .next (s.withM m)) ∧
      (m.awake = true → (n.plot 0).st = .ready ∨ (n.plot 0).st = .error →
        exec (.flrPlot0 at_) s = .next (s.withM (n.startPlotReset 0 .ready))) ∧
      (m.awake = true → (n.plot 0).st = .frozen ∨ (n.plot 0).st = .freezing →
        exec (.flrPlot0 at_) s = .next (s.withM (n.startPlotReset 0 (n.plot 0).st))) ∧
      (m.awake = true → (n.plot 0).st = .absent ∨ (n.plot 0).st = .resetting → exec (.flrPlot0 at_) s = .next (s.withM n))) ∧
  (∀ (s : State) (port numVfs : Nat),
      let off := s.m.awake = false ∨ 2 ≤ port ∨ (port = 1 ∧ s.m.boot.straps.portMode = false) ∨ 1023 < numVfs
      let m := s.m.onPlots fun x => { x with vfEn := Tbl.put 0 port (Nat.max numVfs (Tbl.get 0 port x.vfEn)) x.vfEn }
      (off → exec (.vfEnableSet port numVfs) s = .next s) ∧
      (¬off → exec (.vfEnableSet port numVfs) s = .next (s.withM ((m.plotsOn port numVfs).foldl (fun m p =>
        if (m.plot p).st = .absent then m.updPlot p fun x => { x with st := .ready, after := .ready } else m) m)))) ∧
  (∀ (s : State) (port numVfs at_ : Nat),
      let m := s.m.advance at_
      let old := Tbl.get 0 port m.plots.vfEn
      (m.awake = false ∨ 2 ≤ port ∨ old ≤ numVfs → exec (.vfEnableClear port numVfs at_) s = .next (s.withM m)) ∧
      (m.awake = true → port < 2 → numVfs < old →
      exec (.vfEnableClear port numVfs at_) s = .next (s.withM
        ((((m.plotsOn port old).filter (fun p => decide (numVfs < p))).foldl (fun m p => m.makeAbsent p) m).onPlots fun x =>
          { x with vfEn := Tbl.put 0 port numVfs x.vfEn }))))

/-- Hitch ports (10 R455 to R460, R464, R480, R481, R492). The form of the frames that go out is 10 R459's. -/
def Obligations.HitchPortCommandsComplete : Prop :=
  (∀ (s : State) (port width : Nat),
      (s.m.ownPort port = false ∨ (s.m.hport port).st ≠ 1 → exec (.hitchTrainingDone port width) s = .next s) ∧
      (s.m.ownPort port = true → (s.m.hport port).st = 1 →
        (width = 8 ∨ width = 4 →
          let m := s.m.updHport port fun p => { p with st := 2, width := width, miss := 0, lastKa := s.m.clk.now }
          exec (.hitchTrainingDone port width) s = .next (s.withM
            (if m.hitch.role = 2 then m.sendBody 0x03 0 port 0 (memberBytes m.ownEntry) else m.segmentUp 0 port))) ∧
        (width ≠ 8 → width ≠ 4 →
          exec (.hitchTrainingDone port width) s = .next (s.withM
            (s.m.updHport port fun p => { p with width := 0, retryAt := s.m.clk.now + 100 * Config.edgesPerMs }))))) ∧
  (∀ (s : State) (port at_ : Nat),
      let m := s.m.advance at_
      let p := m.hport port
      let trained := p.st = 2 ∨ p.st = 3
      (m.ownPort port = false →
        exec (.hitchTrainingRetry port at_) s = .next (s.withM m) ∧ exec (.keepaliveSend port at_) s = .next (s.withM m) ∧
        exec (.keepalive port at_) s = .next (s.withM m) ∧ exec (.keepaliveMiss port at_) s = .next (s.withM m)) ∧
      (m.ownPort port = true →
        (p.st = 1 → p.retryAt ≤ m.clk.now → exec (.hitchTrainingRetry port at_) s = .next (s.withM
          (m.updHport port fun p => { p with retryAt := m.clk.now + 100 * Config.edgesPerMs }))) ∧
        (p.st ≠ 1 ∨ m.clk.now < p.retryAt → exec (.hitchTrainingRetry port at_) s = .next (s.withM m)) ∧
        (trained → p.sentAt + 10 * Config.edgesPerUs ≤ m.clk.now → exec (.keepaliveSend port at_) s = .next (s.withM
          ((m.sendBody 0x01 (m.neighbour m.hitch.pos port) port 0 []).updHport port fun p => { p with sentAt := m.clk.now }))) ∧
        (¬trained ∨ m.clk.now < p.sentAt + 10 * Config.edgesPerUs → exec (.keepaliveSend port at_) s = .next (s.withM m)) ∧
        (trained →
          let from_ := p.upSince.getD m.clk.now
          let n := m.updHport port fun p => { p with miss := 0, lastKa := m.clk.now, upSince := if p.st = 3 then some from_ else none }
          (p.st = 2 ∨ n.clk.now < from_ + Config.edgesPerMs → exec (.keepalive port at_) s = .next (s.withM n)) ∧
          (p.st = 3 → from_ + Config.edgesPerMs ≤ n.clk.now →
            let k := n.updHport port fun p => { p with st := 2, upSince := none }
            exec (.keepalive port at_) s = .next (s.withM (if k.hitch.role = 2 then k.sendBack 0x05 0 (le 4 port) else k.segmentUp 0 port)))) ∧
        (¬trained → exec (.keepalive port at_) s = .next (s.withM m)) ∧
        (trained → p.lastKa + 12 * Config.edgesPerUs ≤ m.clk.now →
          let n := m.updHport port fun p => { p with miss := Nat.min 3 (p.miss + 1), lastKa := m.clk.now, upSince := none }
          exec (.keepaliveMiss port at_) s = .next (s.withM (if p.st = 2 ∧ p.miss = 2 then n.neighbourLost port else n))) ∧
        (¬trained ∨ m.clk.now < p.lastKa + 12 * Config.edgesPerUs → exec (.keepaliveMiss port at_) s = .next (s.withM m)))) ∧
  (∀ (m : Mach) (port : Nat),
      let n := (m.updHport port fun p => { p with st := 3, losses := sat 8 (p.losses + 1), upSince := none }).record 0x0A00 port 0
      let sb := (m.hport port).sb
      m.neighbourLost port =
        if n.hitch.role = 2 then n.sendBody 0x04 0 (1 - port) 0 (le 4 (port + 256 * sb)) else n.segmentDown 0 port sb) ∧
  (∀ (s : State) (port pattern : Nat),
      let m := s.m.updHport port fun p => { p with sb := pattern }
      (s.m.ownPort port = false ∨ 3 ≤ pattern → exec (.sidebandChange port pattern) s = .next s) ∧
      (s.m.ownPort port = true → pattern < 3 → exec (.sidebandChange port pattern) s = .next (s.withM
        (if m.hitch.role = 1 ∧ (m.hport port).st = 3 ∧ pattern = 1 then m.settlePaths (m.neighbour 0 port) else m)))) ∧
  (∀ (s : State) (port type : Nat) (frame : List Byte),
      (s.m.ownPort port = false → exec (.hitchFrameCrcError port false) s = .next s ∧ exec (.hitchFrameRelay port frame) s = .next s ∧
        exec (.unknownFrameType port type) s = .next s) ∧
      (exec (.hitchFrameCrcError port true) s = .next s) ∧
      (s.m.ownPort port = true →
        exec (.hitchFrameCrcError port false) s = .next (s.withM
          ((s.m.updHport port fun p => { p with replays := p.replays + 1 }).record 0x0A09 port 0)) ∧
        (leAt frame 2 1 ≠ s.m.hitch.pos → exec (.hitchFrameRelay port frame) s = .next (s.withM
          (s.m.onHitch fun h => { h with sent := h.sent ++ [{ port := 1 - port, bytes := frame }] }))) ∧
        (leAt frame 2 1 = s.m.hitch.pos → exec (.hitchFrameRelay port frame) s = .next s) ∧
        (frameTypes.contains type = false →
          exec (.unknownFrameType port type) s = .next (s.withM (s.m.onHitch fun h => { h with unknown := h.unknown + 1 }))) ∧
        (frameTypes.contains type = true → exec (.unknownFrameType port type) s = .next s)))

/-- Rings (10 R461 to R465, R480 to R489; 04 R184, R216). -/
def Obligations.HitchRingCommandsComplete : Prop :=
  (∀ (s : State) (port manager : Nat) (entries : List MemberEntry),
      (s.m.ownPort port = false ∨ (s.m.hport port).st ≠ 2 → exec (.discover port manager entries) s = .next s) ∧
      (s.m.ownPort port = true → (s.m.hport port).st = 2 → s.m.hitch.role = 1 →
        (manager ≠ leAt s.m.identity 0 16 → exec (.discover port manager entries) s = .next (s.withM
          (((s.m.updHport port fun p => { p with st := 4 }).record 0x0A08 port 0).segmentDown 0 port 0))) ∧
        (manager = leAt s.m.identity 0 16 → port = 1 → s.m.hitch.discAt.isSome = true →
          exec (.discover port manager entries) s = .next (s.withM (s.m.ringClosed entries))) ∧
        (manager = leAt s.m.identity 0 16 → port ≠ 1 ∨ s.m.hitch.discAt.isSome = false → exec (.discover port manager entries) s = .next s)) ∧
      (s.m.ownPort port = true → (s.m.hport port).st = 2 → s.m.hitch.role ≠ 1 →
        ((s.m.hitch.admitted = true ∧ s.m.hitch.manager ≠ manager) ∨ entries.length = 0 → exec (.discover port manager entries) s = .next s) ∧
        (s.m.hitch.admitted = false ∨ s.m.hitch.manager = manager →
          (7 < entries.length → exec (.discover port manager entries) s = .next (s.withM
            (s.m.sendBody 0x02 0 (1 - port) 0 (entries.flatMap memberBytes)))) ∧
          (entries.length ≠ 0 → entries.length ≤ 7 →
            let m := s.m.onHitch fun h =>
              { h with pos := if port = 1 then entries.length else 8 - entries.length, admitted := true, manager := manager,
                       lastTime := s.m.clk.now, orphaned := false }
            let n := m.sendBody 0x02 0 (1 - port) 0 ((entries ++ [m.ownEntry]).flatMap memberBytes)
            exec (.discover port manager entries) s = .next (s.withM
              (if (n.hport (1 - port)).st ≠ 2 ∨ n.boot.recovery = true then n.sendAnnounce port else n)))))) ∧
  (∀ (s : State) (at_ : Nat),
      let m := s.m.advance at_
      (m.hitch.discAt = none → exec (.discoverTimeout at_) s = .next (s.withM m)) ∧
      (∀ t, m.hitch.discAt = some t →
        (t + Config.edgesPerMs ≤ m.clk.now →
          let n := m.sendBody 0x02 0 1 0 (memberBytes m.ownEntry)
          let k := n.onHitch fun h => { h with ring := 3, segDown := if h.segDown.isEmpty then [n.lastMember] else h.segDown }
          exec (.discoverTimeout at_) s = .next (s.withM (k.settlePaths 0).discoveryEnds)) ∧
        (m.clk.now < t + Config.edgesPerMs → exec (.discoverTimeout at_) s = .next (s.withM m)))) ∧
  (∀ (s : State) (port position : Nat) (e : MemberEntry),
      let refused := Host.Outcome.next (s.withM (s.m.record 0x0A07 (s.m.ringMembers.length + 1) 0))
      let n := s.m.updMember position fun x => { x with entry := e, running := e.version }
      (s.m.ownPort port = false ∨ s.m.hitch.role ≠ 1 ∨ s.m.hitch.ring < 2 → exec (.announce port position e) s = .next s) ∧
      (s.m.ownPort port = true → s.m.hitch.role = 1 → 2 ≤ s.m.hitch.ring →
        (position = 0 ∨ 7 < position → exec (.announce port position e) s = refused) ∧
        (1 ≤ position → position ≤ 7 →
          ((s.m.member position).st = 0 → exec (.announce port position e) s = .next (s.withM
            ((s.m.joinSegments position port).admitMember position e))) ∧
          ((s.m.member position).st ≠ 0 → (s.m.member position).entry.identity ≠ e.identity → exec (.announce port position e) s = refused) ∧
          ((s.m.member position).entry.identity = e.identity →
            ((s.m.member position).st = 1 → exec (.announce port position e) s = .next (s.withM
              ((n.updMember position fun x => { x with staged := if x.staged = some e.version then none else x.staged }).endTurn position))) ∧
            ((s.m.member position).st = 4 → exec (.announce port position e) s = .next (s.withM n)) ∧
            ((s.m.member position).st = 2 ∨ (s.m.member position).st = 3 → exec (.announce port position e) s = .next (s.withM
              ((n.joinSegments position port).tryReadmit position))))))) ∧
  (∀ (s : State) (source port at_ sideband : Nat),
      let m := s.m.advance at_
      let known := m.awake = true ∧ m.hitch.role = 1 ∧ port < 2 ∧ m.ringMembers.contains source = true
      (known → exec (.linkDown source port sideband at_) s = .next (s.withM (m.segmentDown source port sideband)) ∧
        exec (.linkUp source port at_) s = .next (s.withM (m.segmentUp source port))) ∧
      (¬known → exec (.linkDown source port sideband at_) s = .next (s.withM m) ∧ exec (.linkUp source port at_) s = .next (s.withM m))) ∧
  (∀ (s : State) (n at_ : Nat),
      let m := s.m.advance at_
      let due := m.hitch.role = 1 ∧ ((m.member n).st = 2 ∨ (m.member n).st = 3) ∧ m.canReach n = true ∧
        (m.member n).lostAt + 20 * Config.edgesPerMs ≤ m.clk.now
      (due → exec (.readmitTimer n at_) s = .next (s.withM (m.readmit n))) ∧
      (¬due → exec (.readmitTimer n at_) s = .next (s.withM m)) ∧
      ((m.member n).isoAt + 10 * Config.edgesPerMs ≤ m.clk.now →
        exec (.isolateWaitExpiry n at_) s = .next (s.withM (m.endIsolate n))) ∧
      (m.clk.now < (m.member n).isoAt + 10 * Config.edgesPerMs → exec (.isolateWaitExpiry n at_) s = .next (s.withM m))) ∧
  (∀ (s : State) (stamp at_ : Nat) (c : Cmd),
      let m := s.m.advance at_
      let n := m.dropTasks stamp
      let k := hcPos c.sqe
      let a := hcAction c.sqe
      let acts := fun (x : Mach) => Host.Outcome.next (s.withM (x.actsOnce stamp))
      let all := fun (x : Host.Outcome State Fault Refusal) =>
        (a = 0 ∨ 4 ≤ a → m.hitch.discAt.isSome = false → exec (.hitchRediscover stamp at_) s = x) ∧
        (a = 1 → exec (.hitchIsolate stamp at_) s = x) ∧ (a = 2 → exec (.hitchReadmit stamp at_) s = x)
      m.adminCmd stamp = some c → m.adminTurn c = true → c.sqe.opc = 0xC8 →
      (m.hitch.discAt.isSome = true → exec (.hitchRediscover stamp at_) s = .next (s.withM m)) ∧
      (c.plot ≠ 0 → all (acts (n.failWith stamp St.invalidOpcode))) ∧
      (c.plot = 0 → n.hitch.role ≠ 1 → all (acts (n.failWith stamp St.hitchRole))) ∧
      (c.plot = 0 → n.hitch.role = 1 →
        (m.hitch.discAt.isSome = false →
          (4 ≤ a → exec (.hitchRediscover stamp at_) s = acts (n.failWith stamp St.invalidField)) ∧
          (a = 0 → exec (.hitchRediscover stamp at_) s = acts ((n.setStage stamp .media).startDiscovery stamp))) ∧
        (a = 1 →
          (k = 0 → exec (.hitchIsolate stamp at_) s = acts (n.failWith stamp St.invalidField)) ∧
          (k ≠ 0 → (n.member k).st = 0 → exec (.hitchIsolate stamp at_) s = acts (n.failWith stamp St.hitchAbsent)) ∧
          (k ≠ 0 → (n.member k).st = 4 → exec (.hitchIsolate stamp at_) s = acts (n.finish stamp Status.ok n.upBits)) ∧
          (k ≠ 0 → (n.member k).st = 1 → exec (.hitchIsolate stamp at_) s = acts
            (((n.updMember k fun x => { x with st := 4, isoCmd := stamp, isoAt := n.clk.now }).setStage stamp .media).tryIsolate k)) ∧
          (k ≠ 0 → (n.member k).st = 2 ∨ (n.member k).st = 3 →
            let x := n.updMember k fun x => { x with st := 4, gen := x.gen + 1 }
            exec (.hitchIsolate stamp at_) s = acts ((x.hubInt 11).finish stamp Status.ok x.upBits))) ∧
        (a = 2 →
          (k = 0 → exec (.hitchReadmit stamp at_) s = acts (n.failWith stamp St.invalidField)) ∧
          (k ≠ 0 → (n.member k).st = 0 → exec (.hitchReadmit stamp at_) s = acts (n.failWith stamp St.hitchAbsent)) ∧
          (k ≠ 0 → (n.member k).st ≠ 0 →
            let x := if (n.member k).st = 1 ∨ (n.member k).isoCmd ≠ 0 then n
              else if n.canReach k = true then n.readmit k
              else if (n.member k).st = 4 then n.updMember k fun x => { x with st := 2, lostAt := n.clk.now } else n
            exec (.hitchReadmit stamp at_) s = acts (x.finish stamp Status.ok x.upBits))))) ∧
  (∀ (s : State) (stamp : Nat), s.m.hitch.passCmd ≠ 0 → exec (.hitchPassAlong stamp) s = .next s) ∧
  (∀ (s : State) (stamp : Nat) (c : Cmd), s.m.adminCmd stamp = some c → s.m.adminTurn c = true → c.sqe.opc = 0xC8 → hcAction c.sqe = 3 →
      s.m.hitch.passCmd = 0 →
      let n := s.m.dropTasks stamp
      let k := hcPos c.sqe
      let acts := fun (x : Mach) => Host.Outcome.next (s.withM (x.actsOnce stamp))
      (c.plot ≠ 0 → exec (.hitchPassAlong stamp) s = acts (n.failWith stamp St.invalidOpcode)) ∧
      (c.plot = 0 → n.hitch.role ≠ 1 → exec (.hitchPassAlong stamp) s = acts (n.failWith stamp St.hitchRole)) ∧
      (c.plot = 0 → n.hitch.role = 1 → k ≠ 0 → (n.member k).st ≠ 1 → exec (.hitchPassAlong stamp) s = acts (n.failWith stamp St.hitchAbsent)) ∧
      (c.plot = 0 → n.hitch.role = 1 → k = 0 ∨ (n.member k).st = 1 →
        (n.img.hdr = none → exec (.hitchPassAlong stamp) s = acts (n.failWith stamp St.invalidImage)) ∧
        (∀ h, n.img.hdr = some h →
          let named := if k = 0 then n.membersUp else [k]
          let sent := ([0, 1].filter fun p => named.any fun j => n.pathPort j == p).foldl (fun m p =>
            (m.sendBody 0x20 0 p 0 (m.img.staged.take 4096)).sendBody 0x21 0 p 0 (m.img.staged.drop 4096)) n
          exec (.hitchPassAlong stamp) s = acts
            ((sent.onHitch fun x => { x with passCmd := stamp, passWait := named, passBad := false }).setStage stamp .media).passEnds)))

/-- The manager's side of frames (10 R470 to R488). The logical block of an Append and the form of an unwritten block are notes/assumptions/140. -/
def Obligations.HitchManagerFramesComplete : Prop :=
  (∀ (s : State) (source gen tag : Nat), s.m.fwdOf source gen tag = none →
      (∀ off len, exec (.dataReq source gen tag off len) s = .next s) ∧
      (∀ off bs crcs, exec (.dataR source gen tag off bs crcs) s = .next s) ∧
      (∀ d0 d1 sct sc dnr, exec (.cpl source gen tag d0 d1 sct sc dnr) s = .next s) ∧
      (∀ caught, exec (.cancelReply source gen tag caught) s = .next s)) ∧
  (∀ (s : State) (source gen tag : Nat) (f : Fwd), s.m.fwdOf source gen tag = some f → s.m.cmd? tag = none →
      (∀ off len, exec (.dataReq source gen tag off len) s = .next s) ∧ (∀ off bs crcs, exec (.dataR source gen tag off bs crcs) s = .next s)) ∧
  (∀ (s : State) (source gen tag : Nat) (f : Fwd) (c : Cmd), s.m.fwdOf source gen tag = some f → s.m.cmd? tag = some c →
      (∀ off len, (s.m.member source).hold = true → exec (.dataReq source gen tag off len) s = .next s) ∧
      (∀ off len, (s.m.member source).hold = false → exec (.dataReq source gen tag off len) s = .next (s.withM
        ((List.range (ceilDiv len 4096)).foldl (fun m i =>
          let k := off / 4096 + i
          let d := if c.sqe.hostData then m.outBlock c k else ([], (c.sqe.data.drop (4096 * k)).take 4096)
          m.sendPart 0x11 (if i + 1 = ceilDiv len 4096 then 1 else 0) source (m.pathPort source) tag (4096 * k) d.1 d.2) s.m))) ∧
      (∀ off bs crcs, off ≠ f.rdBytes → exec (.dataR source gen tag off bs crcs) s = .next s) ∧
      (∀ bs crcs,
        let plain := s.m.inBlocks c f.rdBytes bs crcs
        let n := (s.m.hubInt 14).record 0x0803 c.plot 0
        (plain.all (fun b => b.isSome) = true → exec (.dataR source gen tag f.rdBytes bs crcs) s = .next (s.withM
          ((s.m.updFwd tag fun k => { k with rdBytes := k.rdBytes + 4096 * bs.length }).updCmd tag fun k =>
            if c.movesBlocks then { k with outBlocks := k.outBlocks ++ plain.filterMap id }
            else if c.checksBlocks then k
            else { k with outData := (k.outData ++ bs.flatMap blockBytes).take k.sqe.bufLen }))) ∧
        (plain.all (fun b => b.isSome) = false → c.resensed = true → exec (.dataR source gen tag f.rdBytes bs crcs) s = .next (s.withM
          (((n.record 0x0609 c.plot 0).failWith tag St.unrecovered).dropFwd f))) ∧
        (plain.all (fun b => b.isSome) = false → c.resensed = false → exec (.dataR source gen tag f.rdBytes bs crcs) s = .next (s.withM
          (((n.updFwd tag fun k => { k with rdBytes := 0 }).updCmd tag fun k =>
            { k with resensed := true, outBlocks := [], outData := [] }).sendCmd tag source true))))) ∧
  (∀ (m : Mach) (c : Cmd) (offset : Nat) (bs : List Block) (crcs : List Word), c.checksBlocks = true → m.inBlocks c offset bs crcs =
      bs.mapIdx fun i b => m.inBlock c (offset / 4096 + i) b (((crcs.drop (4 * i)).take 4).map fun w => w.toNat)) ∧
  (∀ (m : Mach) (c : Cmd) (k : Nat) (b : Block) (crcs : List Nat),
      let p := aesXts true (m.keyBytes (m.plot c.plot).key) (tweakOf (c.sqe.slba + k) c.sqe.nsid.toNat) (blockBytes b)
      (b ≠ 0 → grainCrcs p = crcs → m.inBlock c k b crcs = some (blockOf p)) ∧ (b ≠ 0 → grainCrcs p ≠ crcs → m.inBlock c k b crcs = none)) ∧
  (∀ (s : State) (source gen tag : Nat) (f : Fwd) (d0 d1 : Word) (sct sc : Nat) (dnr : Bool), s.m.fwdOf source gen tag = some f →
      let st : Status := { sct := sct, sc := sc, dnr := dnr }
      let short := st = Status.ok ∧ ∃ c, s.m.cmd? tag = some c ∧ c.checksBlocks = true ∧ f.rdBytes < 4096 * c.sqe.nlb
      let m := (s.m.answerAborts tag false).dropFwd f
      let after := fun (x : Mach) =>
        let n := x.sendBody 0x16 source (x.pathPort source) 0 (le 8 tag)
        Host.Outcome.next (s.withM (if (n.member source).isoCmd ≠ 0 then n.tryIsolate source else n))
      (short → exec (.cpl source gen tag d0 d1 sct sc dnr) s = .next s) ∧
      (s.m.cmd? tag = none → exec (.cpl source gen tag d0 d1 sct sc dnr) s = after m) ∧
      (∀ c, s.m.cmd? tag = some c → ¬short →
        let n := m.updCmd tag fun k => { k with dw1 := d1, committed := true }
        (st = Status.ok → exec (.cpl source gen tag d0 d1 sct sc dnr) s =
          after ((n.finish tag st (memberDw0 c source d0)).memberDone c source)) ∧
        (st ≠ Status.ok → exec (.cpl source gen tag d0 d1 sct sc dnr) s = after (n.finish tag st d0)))) ∧
  (∀ (s : State) (source gen tag : Nat) (f : Fwd), s.m.fwdOf source gen tag = some f →
      let m := (s.m.answerAborts tag true).dropFwd f
      let after := fun (x : Mach) => Host.Outcome.next (s.withM (if (x.member source).isoCmd ≠ 0 then x.tryIsolate source else x))
      (m.cmd? tag = none → exec (.cancelReply source gen tag true) s = after m) ∧
      (∀ c, m.cmd? tag = some c → exec (.cancelReply source gen tag true) s = after
        (m.failWith tag (if c.caught then c.status else St.abortRequested))) ∧
      (exec (.cancelReply source gen tag false) s = .next (s.withM
        ((s.m.answerAborts tag false).updCmd tag fun k => { k with caught := false, status := Status.ok })))) ∧
  (∀ (s : State) (source gen : Nat) (tags : List (Nat × Nat × Nat)),
      let held := s.m.hitch.role = 1 ∧ (s.m.member source).gen = gen ∧ (s.m.member source).hold = true
      let m := (s.m.updMember source fun x => { x with hold := false }).record 0x0A02 tags.length 0
      (¬held → exec (.resyncReply source gen tags) s = .next s) ∧
      (held → exec (.resyncReply source gen tags) s = .next (s.withM
        (((m.fwdsOf source).filter fun f => match tags.find? (fun t => t.1 == f.stamp) with
          | some t => t.2.1 == 0
          | none => true).foldl (fun m f => m.sendCmd f.stamp source false) m)))) ∧
  (∀ (s : State) (source : Nat),
      let left := s.m.hitch.passWait.filter fun k => k != source
      (s.m.hitch.role ≠ 1 ∨ s.m.hitch.passWait.contains source = false → ∀ r, exec (.imgSts source r) s = .next s) ∧
      (s.m.hitch.role = 1 → s.m.hitch.passWait.contains source = true →
        exec (.imgSts source 0) s = .next (s.withM
          (((s.m.updMember source fun x => { x with staged := s.m.img.hdr.map (fun h => h.version) }).onHitch fun h =>
            { h with passWait := left }).passEnds)) ∧
        exec (.imgSts source 1) s = .next (s.withM
          (((s.m.record 0x0A0A 1 0).onHitch fun h =>
            { h with passWait := left.filter (fun k => !s.m.beyond source k), passBad := true }).passEnds)) ∧
        (∀ r, 2 ≤ r → exec (.imgSts source r) s = .next (s.withM
          (((s.m.record 0x0A0A r 0).onHitch fun h => { h with passWait := left, passBad := true }).passEnds))))) ∧
  (∀ (s : State) (source offset : Nat) (v : Word),
      let a := 0x0C000000 + (source - 1) * 0x00800000 + offset
      let waited := s.m.hitch.role = 1 ∧ source ≠ 0 ∧ s.m.hitch.regPend.contains a = true
      (waited → exec (.regData source offset v) s = .next (s.withM
        ((s.m.onHitch fun h => { h with regPend := h.regPend.erase a }).readReturns v))) ∧
      (¬waited → exec (.regData source offset v) s = .next s)) ∧
  (∀ (s : State) (source minute : Nat) (entries : List (Nat × TallyEntry)),
      let waited := s.m.hitch.role = 1 ∧ s.m.plots.missing.contains (source, minute) = true
      (waited → exec (.tally source minute entries) s = .next (s.withM
        ((entries.foldl (fun m e =>
          let t := { e.2 with minute := minute }
          if e.1 = 0xFFFF then m.onPlots fun p => { p with totals := joinTally t p.totals }
          else if e.1 < 1024 then m.updPlot e.1 fun x => { x with ring := joinTally t x.ring } else m) s.m).onPlots fun p =>
            { p with missing := p.missing.erase (source, minute) }))) ∧
      (¬waited → exec (.tally source minute entries) s = .next s))

/-- The worker's side of frames (10 R469 to R489; 13 R585, R586). -/
def Obligations.HitchWorkerFramesComplete : Prop :=
  (∀ (s : State) (gen tag plot at_ : Nat) (admin resense : Bool) (e : Sqe),
      let m := s.m.advance at_
      let c := workerCmd tag plot m.clk.now admin resense e
      let r : Recv := { tag := tag, st := 1, gen := gen, plot := plot, wrBytes := 0, rdFrom := 0, status := Status.ok, dw0 := 0, dw1 := 0, out := [], crcs := [] }
      (m.isWorker = false ∨ m.inService = false → exec (.cmd gen tag plot admin resense e at_) s = .next (s.withM m)) ∧
      (m.isWorker = true → m.inService = true → tag = 0 → exec (.cmd gen tag plot admin resense e at_) s = .next ((s.withM m).takeCopy e)) ∧
      (m.isWorker = true → m.inService = true → tag ≠ 0 →
        (m.recv? tag = none → exec (.cmd gen tag plot admin resense e at_) s = .next (s.withM
          (((m.onHitch fun h => { h with recv := h.recv ++ [r] }).onFront fun f =>
            { f with nextStamp := Nat.max f.nextStamp (tag + 1) }).launch c))) ∧
        (∀ k, m.recv? tag = some k → resense = true → k.st ≠ 3 → exec (.cmd gen tag plot admin resense e at_) s = .next (s.withM
          (((m.squash tag none).updRecv tag fun _ => r).launch c))) ∧
        (∀ k, m.recv? tag = some k → resense = false ∨ k.st = 3 → exec (.cmd gen tag plot admin resense e at_) s = .next (s.withM m)))) ∧
  (∀ (s : State) (gen tag off : Nat) (blocks : List Block) (crcs : List Word),
      (s.m.recv? tag = none → exec (.dataW gen tag off blocks crcs) s = .next s) ∧
      (∀ r, s.m.recv? tag = some r →
        let follows := s.m.isWorker = true ∧ r.st = 1 ∧ r.gen = gen ∧ r.wrBytes = off
        (follows → exec (.dataW gen tag off blocks crcs) s = .next (s.withM
          ((s.m.updRecv tag fun k => { k with wrBytes := k.wrBytes + 4096 * blocks.length }).updCmd tag fun k =>
            { k with sqe := { k.sqe with blocks := k.sqe.blocks ++ blocks }, crcs := k.crcs ++ crcs.map fun w => w.toNat }))) ∧
        (¬follows → exec (.dataW gen tag off blocks crcs) s = .next s))) ∧
  (∀ (s : State) (gen tag reason : Nat),
      let answer := fun (x : Mach) (v : Nat) => Host.Outcome.next (s.withM (x.sendBack 0x15 tag (le 1 v)))
      (s.m.isWorker = false → exec (.cancel gen tag reason) s = .next s) ∧
      (s.m.isWorker = true →
        (s.m.recv? tag = none → exec (.cancel gen tag reason) s = answer s.m 1) ∧
        (∀ r, s.m.recv? tag = some r →
          (r.gen ≠ gen → exec (.cancel gen tag reason) s = .next s) ∧
          (r.gen = gen → s.m.cmd? tag = none → exec (.cancel gen tag reason) s = answer s.m (if r.st = 3 then 0 else 1)) ∧
          (∀ c, r.gen = gen → s.m.cmd? tag = some c →
            let catches := r.st = 1 ∧ c.committed = false ∧ c.stage ≠ .done ∧ (reason ≠ 0 ∨ neverCaught c = false)
            (catches → exec (.cancel gen tag reason) s = answer ((s.m.squash tag none).updRecv tag fun k => { k with st := 3 }) 0) ∧
            (¬catches → exec (.cancel gen tag reason) s = answer s.m 1))))) ∧
  (∀ (s : State) (tags : List Nat) (pairs : List (Nat × Nat)) (reason : Nat),
      (s.m.isWorker = false → exec (.ack tags) s = .next s ∧ exec (.resync pairs) s = .next s ∧ exec (.orphan reason) s = .next s) ∧
      (s.m.isWorker = true →
        exec (.ack tags) s = .next (s.withM (s.m.onHitch fun h => { h with recv := h.recv.filter fun r => !(r.st == 2 && tags.contains r.tag) })) ∧
        exec (.resync pairs) s = .next (s.withM
          (pairs.foldl (fun m t => m.resyncTag t.1 t.2) (s.m.sendBack 0x08 0 (pairs.flatMap fun t => s.m.resyncState t.1)))) ∧
        exec (.orphan reason) s = .next (s.withM s.m.orphaned))) ∧
  (∀ (m : Mach) (tag read : Nat),
      (m.recv? tag = none → m.resyncTag tag read = m) ∧
      (∀ r, m.recv? tag = some r →
        let n := m.updRecv tag fun k => { k with rdFrom := read }
        (r.st = 2 → m.resyncTag tag read = n.sendResult tag) ∧
        (r.st = 3 → m.resyncTag tag read = n.sendBack 0x15 tag (le 1 0)) ∧
        (∀ c, r.st ≠ 2 → r.st ≠ 3 → n.cmd? tag = some c → c.stage = .data → c.sqe.hostData = true →
          m.resyncTag tag read = n.sendBack 0x17 tag (le 4 r.wrBytes ++ le 4 (c.bytes - r.wrBytes))))) ∧
  (∀ (s : State) (at_ : Nat),
      let m := s.m.advance at_
      (m.isWorker = true → m.hitch.orphaned = false → m.hitch.lastTime + 10 * Config.edgesPerMs ≤ m.clk.now →
        exec (.timeLossTimeout at_) s = .next (s.withM m.orphaned)) ∧
      (m.isWorker = false ∨ m.hitch.orphaned = true ∨ m.clk.now < m.hitch.lastTime + 10 * Config.edgesPerMs →
        exec (.timeLossTimeout at_) s = .next (s.withM m)) ∧
      (∀ gridNs pass latency locked,
        (m.isWorker = false → exec (.time gridNs pass latency locked at_) s = .next (s.withM m)) ∧
        (m.isWorker = true → exec (.time gridNs pass latency locked at_) s = .next (s.withM
          ((m.onHitch fun h => { h with lastTime := m.clk.now, mgrLocked := locked, orphaned := false }).dialogueOk
            ((gridNs : Int) + latency - m.gridNs) ((gridNs : Int) + latency)))))) ∧
  (∀ (s : State) (port : Nat) (named : Bool) (bytes : List Byte),
      (s.m.ownPort port = false ∨ s.m.hitch.role ≠ 2 → exec (.imgHdr port named bytes) s = .next s ∧ exec (.imgBlk port named bytes) s = .next s) ∧
      (s.m.ownPort port = true → s.m.hitch.role = 2 →
        let k := s.m.headerCheck s.m.floorNow (ImageHdr.ofBytes bytes)
        exec (.imgHdr port false bytes) s = .next (s.withM (s.m.sendBody 0x20 0 (1 - port) 0 bytes)) ∧
        (s.m.stagingBusy 2 = true → exec (.imgHdr port true bytes) s = .next (s.withM (s.m.imgStatus 3))) ∧
        (s.m.stagingBusy 2 = false → k ≠ 0 → exec (.imgHdr port true bytes) s = .next (s.withM ((s.m.refuseImage k).imgStatus 1))) ∧
        (s.m.stagingBusy 2 = false → k = 0 → exec (.imgHdr port true bytes) s = .next (s.withM
          (((s.m.onImg Img.emptied).stageHeader 2 bytes).sendBody 0x20 0 (1 - port) 0 bytes))) ∧
        exec (.imgBlk port false bytes) s = .next (s.withM (s.m.sendBody 0x21 0 (1 - port) 0 bytes)) ∧
        (s.m.img.route ≠ 2 ∨ s.m.img.stage ≠ 1 → exec (.imgBlk port true bytes) s = .next s) ∧
        (s.m.img.route = 2 → s.m.img.stage = 1 →
          let r := s.m.stageBody bytes
          let n := r.2.sendBody 0x21 0 (1 - port) 0 bytes
          exec (.imgBlk port true bytes) s = .next (s.withM
            (if r.1 = false then n.imgStatus 2 else if n.img.stage = 2 then n.imgStatus 0 else n))))) ∧
  (∀ (s : State) (action : Nat),
      let k := 1 - s.m.img.running
      let mine := s.m.hitch.role = 2 ∧ s.m.awake = true ∧ s.m.committing = false
      (¬mine → exec (.imgCommit action) s = .next s) ∧
      (mine → s.m.boot.recovery = true → exec (.imgCommit action) s = .next (s.withM
        (if s.m.img.stage = 2 ∧ action ≠ 2 then s.m.startSlotWrite 0 0 2 else s.m))) ∧
      (mine → s.m.boot.recovery = false →
        (action = 2 → s.m.useStatus k = none → exec (.imgCommit action) s = .next (s.withM
          ((s.m.onImg fun i => { i with nextSlot := some k }).commitEnds 0 1))) ∧
        (action = 2 → s.m.useStatus k ≠ none → exec (.imgCommit action) s = .next (s.withM (s.m.commitEnds 0 2))) ∧
        (action ≠ 2 → s.m.img.stage ≠ 2 ∨ 3 < action → exec (.imgCommit action) s = .next (s.withM (s.m.commitEnds 0 2).reportVersion)) ∧
        (action ≠ 2 → s.m.img.stage = 2 → action ≤ 3 →
          let older := action = 1 ∧ s.m.notBelow k (match s.m.img.hdr with | some h => h.version | none => 0) = false
          (older → exec (.imgCommit action) s = .next (s.withM (s.m.commitEnds 0 2))) ∧
          (¬older → exec (.imgCommit action) s = .next (s.withM (s.m.startSlotWrite k 0 action)))))) ∧
  (∀ (s : State) (offset : Nat) (v : Word),
      (s.m.isWorker = false → exec (.regRd offset) s = .next s ∧ exec (.regWr offset v) s = .next s) ∧
      (s.m.isWorker = true →
        let o := offset / 4 * 4
        (o < 0x00400000 →
          let r := s.m.regRead s.cfg (placeOf (0x08000000 + o))
          exec (.regRd offset) s = .next (s.withM (r.2.sendBack 0x32 0 (le 4 o ++ le 4 r.1.toNat)))) ∧
        (0x00400000 ≤ o → exec (.regRd offset) s = .next (s.withM (s.m.sendBack 0x32 0 (le 4 o ++ le 4 0)))) ∧
        (offset < 0x00400000 → exec (.regWr offset v) s = .next (s.bar2Write (0x08000000 + o) v 15)) ∧
        (0x00400000 ≤ offset → exec (.regWr offset v) s = .next s)))

/-- The service port's reads (13 R580 to R583, 14 R615, 09 R441, R442). Which statuses answer requests out of range where the spec names none is the model's choice (notes/assumptions/73, 132); the bytes of a member's Yield Book are free (notes/assumptions/7). -/
def Obligations.PolezReadsComplete : Prop :=
  (∀ (s : State) (q n op : Nat) (bs : List Byte), s.m.polezUp = false →
      exec (.polezIdentify q) s = .next s ∧ exec (.polezReadSensors q) s = .next s ∧ exec (.polezReadYieldBook q bs) s = .next s ∧
      exec (.polezReadTally q bs) s = .next s ∧ exec (.polezPlotState q bs) s = .next s ∧ exec (.polezOpcodeNotSupported q op) s = .next s ∧
      exec (.polezFramingError n) s = .next s) ∧
  (∀ (s : State) (q : Nat), s.m.polezUp = true → s.m.polez.last ≠ some q →
      exec (.polezIdentify q) s = .next (s.withM
        ((s.m.respond q 0x01 0 s.m.polezIdentity).onPolez fun x => { x with alert2 := false, alert3 := false })) ∧
      (∀ op, polezOpcodes.contains op = false → exec (.polezOpcodeNotSupported q op) s = .next (s.withM
        (s.m.respond q op (if s.m.inService then 1 else 4) []))) ∧
      (∀ op, polezOpcodes.contains op = true → exec (.polezOpcodeNotSupported q op) s = .next s)) ∧
  (∀ (s : State) (n : Nat), s.m.polezUp = true → exec (.polezFramingError n) s = .next (s.withM
      ((s.m.onPolez fun x => { x with framing := x.framing + 1 }).record 0x0D0A n 0))) ∧
  (∀ (s : State) (q : Nat) (bs : List Byte), s.m.polezUp = true → s.m.inService = false → s.m.polez.last ≠ some q →
      exec (.polezReadSensors q) s = .next (s.withM (s.m.respond q 0x30 4 [])) ∧
      exec (.polezReadYieldBook q bs) s = .next (s.withM (s.m.respond q 0x20 4 [])) ∧
      exec (.polezReadTally q bs) s = .next (s.withM (s.m.respond q 0x21 4 [])) ∧
      exec (.polezPlotState q bs) s = .next (s.withM (s.m.respond q 0x40 4 []))) ∧
  (∀ (s : State) (q : Nat) (bs : List Byte), s.m.polezUp = true → s.m.inService = true → s.m.polez.last ≠ some q →
      exec (.polezReadSensors q) s = .next (s.withM (s.m.respond q 0x30 0 s.m.polezSensors)) ∧
      (bs.length ≠ 8 → exec (.polezReadYieldBook q bs) s = .next (s.withM (s.m.respond q 0x20 2 [])) ∧
        exec (.polezReadTally q bs) s = .next (s.withM (s.m.respond q 0x21 2 []))) ∧
      (bs.length = 8 →
        let r := ybkReq bs
        let items := if r.member = 0 then s.m.polezBook r else s.m.polezMember r
        (s.m.polezBookOk r = true → exec (.polezReadYieldBook q bs) s = .next (s.withM
          (s.m.respond q 0x20 0 (le 1 r.member ++ le 1 r.kind ++ le 2 r.first ++ le 2 items.1 ++ le 2 s.m.ybk.slots.length ++
            le 8 s.m.lifeSec ++ items.2)))) ∧
        (s.m.polezBookOk r = false → exec (.polezReadYieldBook q bs) s = .next (s.withM (s.m.respond q 0x20 2 [])))) ∧
      (bs.length = 8 →
        let p := leAt bs 0 2
        let first := leAt bs 4 2
        let n := leAt bs 6 2
        let ring := if p = 0xFFFF then s.m.plots.totals else if p < 1024 then (s.m.plot p).ring else []
        (n = 0 ∨ 63 < n → exec (.polezReadTally q bs) s = .next (s.withM (s.m.respond q 0x21 2 []))) ∧
        (1 ≤ n → n ≤ 63 → exec (.polezReadTally q bs) s = .next (s.withM (s.m.respond q 0x21 0
          (le 2 p ++ le 2 ring.length ++ le 2 first ++ le 2 ((ring.drop first).take n).length ++
            le 8 (match ring.getLast? with | some e => e.minute | none => 0) ++ ((ring.drop first).take n).flatMap tallyBytes))))) ∧
      (bs.length ≠ 4 → exec (.polezPlotState q bs) s = .next (s.withM (s.m.respond q 0x40 2 []))) ∧
      (bs.length = 4 →
        let first := leAt bs 0 2
        let n := leAt bs 2 2
        (1 ≤ n → n ≤ 255 → first + n ≤ 1024 → exec (.polezPlotState q bs) s = .next (s.withM
          (s.m.respond q 0x40 0 (le 2 first ++ le 2 n ++ zeros 12 ++ (List.range n).flatMap fun i => s.m.plotEntry (first + i))))) ∧
        (n = 0 ∨ 255 < n ∨ 1024 < first + n → exec (.polezPlotState q bs) s = .next (s.withM (s.m.respond q 0x40 2 []))))) ∧
  (∀ (s : State) (q op : Nat) (bs : List Byte), s.m.polezUp = true → s.m.polez.last = some q →
      let t := s.withM (s.m.onPolez fun x => { x with answered := x.answered + 1 })
      exec (.polezIdentify q) s = .next t ∧ exec (.polezReadSensors q) s = .next t ∧ exec (.polezReadYieldBook q bs) s = .next t ∧
      exec (.polezReadTally q bs) s = .next t ∧ exec (.polezPlotState q bs) s = .next t ∧
      (polezOpcodes.contains op = false → exec (.polezOpcodeNotSupported q op) s = .next t))

/-- Image opcodes of the service port (13 R584, R585). The statuses of commits whose precondition fails are the model's choice (notes/assumptions/73, 132). -/
def Obligations.PolezImageCommandsComplete : Prop :=
  (∀ (s : State) (q : Nat) (bs : List Byte) (at_ : Nat),
      let m := s.m.advance at_
      let ready := m.inService = true ∨ m.boot.recovery = true
      let both := fun (x : Nat → Mach) =>
        exec (.polezImageHeader q bs at_) s = .next (s.withM (x 0x10)) ∧ exec (.polezImageBlock q bs at_) s = .next (s.withM (x 0x11))
      (m.polezUp = false → both fun _ => m) ∧
      (m.polezUp = true → m.polez.last = some q → both fun _ => m.onPolez fun x => { x with answered := x.answered + 1 }) ∧
      (m.polezUp = true → m.polez.last ≠ some q → ¬ready → both fun op => m.respond q op 4 []) ∧
      (m.polezUp = true → m.polez.last ≠ some q → ready →
        (bs.length ≠ 4096 → exec (.polezImageHeader q bs at_) s = .next (s.withM (m.respond q 0x10 2 []))) ∧
        (bs.length = 4096 → m.stagingBusy 1 = true → exec (.polezImageHeader q bs at_) s = .next (s.withM (m.respond q 0x10 3 []))) ∧
        (bs.length = 4096 → m.stagingBusy 1 = false →
          let n := m.onImg Img.emptied
          let k := n.headerCheck n.floorNow (ImageHdr.ofBytes bs)
          (k = 0 → exec (.polezImageHeader q bs at_) s = .next (s.withM ((n.stageHeader 1 bs).respond q 0x10 0 (le 4 0)))) ∧
          (k ≠ 0 → exec (.polezImageHeader q bs at_) s = .next (s.withM ((n.refuseImage k).respond q 0x10 5 (le 4 k))))) ∧
        (bs.length < 5 ∨ 4096 < bs.length → exec (.polezImageBlock q bs at_) s = .next (s.withM (m.respond q 0x11 2 []))) ∧
        (5 ≤ bs.length → bs.length ≤ 4096 →
          let answer := fun (st : Nat) (m : Mach) => Host.Outcome.next (s.withM (m.respond q 0x11 st (le 4 m.img.body)))
          let off := leAt bs 0 4
          let len := bs.length - 4
          (m.stagingBusy 1 = true → exec (.polezImageBlock q bs at_) s = answer 3 m) ∧
          (m.stagingBusy 1 = false → m.img.hdr = none → exec (.polezImageBlock q bs at_) s = answer 6 m) ∧
          (∀ h, m.stagingBusy 1 = false → m.img.hdr = some h →
            (off + len ≤ m.img.body → exec (.polezImageBlock q bs at_) s = answer 0 m) ∧
            (m.img.body < off + len → off ≠ m.img.body → exec (.polezImageBlock q bs at_) s = answer 6 m) ∧
            (off = m.img.body → h.bodyLen < off + len → exec (.polezImageBlock q bs at_) s = answer 2 m) ∧
            (off = m.img.body → off + len ≤ h.bodyLen →
              let r := m.stageBody (bs.drop 4)
              exec (.polezImageBlock q bs at_) s = answer (if r.1 then 0 else 7) r.2))))) ∧
  (∀ (s : State) (q : Nat) (bs : List Byte),
      let m := s.m
      let ready := m.inService = true ∨ m.boot.recovery = true
      let a := leAt bs 0 1
      let field := m.respond q 0x12 2 []
      let all := fun (x : Mach) =>
        (bs.length ≠ 4 ∨ a = 0 ∨ 4 < a → exec (.polezCommitWrite q bs) s = .next (s.withM x)) ∧
        (bs.length ≠ 4 ∨ a = 1 → exec (.polezCommitWriteUse q bs) s = .next (s.withM x)) ∧
        (bs.length ≠ 4 ∨ a = 2 → exec (.polezCommitUseSlot q bs) s = .next (s.withM x)) ∧
        (bs.length ≠ 4 ∨ a = 3 → exec (.polezCommitActivate q bs) s = .next (s.withM x)) ∧
        (bs.length ≠ 4 ∨ a = 4 → exec (.polezCommitEmpty q bs) s = .next (s.withM x))
      (m.polezUp = false → all m) ∧
      (m.polezUp = true → m.polez.last = some q → all (m.onPolez fun x => { x with answered := x.answered + 1 })) ∧
      (m.polezUp = true → m.polez.last ≠ some q → ¬ready → all (m.respond q 0x12 4 [])) ∧
      (m.polezUp = true → m.polez.last ≠ some q → ready → bs.length ≠ 4 → all field) ∧
      (m.polezUp = true → m.polez.last ≠ some q → ready → bs.length = 4 → 4 < a → exec (.polezCommitWrite q bs) s = .next (s.withM field)) ∧
      (m.polezUp = true → m.polez.last ≠ some q → ready → bs.length = 4 → a ≤ 4 → m.stagingBusy 1 = true → all (m.respond q 0x12 3 [])) ∧
      (m.polezUp = true → m.polez.last ≠ some q → ready → bs.length = 4 → m.stagingBusy 1 = false →
        (a = 4 → exec (.polezCommitEmpty q bs) s = .next (s.withM (((m.onImg Img.emptied).commitEnds 0 1).respond q 0x12 0 []))) ∧
        (a < 4 → m.polezSlot (leAt bs 1 1) = none → all field) ∧
        (∀ k, m.polezSlot (leAt bs 1 1) = some k →
          let done := fun (x : Mach) => Host.Outcome.next (s.withM (x.respond q 0x12 0 []))
          let refused := Host.Outcome.next (s.withM (((m.onImg fun i => { i with lastRes := 2 }).hubInt 17).respond q 0x12 2 []))
          (m.img.hdr = none ∨ m.img.stage ≠ 2 →
            (a = 0 → exec (.polezCommitWrite q bs) s = refused) ∧ (a = 1 → exec (.polezCommitWriteUse q bs) s = refused) ∧
            (a = 3 → m.boot.recovery = true → exec (.polezCommitActivate q bs) s = refused)) ∧
          (∀ h : ImageHdr, m.img.hdr = some h → m.img.stage = 2 →
            (m.boot.recovery = true →
              (a = 0 → exec (.polezCommitWrite q bs) s = done (m.startSlotWrite k 0 2)) ∧
              (a = 1 → exec (.polezCommitWriteUse q bs) s = done (m.startSlotWrite k 0 2)) ∧
              (a = 3 → exec (.polezCommitActivate q bs) s = done (m.startSlotWrite k 0 2))) ∧
            (m.boot.recovery = false →
              (a = 0 → exec (.polezCommitWrite q bs) s = done (m.startSlotWrite k 0 0)) ∧
              (a = 1 → m.notBelow k h.version = true → exec (.polezCommitWriteUse q bs) s = done (m.startSlotWrite k 0 1)) ∧
              (a = 1 → m.notBelow k h.version = false → exec (.polezCommitWriteUse q bs) s = refused))) ∧
          (a = 2 → m.boot.recovery = true ∨ m.useStatus k ≠ none → exec (.polezCommitUseSlot q bs) s = refused) ∧
          (a = 2 → m.boot.recovery = false → m.useStatus k = none → exec (.polezCommitUseSlot q bs) s = done
            ((m.onImg fun i => { i with nextSlot := some k }).commitEnds 0 1)) ∧
          (a = 3 → m.boot.recovery = false → m.useStatus k ≠ none → exec (.polezCommitActivate q bs) s = refused) ∧
          (a = 3 → m.boot.recovery = false → m.useStatus k = none → exec (.polezCommitActivate q bs) s = .next (s.withM
            ((m.activateSlot k 0 id id).respond q 0x12
              (if m.slotVersion k = m.img.version ∨ m.activateBlock k = none then 0 else 2) []))))))

/-- Non-operational power states (11 R499 to R504). -/
def Obligations.PowerStateCommandsComplete : Prop :=
  (∀ (s : State) (at_ : Nat),
      let m := s.m.advance at_
      let t := m.power.apstIdle.getD m.power.ps (0, 0)
      let due := m.inService = true ∧ m.power.apst = true ∧ m.mayIdle = true ∧ m.power.entering = none ∧ m.quiet = true ∧ m.anyFetchable = false ∧
        t.2 ≠ 0 ∧ m.power.ps < t.1 ∧ m.power.idleAt + t.2 * Config.edgesPerMs ≤ m.clk.now
      (due → exec (.apstIdleTimeout at_) s = .next (s.withM (m.onPower fun p => { p with entering := some t.1, entryCmd := 0, closing := false }))) ∧
      (¬due → exec (.apstIdleTimeout at_) s = .next (s.withM m))) ∧
  (∀ (s : State) (at_ : Nat),
      let m := s.m.advance at_
      let starts := m.power.entering ≠ none ∧ m.power.closing = false ∧ m.quiet = true ∧ m.power.pfail = false ∧ m.heat.active = false
      let n := m.onPower fun p => { p with closing := true, closeAt := none }
      (¬starts → exec (.nonopEntry at_) s = .next (s.withM m)) ∧
      (starts → m.power.ps < 3 → exec (.nonopEntry at_) s = .next (s.withM
        ((n.erasing.filter (fun d => decide ((n.die d).suspends < 64))).foldl (fun m d => m.suspendDie d m.clk.now) n).beginClosing)) ∧
      (starts → 3 ≤ m.power.ps → exec (.nonopEntry at_) s = .next (s.withM (n.trySleep s.cfg)))) ∧
  (∀ (s : State) (at_ : Nat),
      let m := s.m.advance at_
      (m.power.entering = none ∨ m.power.closing = false ∨ m.power.closeAt = none ∨ m.chunksRun = true ∨ m.diesRun = true →
        exec (.domainDrainDone at_) s = .next (s.withM m)) ∧
      (∀ ps t, m.power.entering = some ps → m.power.closing = true → m.power.closeAt = some t → m.chunksRun = false → m.diesRun = false →
        let ports := (List.range m.nAcres).filter fun a => m.acreUp a && (m.port a).st == 2 && !(m.port a).srWanted
        let n := if ps = 4 then (ports.filter (fun a => decide (a ≠ 0))).foldl (fun m a => m.saveSram a) m else m
        exec (.domainDrainDone at_) s = .next (s.withM ((ports.foldl (fun m a => m.updPort a fun p =>
          { p with srWanted := true, srForRate := false, srReq := m.clk.now }) n).trySleep s.cfg))) ∧
      (∀ t, m.power.closeAt = some t → m.power.closing = true → m.chunksRun = true → t + 200 * Config.edgesPerUs ≤ m.clk.now →
        exec (.drainBoundExpiry at_) s = .next (s.withM (m.refuseEntry 1))) ∧
      (m.power.closeAt = none ∨ m.power.closing = false ∨ m.chunksRun = false → exec (.drainBoundExpiry at_) s = .next (s.withM m)) ∧
      (∀ t, m.power.closeAt = some t → m.clk.now < t + 200 * Config.edgesPerUs → exec (.drainBoundExpiry at_) s = .next (s.withM m))) ∧
  (∀ (s : State) (at_ : Nat),
      let m := s.m.advance at_
      (m.power.want = none → exec (.nonopExit at_) s = .next (s.withM m)) ∧
      (∀ ps, m.power.want = some ps → exec (.nonopExit at_) s = .next (s.withM (m.wake s.cfg ps))))

/-- Throttle ladder, sense inputs and diode self-checks (11 R508 to R516). The rise that an estimate adds is a free value (notes/assumptions/5). -/
def Obligations.HeatCommandsComplete : Prop :=
  (∀ s : State,
      (s.m.awake = true → s.m.heat.evalAt + 100 ≤ s.m.grid.passes →
        exec .throttleEval s = .next (s.withM (s.m.onHeat fun h => { h with evalAt := s.m.grid.passes }).evalStep)) ∧
      (s.m.awake = false ∨ s.m.grid.passes < s.m.heat.evalAt + 100 → exec .throttleEval s = .next s)) ∧
  (∀ (s : State) (v : List Nat),
      (s.m.awake = true → exec (.isnsSample v) s = .next (s.withM ((List.range s.m.nGroups).foldl (fun m g => m.sample g (v.getD g 0)) s.m))) ∧
      (s.m.awake = false → exec (.isnsSample v) s = .next s)) ∧
  (∀ (s : State) (d a b : Nat) (r : Int),
      let good := 200 ≤ a ∧ 20 ≤ ((b : Int) - a).natAbs ∧ b ≤ 1000 ∧ -960 ≤ r ∧ r ≤ 2560
      let fails := fun (k : Nat) =>
        ((s.m.diode d).fail = 0 → exec (.diodeSelfCheck d a b r) s = .next (s.withM (s.m.diodeFails d k))) ∧
        ((s.m.diode d).fail ≠ 0 → exec (.diodeSelfCheck d a b r) s = .next (s.withM
          (s.m.updDiode d fun y => { y with fail := k, good := 0 })))
      (s.m.awake = false ∨ s.m.nDiodes ≤ d → exec (.diodeSelfCheck d a b r) s = .next s) ∧
      (s.m.awake = true → d < s.m.nDiodes →
        (1000 < b → fails 1) ∧
        (b ≤ 1000 → a < 200 ∨ ((b : Int) - a).natAbs < 20 → fails 2) ∧
        (b ≤ 1000 → 200 ≤ a → 20 ≤ ((b : Int) - a).natAbs → r < -960 ∨ 2560 < r → fails 3) ∧
        (good → (s.m.diode d).fail = 0 → exec (.diodeSelfCheck d a b r) s = .next s) ∧
        (good → (s.m.diode d).fail ≠ 0 → (s.m.diode d).good + 1 < 10 →
          exec (.diodeSelfCheck d a b r) s = .next (s.withM (s.m.updDiode d fun y => { y with good := y.good + 1 }))) ∧
        (good → (s.m.diode d).fail ≠ 0 → 10 ≤ (s.m.diode d).good + 1 →
          exec (.diodeSelfCheck d a b r) s = .next (s.withM
            (((s.m.updDiode d fun y => { y with fail := 0, est := false, good := 0, temp := r }).noteFailed).record 0x0B04 d 0)))))

/-- The thermal trip and the power-fail dump (11 R519 to R528; 16 R655). -/
def Obligations.TripAndDumpCommandsComplete : Prop :=
  (∀ (s : State) (v : List Int) (at_ : Nat),
      let m := s.m.advance at_
      (m.clk.coldHeld = true → exec (.tripSample v at_) s = .next (s.withM m)) ∧
      (m.clk.coldHeld = false →
        let ts := (List.range m.nDiodes).map fun d => (d, m.tripReading v d)
        let n := ts.foldl (fun m t => m.updDiode t.1 fun x => { x with hot := if 2080 ≤ t.2 then Nat.min 2 (x.hot + 1) else 0 }) m
        let k := n.onHeat fun h => { h with coolAt := if h.active && ts.all (fun t => decide (t.2 < 1600)) then (match h.coolAt with
          | some t => some t
          | none => some n.clk.now) else none }
        let twice := (List.range k.nDiodes).find? (fun d => decide (2 ≤ (k.diode d).hot))
        (k.heat.active = true ∨ twice = none → exec (.tripSample v at_) s = .next (s.withM k)) ∧
        (∀ d, k.heat.active = false → twice = some d →
          exec (.tripSample v at_) s = .next (s.withM (k.trip s.cfg d (hottest (ts.map (fun t => t.2)))))))) ∧
  (∀ (s : State) (at_ : Nat),
      let m := s.m.advance at_
      (m.heat.active = false ∨ m.heat.gated = true →
        exec (.tripDumpDone at_) s = .next (s.withM m) ∧ exec (.tripBackstop at_) s = .next (s.withM m)) ∧
      (m.heat.active = true → m.heat.gated = false →
        (m.dumpEnds = true → exec (.tripDumpDone at_) s = .next (s.withM m.endDump.gate)) ∧
        (m.power.dumpDoneF = true → exec (.tripDumpDone at_) s = .next (s.withM m.gate)) ∧
        (m.dumpEnds = false → m.power.dumpDoneF = false → exec (.tripDumpDone at_) s = .next (s.withM m)) ∧
        (m.power.dumpDoneF = false → m.heat.tripAt + 250 * Config.edgesPerMs ≤ m.clk.now → exec (.tripBackstop at_) s = .next (s.withM
          (((m.gate).onHeat fun h => { h with backstop := true }).record 0x0B07 (ceilDiv m.stg.dirty mib) 0))) ∧
        (m.power.dumpDoneF = true ∨ m.clk.now < m.heat.tripAt + 250 * Config.edgesPerMs → exec (.tripBackstop at_) s = .next (s.withM m)))) ∧
  (∀ (s : State) (at_ : Nat),
      let n := s.on fun _ m => m.advance at_
      let due := n.m.heat.active = true ∧ n.m.heat.gated = true ∧ (∃ t, n.m.heat.coolAt = some t ∧ t + 30 * Config.edgesPerSec ≤ n.m.clk.now) ∧
        (n.m.power.pfail = false ∨ n.m.pfailOver = true)
      (due → exec (.tripRestart at_) s = .next (n.restart.on fun _ m => m.record 0x0B08 ((n.m.clk.now - n.m.heat.tripAt) / Config.edgesPerSec) 0)) ∧
      (¬due → exec (.tripRestart at_) s = .next n)) ∧
  (∀ (s : State) (us at_ : Nat),
      let m := s.m.advance at_
      let p := m.onPower fun p => { p with pfail := true, pfailOffAt := none }
      let both := fun (x : Mach) =>
        exec (.powerFail at_) s = .next (s.withM x) ∧
        (2 ≤ us → m.power.pfail = false → exec (.supplyOutOfLimits us at_) s = .next (s.withM
          (x.onPower fun p => { p with pfailOffAt := some m.clk.now })))
      (us < 2 ∨ m.power.pfail = true ∨ m.awake = false → exec (.supplyOutOfLimits us at_) s = .next (s.withM m)) ∧
      (m.awake = false → exec (.powerFail at_) s = .next (s.withM m)) ∧
      (m.awake = true → m.power.dumping = true →
        both (p.onPower fun p => { p with dumpCause := if p.dumpCause = 3 then 1 else p.dumpCause })) ∧
      (m.awake = true → m.power.dumping = false → m.heat.active = true → both p) ∧
      (m.power.dumping = false → m.heat.active = false → m.inService = true → both (p.beginDump s.cfg 1)) ∧
      (m.awake = true → m.power.dumping = false → m.heat.active = false → m.inService = false →
        both (p.onPower fun p => { p with dumping := true, dumpCause := 1, dumpAt := m.clk.now, dumpDoneF := true }))) ∧
  (∀ (s : State) (at_ : Nat),
      let n := s.on fun _ m => m.advance at_
      (n.m.dumpEnds = false → exec (.dumpDone at_) s = .next n) ∧
      (n.m.dumpEnds = true → n.m.endDump.power.dumpCause ≠ 3 → exec (.dumpDone at_) s = .next (n.on fun _ m => m.endDump)) ∧
      (n.m.dumpEnds = true → n.m.endDump.power.dumpCause = 3 → exec (.dumpDone at_) s = .next
        (((n.on fun _ m => m.endDump).warmReset (n.m.endDump.bar0 0).nssro false).on fun _ m =>
          m.record 0x0C0A ((n.m.clk.now - n.m.power.dumpAt) / Config.edgesPerMs) 0)) ∧
      (n.m.power.pfail = false → exec (.powerfailDeassert at_) s = .next n) ∧
      (n.m.power.pfail = true → n.m.power.pfailOffAt = none → exec (.powerfailDeassert at_) s = .next
        (n.on fun _ m => m.onPower fun p => { p with pfailOffAt := some m.clk.now })) ∧
      (∀ t, n.m.power.pfail = true → n.m.power.pfailOffAt = some t →
        let due := n.m.power.dumpDoneF = true ∧ t + 100 * Config.edgesPerMs ≤ n.m.clk.now ∧ n.m.heat.active = false
        (due → exec (.powerfailDeassert at_) s = .next n.restart) ∧ (¬due → exec (.powerfailDeassert at_) s = .next n)))

/-- Bring-up (12 R533 to R549; 05 R231; 16 R661). What a phase finds stands in its operand (notes/assumptions/60). -/
def Obligations.StartupCommandsComplete : Prop :=
  (∀ (s : State) (at_ : Nat),
      let m := s.m.advance at_
      (m.clk.coldHeld = true → exec (.coldResetRelease at_) s = .next (s.withM (m.onClk fun k =>
        { k with powered := true, coldHeld := false, releasedAt := k.now, basesLoaded := false, secBase := 0, cycBase := 0 }))) ∧
      (m.clk.coldHeld = false → exec (.coldResetRelease at_) s = .next (s.withM m))) ∧
  (∀ (s : State) (straps : Straps) (good high : Bool) (at_ : Nat),
      let m := s.m.advance at_
      let runs := m.awake = false ∧ m.clk.coldHeld = false ∧ good = true ∧ high = true ∧ m.heat.active = false ∧ m.power.pfail = false
      let role := straps.role % 4
      let n := m.onBoot fun b => { b with straps := { straps with role := role }, phase := 1, warmAt := m.clk.now, session := b.session + 1, flashMode := 0,
                                          spiReset := m.clk.now + 10 * Config.edgesPerUs }
      (runs → exec (.warmStart straps good high at_) s = .next (s.withM ((n.onHitch fun _ =>
        { Hitch.reset with role := if role = 3 then 0 else role,
                           ports := if role = 1 ∨ role = 2 then [(0, { HPort.init with st := 1 }), (1, { HPort.init with st := 1 })] else [] }).loadBases))) ∧
      (¬runs → exec (.warmStart straps good high at_) s = .next (s.withM m))) ∧
  (∀ (s : State) (info : PhaseInfo) (at_ : Nat),
      let n := s.on fun _ m => m.advance at_
      (n.m.starting = false ∨ n.m.boot.phase = 0 ∨ 9 ≤ n.m.boot.phase → exec (.startupPhaseDone info at_) s = .next n) ∧
      (n.m.starting = true →
        (n.m.boot.phase = 1 → n.m.clk.now < n.m.boot.spiReset → exec (.startupPhaseDone info at_) s = .next n) ∧
        (n.m.boot.phase = 1 → n.m.boot.spiReset ≤ n.m.clk.now → exec (.startupPhaseDone info at_) s = .next (n.on fun _ m => m.phaseOne info)) ∧
        (n.m.boot.phase = 2 → exec (.startupPhaseDone info at_) s = .next (n.on fun c m => m.phaseTwo c info)) ∧
        (n.m.boot.phase = 3 → exec (.startupPhaseDone info at_) s = .next (n.on fun c m => m.phaseThree c info)) ∧
        (n.m.boot.phase = 4 → ((List.range n.m.nAcres).any fun a => n.m.acreUp a && decide ((n.m.port a).attempt ≠ 0)) = true →
          exec (.startupPhaseDone info at_) s = .next n) ∧
        (n.m.boot.phase = 4 → ((List.range n.m.nAcres).any fun a => n.m.acreUp a && decide ((n.m.port a).attempt ≠ 0)) = false →
          exec (.startupPhaseDone info at_) s = .next (n.on fun c m =>
            ((List.range m.nAcres).foldl (fun m a => if m.fencingA a then m.fenceEnd c a 0 else m) m).onBoot fun b => { b with phase := 5 })) ∧
        (n.m.boot.phase = 5 → exec (.startupPhaseDone info at_) s = .next (n.on fun _ m => m.phaseFive)) ∧
        (n.m.boot.phase = 6 → (n.m.med.chans.any fun e => e.2.training && n.m.acreUp (chanAcre e.1)) = true →
          exec (.startupPhaseDone info at_) s = .next n) ∧
        (n.m.boot.phase = 6 → (n.m.med.chans.any fun e => e.2.training && n.m.acreUp (chanAcre e.1)) = false →
          exec (.startupPhaseDone info at_) s = .next (n.on fun _ m => m.onBoot fun b => { b with phase := 7 })) ∧
        (n.m.boot.phase = 7 → exec (.startupPhaseDone info at_) s = .next (n.phaseSeven info)) ∧
        (n.m.boot.phase = 8 → exec (.startupPhaseDone info at_) s = .next (n.on fun c m => m.complete c)))) ∧
  (∀ (s : State) (ch at_ : Nat),
      let late := fun (m : Mach) => (m.chan ch).trainAt + 160000000 < m.clk.now
      let take := fun (m : Mach) (r : Nat × Nat) => m.updChan ch fun y => { y with attempt := some r, heldRate := none, trainAt := m.clk.now }
      let m := s.m.advance at_
      (s.m.chanTrains ch = false → ∀ r, exec (.nandTrainingDone ch r) s = .next s) ∧
      (s.m.chanTrains ch = true →
        ((s.m.chan ch).heldRate = none ∨ ¬late s.m → exec (.nandTrainingDone ch .passed) s = .next (s.withM (s.m.updChan ch Chan.trained))) ∧
        (∀ r, (s.m.chan ch).heldRate = some r → late s.m → exec (.nandTrainingDone ch .passed) s = .next (s.withM (take s.m r))) ∧
        (∀ r, (s.m.chan ch).heldRate = some r → exec (.nandTrainingDone ch .failed) s = .next (s.withM (take s.m r))) ∧
        ((s.m.chan ch).heldRate = none → exec (.nandTrainingDone ch .failed) s = .next (s.withM ((s.m.nextRung s.cfg ch).takeHeld ch)))) ∧
      (m.chanTrains ch = false ∨ (m.chan ch).heldRate ≠ none ∨ m.clk.now < (m.chan ch).trainAt + 160000000 →
        exec (.nandTrainingTimeout ch at_) s = .next (s.withM m)) ∧
      (m.chanTrains ch = true → (m.chan ch).heldRate = none → (m.chan ch).trainAt + 160000000 ≤ m.clk.now →
        exec (.nandTrainingTimeout ch at_) s = .next (s.withM (m.nextRung s.cfg ch)))) ∧
  (∀ (s : State) (port : Nat),
      let has := s.m.awake = true ∧ s.m.hitch.role ≠ 2 ∧ (port = 0 ∨ port = 1 ∧ s.m.boot.straps.portMode = true)
      (has → exec (.hostLinkTrained port) s = .next (s.withM
        ((s.m.onBoot fun b => { b with link := Tbl.put false port true b.link, eq := Tbl.put false port true b.eq }).onGrid fun g =>
          { g with linkUp := Tbl.put false port true g.linkUp }))) ∧
      (¬has → exec (.hostLinkTrained port) s = .next s)) ∧
  (∀ (s : State) (port : Nat),
      (Tbl.get false port s.m.boot.eq = false → ∀ r, exec (.equalizationDone port r) s = .next s) ∧
      (Tbl.get false port s.m.boot.eq = true →
        exec (.equalizationDone port none) s = .next (s.withM
          (s.m.onBoot fun b => { b with eq := Tbl.put false port false b.eq, heldSpeed := Tbl.put 0 port 0 b.heldSpeed })) ∧
        (∀ r, exec (.equalizationDone port (some r)) s = .next (s.withM
          ((s.m.onBoot fun b => { b with heldSpeed := Tbl.put 0 port r b.heldSpeed }).record 0x0C04 r 0)))))

/-- Resets from outside (12 R533 to R537, R561; 02 R82; 15 R621). That a reset before start-up complete keeps the mark of the dump before it is the model's reading (notes/assumptions/55). -/
def Obligations.ResetCommandsComplete : Prop :=
  (∀ (s : State) (at_ : Nat),
      let n := s.on fun c m =>
        (((((m.advance at_).updBar0 0 fun b => { b with nssro := false }).onBoot fun b =>
          { b with link := Tbl.put false 0 false b.link, eq := Tbl.put false 0 false b.eq }).onGrid fun g =>
            { g with linkUp := Tbl.put false 0 false g.linkUp }).linkFree c)
      let k := s.on fun _ m => m.updBar0 0 fun b => { b with nssro := true }
      let resets := fun (c : Instr) (x : State) =>
        (x.m.awake = false ∨ x.m.power.dumping = true ∧ x.m.power.dumpDoneF = false → exec c s = .next x) ∧
        (x.m.awake = true → x.m.inService = true → x.m.power.dumping = false → exec c s = .next (x.on fun c m => m.beginDump c 3)) ∧
        (x.m.awake = true → x.m.power.dumping = true → x.m.power.dumpDoneF = true → exec c s = .next (x.warmReset (x.m.bar0 0).nssro false)) ∧
        (x.m.awake = true → x.m.inService = false → x.m.power.dumping = false → exec c s = .next (x.warmReset (x.m.bar0 0).nssro false))
      resets (.perstAssert at_) n ∧
      (s.m.barUp 0 = true → resets (.nvmSubsystemReset 0 0x4E564D65) k) ∧
      (∀ p v, p ≠ 0 ∨ v ≠ 0x4E564D65 ∨ s.m.barUp 0 = false → exec (.nvmSubsystemReset p v) s = .next s)) ∧
  (∀ (s : State) (at_ : Nat),
      let m := s.m.advance at_
      (m.awake = false ∨ m.boot.straps.portMode = false → exec (.perst1Assert at_) s = .next (s.withM m)) ∧
      (m.awake = true → m.boot.straps.portMode = true →
        let n := ((m.plotsOn 1 (Tbl.get 0 1 m.plots.vfEn)).foldl (fun m p => m.makeAbsent p) m).onPlots fun x =>
          { x with vfEn := Tbl.put 0 1 0 x.vfEn }
        exec (.perst1Assert at_) s = .next (s.withM
          (((n.onBoot fun b => { b with link := Tbl.put false 1 false b.link, eq := Tbl.put false 1 false b.eq }).onGrid fun g =>
            { g with linkUp := Tbl.put false 1 false g.linkUp, ptmEn := Tbl.put false 1 false g.ptmEn }).linkFree s.cfg)))) ∧
  (∀ s : State,
      let n := s.m.warmReset true false false
      exec .lossOfPower s = .next { cfg := Cfg.reset [], pending := s.pending, m := { n with
        heat := { Heat.reset with savedC3 := n.heat.savedC3 }, power := Power.reset, polez := Polez.reset,
        clk := { n.clk with powered := false, coldHeld := true, basesLoaded := false, secBase := 0, cycBase := 0, releasedAt := n.clk.now } } })

/-- Writes of CC (15 R620, R621; 04 R200, R202; 00 R8). A completed shutdown writes the clean-shutdown mark at once (notes/assumptions/54). -/
def Obligations.EnableAndShutdownCommandsComplete : Prop :=
  (∀ (s : State) (port p : Nat) (cc aqa : Word) (asq acq : Nat),
      let m := s.m.updBar0 p fun b => { b with cc := (cc &&& 0x00FFFFF1) ||| 1, aqa := aqa &&& 0x0FFF0FFF, asq := asq / 4096 * 4096, acq := acq / 4096 * 4096 }
      (s.m.barTakes port p = false ∨ (s.m.bar0 p).en = true → exec (.controllerEnable port p cc aqa asq acq) s = .next s) ∧
      (s.m.barTakes port p = true → (s.m.bar0 p).en = false →
        (ccOk cc = true → exec (.controllerEnable port p cc aqa asq acq) s = .next (s.withM
          ((m.adminQueues p).updBar0 p fun b => { b with rdy := s.m.inService }))) ∧
        (ccOk cc = false → exec (.controllerEnable port p cc aqa asq acq) s = .next (s.withM
          (m.updBar0 p fun b => { b with rdy := false, cfs := true }))))) ∧
  (∀ (s : State) (at_ : Nat),
      let m := s.m.advance at_
      (m.barUp 0 = false ∨ (m.bar0 0).en = false → exec (.controllerReset at_) s = .next (s.withM m)) ∧
      (m.barUp 0 = true → (m.bar0 0).en = true →
        exec (.controllerReset at_) s = .next (s.withM m.controllerReset) ∧ m.controllerReset.hub.fatal = false ∧
          m.controllerReset.front.inflight = [] ∧ m.controllerReset.front.locks = [])) ∧
  (∀ (s : State) (port p at_ : Nat),
      let m := s.m.advance at_
      (m.barTakes port p = false ∨ m.inService = false →
        exec (.shutdownNormal port p at_) s = .next (s.withM m) ∧ exec (.shutdownAbrupt port p at_) s = .next (s.withM m)) ∧
      (m.barTakes port p = true → m.inService = true →
        exec (.shutdownNormal port p at_) s = .next (s.withM ((m.updBar0 p fun b =>
          { b with shst := 1, cc := (b.cc &&& ~~~(3#32 <<< 14)) ||| (1#32 <<< 14) }).shutdownStep p)) ∧
        exec (.shutdownAbrupt port p at_) s = .next (s.withM (((m.discardWhere fun c => c.plot == p).updBar0 p fun b =>
          { b with shst := 1, cc := (b.cc &&& ~~~(3#32 <<< 14)) ||| (2#32 <<< 14) }).shutdownStep p))))

/-- Yield Book (14 R601 to R608). That a journal copy has four blocks is the model's choice (notes/assumptions/71). -/
def Obligations.YieldBookCommandsComplete : Prop :=
  (∀ (s : State) (at_ : Nat),
      let m := s.m.advance at_
      let due := m.awake = true ∧ m.clk.basesLoaded = true ∧ m.clk.lastEntryAt + 192000000000 ≤ m.clk.now
      (due → exec (.timeBaseWrite at_) s = .next (s.withM ((m.bootEntry none).onClk fun k =>
        { k with entrySec := m.lifeSec, entryCyc := m.lifeCyc, entryValid := true, lastEntryAt := m.clk.now }))) ∧
      (¬due → exec (.timeBaseWrite at_) s = .next (s.withM m))) ∧
  (∀ (s : State) (at_ : Nat),
      let m := s.m.advance at_
      (m.nextOcc = none → exec (.occurrenceApply at_) s = .next (s.withM m)) ∧
      (∀ o, m.nextOcc = some o →
        let k := m.advance (m.ybk.appliedAt + 1)
        let n := k.onYbk fun y => { y with queue := y.queue.erase o, appliedAt := k.clk.now }
        let a := if (n.applyOcc o).startBook then n.applyOcc o else (n.applyOcc o).bookWrite o.code
        let owed := Tbl.get 0 (o.src - 1) a.ybk.dropOwed
        (o.src = 0 ∨ owed = 0 → exec (.occurrenceApply at_) s = .next (s.withM a)) ∧
        (o.src ≠ 0 → 0 < owed → exec (.occurrenceApply at_) s = .next (s.withM
          ((a.onYbk fun y => { y with dropOwed := Tbl.put 0 (o.src - 1) 0 y.dropOwed }).record 0x0E01 owed 0))) ∧
        (n.startBook = true ∨ n.ybk.slots.contains o.code = true → n.applyOcc o = n.countCode o.code o.mag) ∧
        (n.startBook = false → n.ybk.slots.contains o.code = false → n.ybk.slots.contains 0x0E00 = true →
          n.applyOcc o = n.countCode 0x0E00 o.code) ∧
        (n.startBook = false → n.ybk.slots.contains o.code = false → n.ybk.slots.contains 0x0E00 = false → n.applyOcc o = n))) ∧
  (∀ (s : State) (code at_ : Nat),
      let m := s.m.advance at_
      ((m.ybkRec code).pending = true → m.mayPersist code = true → exec (.persistIntervalEnd code at_) s = .next (s.withM (m.persist code))) ∧
      ((m.ybkRec code).pending = false ∨ m.mayPersist code = false → exec (.persistIntervalEnd code at_) s = .next (s.withM m))) ∧
  (∀ (s : State) (at_ : Nat),
      let m := (s.m.advance at_).journalPrune
      let due := m.ybk.images ≠ [] ∧ m.ybk.copies = [] ∧ (256 ≤ m.ybk.images.length ∨ m.ybk.imagesAt + 1000 ≤ m.powMs)
      let now := m.ybk.images.take 256
      let n := m.onYbk fun y => { y with images := y.images.drop 256, imagesAt := m.powMs }
      (¬due → exec (.journalUnitProgram at_) s = .next (s.withM m)) ∧
      (due → n.journalDies = [] → exec (.journalUnitProgram at_) s = .next (s.withM
        (now.foldl (fun m e => m.bootEntry (some (e.1, e.2, false))) n))) ∧
      (due → n.journalDies ≠ [] → exec (.journalUnitProgram at_) s = .next (s.withM
        (n.journalDies.foldl (fun m d => m.headWrite d (journalBlock (n.ybk.unitsDone / n.journalBlockUnits)) .program true)
          (n.onYbk fun y => { y with unit := now, copies := n.journalDies, unitSafe := false })))))

/-- The queue of waiting commands is the model's own field, first in, first out (notes/assumptions/2). -/
def Obligations.StepRunsFrontCommand : Prop :=
  ∀ (s : State) (c : Instr) (rest : List Instr), s.pending = c :: rest → step s = exec c { s with pending := rest }

/-- That a step on an empty queue is one edge is the model's choice (notes/assumptions/2). -/
def Obligations.EmptyQueueIsOneEdge : Prop :=
  ∀ s : State, s.pending = [] → ∃ t, step s = .next t ∧ t.cfg = s.cfg ∧ t.pending = [] ∧ t.m.clk.now = s.m.clk.now + 1 ∧
    (s.m.awake = true → t.m.grid.time = s.m.grid.time + s.m.grid.edgeUnits) ∧ (s.m.awake = false → t.m.grid = s.m.grid) ∧
    t.m.med = s.m.med ∧ t.m.ports = s.m.ports ∧ t.m.stg = s.m.stg ∧ t.m.drill = s.m.drill ∧ t.m.hub = s.m.hub ∧ t.m.ybk = s.m.ybk

/-- Reset values that the register tables give (15 R634 to R642; 04 R183; 02 R89 to R112; 05 R264, R281; 07 R345, R357, R383). Stated of the model's read of a register; registers without a stated reset value are those of notes/assumptions/1. -/
def Obligations.ResetGivesConfiguredValues : Prop :=
  let hub : List (Nat × Word) := [(0x04, 0), (0x10, 0), (0x14, 0), (0x20, 0), (0x364, 0x4004), (0x500, 0x00080A01), (0x504, 0), (0x510, 0), (0x514, 0),
    (0x518, 0), (0xB00, 0x10)]
  let good := fun (s : State) =>
    (∀ e ∈ hub, s.m.hubReg s.cfg e.1 = some e.2) ∧
    (∀ i < 32, s.m.hubReg s.cfg (0xA00 + 4 * i) = some 0xFFFFFFFF) ∧
    (∀ a < 4, s.m.acreReg s.cfg a 0xC04 = some 0x000A0004 ∧ s.m.acreReg s.cfg a 0xC08 = some 0x370 ∧
      (∀ b < 32, ∃ w, s.m.acreReg s.cfg a (0x800 + 4 * b) = some w ∧ w.extractLsb' 0 5 = 1)) ∧
    (∀ sw < 32, s.m.swathReg s.cfg sw 0x410 = some 0x00400258)
  good State.reset ∧ (∀ i < 4, State.reset.m.hubReg State.reset.cfg (0x30 + 4 * i) = some 0) ∧
  (∀ (s : State) (a b : Bool), good (s.warmReset a b) ∧
    (∀ i < 4, (s.warmReset a b).m.hubReg (s.warmReset a b).cfg (0x30 + 4 * i) = some (Tbl.get 0 i s.cfg.scratch)))

/-- The invariant of ConfigLegalKept holds at reset. -/
def Obligations.ConfigLegalAtReset : Prop :=
  State.reset.cfg.Legal

/-- Invariant of every step (02 R89, R111; 04 R183; 05 R264; 07 R345, R357, R383; 08 R410; 15 R639). -/
def Obligations.ConfigLegalKept : Prop :=
  ∀ s t : State, s.cfg.Legal → step s = .next t → t.cfg.Legal

/-- The model stops on nothing: a command whose trigger does not hold leaves the state as it is (notes/assumptions/11). -/
def Obligations.EveryCommandAnswersAndKeepsTheQueue : Prop :=
  ∀ (c : Instr) (s : State), ∃ t, exec c s = .next t ∧ t.pending = s.pending

/-- Which commands may change FUR_CFG, FUR_CTRL, HUB_CTRL, HUB_FETCH_CFG, HUB_INT_EN, HUB_LED_CTRL, HUB_SCRATCH, SWT_ERS_CFG, DRM_ARB_CFG, DRM_RATE_REQ, DRL_GRP_CFG and BPM_DIRTY_CFG. -/
def Obligations.OnlyConfigurationRowsChangeConfiguration : Prop :=
  ∀ (c : Instr) (s t : State), exec c s = .next t →
    (match c with
     | .registerWrite .. | .furCfgWrite .. | .furCtrlWrite .. | .hubCtrlWrite .. | .hubLedCtrlWrite .. | .dirtyCfgWrite .. | .dramRateRequest ..
     | .taskEnd .. | .setFeaturesFurrowGrid .. | .cmd .. | .regWr .. | .perstAssert .. | .nvmSubsystemReset .. | .dumpDone .. | .tripRestart ..
     | .powerfailDeassert .. | .lossOfPower | .startupPhaseDone .. | .slotWriteDone .. => True
     | _ => t.cfg = s.cfg)

/-- A standalone controller holds both hitch ports in reset (10 R453); frames of members are looked up among what a manager has forwarded. -/
def Obligations.HitchRowsIdleOnStandalone : Prop :=
  ∀ (s : State), s.m.hitch.role = 0 →
    (∀ port, (∀ w, exec (.hitchTrainingDone port w) s = .next s) ∧ (∀ p, exec (.sidebandChange port p) s = .next s) ∧
      (∀ k, exec (.hitchFrameCrcError port k) s = .next s) ∧ (∀ b, exec (.hitchFrameRelay port b) s = .next s) ∧
      (∀ t, exec (.unknownFrameType port t) s = .next s) ∧ (∀ m l, exec (.discover port m l) s = .next s) ∧
      (∀ n e, exec (.announce port n e) s = .next s) ∧ (∀ b h, exec (.imgHdr port b h) s = .next s) ∧
      (∀ b d, exec (.imgBlk port b d) s = .next s)) ∧
    (∀ src gen tag, (∀ o n, exec (.dataReq src gen tag o n) s = .next s) ∧ (∀ o l c, exec (.dataR src gen tag o l c) s = .next s) ∧
      (∀ a b c d e, exec (.cpl src gen tag a b c d e) s = .next s) ∧ (∀ c, exec (.cancelReply src gen tag c) s = .next s) ∧
      (∀ l, exec (.resyncReply src gen l) s = .next s) ∧ (∀ o l c, exec (.dataW gen tag o l c) s = .next s) ∧
      (∀ r, exec (.cancel gen tag r) s = .next s) ∧ (∀ r, exec (.imgSts src r) s = .next s) ∧
      (∀ o v, exec (.regData src o v) s = .next s) ∧ (∀ n l, exec (.tally src n l) s = .next s)) ∧
    (∀ l, exec (.ack l) s = .next s) ∧ (∀ l, exec (.resync l) s = .next s) ∧ (∀ r, exec (.orphan r) s = .next s) ∧
    (∀ a, exec (.imgCommit a) s = .next s) ∧ (∀ o, exec (.regRd o) s = .next s) ∧ (∀ o v, exec (.regWr o v) s = .next s) ∧
    (∀ at_, let t := s.withM (s.m.advance at_)
      (∀ p, exec (.hitchTrainingRetry p at_) s = .next t ∧ exec (.keepaliveSend p at_) s = .next t ∧ exec (.keepalive p at_) s = .next t ∧
        exec (.keepaliveMiss p at_) s = .next t ∧ exec (.readmitTimer p at_) s = .next t) ∧
      (∀ a p k, exec (.linkDown a p k at_) s = .next t ∧ exec (.linkUp a p at_) s = .next t) ∧
      exec (.timeLossTimeout at_) s = .next t ∧ (∀ g p l b, exec (.time g p l b at_) s = .next t) ∧
      (∀ g tag p a r e, exec (.cmd g tag p a r e at_) s = .next t))

/-- 01 R70. -/
def Obligations.LateArrivalCompletesNothing : Prop :=
  ∀ (s : State) (late : Nat), exec (.lateArrival late) s = .next (s.withM { s.m with ybk := { s.m.ybk with
    queue := s.m.ybk.queue ++ [{ code := 0x0120, mag := late, src := 0, edge := s.m.clk.now }] } })

/-- Age promotion (01 R17, R20). The order among tasks promoted at once is that in which they passed their bounds. -/
def Obligations.PromotedTasksKeepTheirClass : Prop :=
  ∀ (x : Tine) (now : Nat),
    let old := fun (k : Task) => decide (k.since + ageBound k.lane * 3200 < now)
    (∃ moved, (x.promote now).l0 = x.l0 ++ moved ∧ moved.length = ((x.l1 ++ x.l2 ++ x.l3).filter old).length ∧
      (∀ k, k ∈ moved ↔ ∃ j ∈ x.l1 ++ x.l2 ++ x.l3, old j = true ∧ k = { j with lane := 0 }) ∧
      (∀ k ∈ moved, ∃ j ∈ x.l1 ++ x.l2 ++ x.l3, k.cls = j.cls ∧ k.kind = j.kind ∧ k.stamp = j.stamp ∧ k.since = j.since)) ∧
    (x.promote now).l1 = x.l1.filter (fun k => !old k) ∧ (x.promote now).l2 = x.l2.filter (fun k => !old k) ∧
    (x.promote now).l3 = x.l3.filter (fun k => !old k) ∧ (x.promote now).running = x.running ∧ (x.promote now).quar = x.quar

/-- Steals (01 R24 to R28). Which task the dispatcher gives is the model's reading (notes/assumptions/22). -/
def Obligations.StolenTaskIsUnchanged : Prop :=
  ∀ (s t : State) (tine at_ : Nat) (k : Task), exec (.steal tine at_) s = .next t → (s.m.tine tine).running = none →
    (t.m.tine tine).running = some k →
    let m := s.m.advanceOn .tine at_
    ((∃ v l, ∃ j ∈ (s.m.tine v).lane l, k = j.leave m.clk.now) ∨ ∃ j ∈ s.m.disp, k = (j.enter m.clk.now).leave m.clk.now) ∧
    t.m.front = s.m.front ∧ t = { s with m := { s.m with clk := m.clk, grid := m.grid, tines := t.m.tines, disp := t.m.disp } }

/-- Frames (01 R19 to R28, R32; 02 R116; 15 R622). -/
def Obligations.FramesOfTierAndQueueCommands : Prop :=
  (∀ (s t : State) (i at_ : Nat),
      (exec (.takeTask i false at_) s = .next t ∨ exec (.steal i at_) s = .next t ∨ exec (.agePromotion at_) s = .next t) →
      t = { s with m := { s.m with clk := (s.m.advanceOn .tine at_).clk, grid := (s.m.advanceOn .tine at_).grid, tines := t.m.tines, disp := t.m.disp, retry := t.m.retry,
                                   img := { s.m.img with hold := t.m.img.hold } } }) ∧
  (∀ (s t : State) (port p q v : Nat) (be : BitVec 4),
      (exec (.sqTailDoorbell port p q v be) s = .next t ∨ exec (.cqHeadDoorbell port p q v be) s = .next t) →
      t = { s with m := { s.m with front := t.m.front, power := t.m.power, ybk := t.m.ybk } } ∧
      t.m.front.inflight.length = s.m.front.inflight.length ∧ t.m.front.out = s.m.front.out) ∧
  (∀ (s t : State) (p q at_ : Nat), s.m.plots.bmeOff.contains p = false → exec (.completionPost p q false at_) s = .next t →
      t = { s with m := { s.m with clk := t.m.clk, grid := { s.m.grid with time := t.m.grid.time }, front := t.m.front, power := t.m.power,
                                   ybk := t.m.ybk, boot := t.m.boot, hub := { s.m.hub with intSts := t.m.hub.intSts },
                                   med := { s.m.med with beds := t.m.med.beds } } })

/-- Frames (13 R580; 11 R508 to R516; 14 R601 to R608). -/
def Obligations.FramesOfServiceAndSensorCommands : Prop :=
  (∀ (s t : State) (n : Nat), (exec (.polezIdentify n) s = .next t ∨ exec (.polezReadSensors n) s = .next t ∨
      (∃ b, exec (.polezReadYieldBook n b) s = .next t) ∨ (∃ b, exec (.polezReadTally n b) s = .next t) ∨
      (∃ b, exec (.polezPlotState n b) s = .next t) ∨ (∃ o, exec (.polezOpcodeNotSupported n o) s = .next t)) →
      t = { s with m := { s.m with polez := t.m.polez } }) ∧
  (∀ (s t : State) (n : Nat), exec (.polezFramingError n) s = .next t → t = { s with m := { s.m with polez := t.m.polez, ybk := t.m.ybk } }) ∧
  (∀ (s t : State), (exec .throttleEval s = .next t ∨ (∃ l, exec (.isnsSample l) s = .next t) ∨
      (∃ d a b r, exec (.diodeSelfCheck d a b r) s = .next t)) →
      t = { s with m := { s.m with heat := t.m.heat, ybk := t.m.ybk, hub := { s.m.hub with intSts := t.m.hub.intSts } } }) ∧
  (∀ (s t : State) (at_ : Nat), (exec (.timeBaseWrite at_) s = .next t ∨ (∃ c, exec (.persistIntervalEnd c at_) s = .next t)) →
      t = { s with m := { s.m with clk := t.m.clk, grid := (s.m.advance at_).grid, ybk := t.m.ybk } }) ∧
  (∀ (s t : State) (at_ : Nat), exec (.journalUnitProgram at_) s = .next t →
      t = { s with m := { s.m with clk := (s.m.advance at_).clk, grid := (s.m.advance at_).grid, ybk := t.m.ybk, tines := t.m.tines, disp := t.m.disp,
                                   retry := t.m.retry, img := { s.m.img with hold := t.m.img.hold }, med := { s.m.med with
                                     windows := t.m.med.windows, wp := t.m.med.wp, wants := t.m.med.wants, nextId := t.m.med.nextId } } })
end

