-- ==== Sys2Proof/Laws/State.lean ====
section
/-! SUPPORT. One lemma per field and update of the state, true by rfl: later proofs never unfold a record update. -/

namespace Sys2Proof.Machine

/-! ## The whole state -/

@[simp] theorem State.on_cfg (s : State) (f : Cfg → Mach → Mach) : (s.on f).cfg = s.cfg := rfl
@[simp] theorem State.on_m (s : State) (f : Cfg → Mach → Mach) : (s.on f).m = f s.cfg s.m := rfl
@[simp] theorem State.on_pending (s : State) (f : Cfg → Mach → Mach) : (s.on f).pending = s.pending := rfl

/-! ## onClk -/

@[simp] theorem Mach.onClk_clk (f : Clock → Clock) (m : Mach) : (m.onClk f).clk = f m.clk := rfl
@[simp] theorem Mach.onClk_hub (f : Clock → Clock) (m : Mach) : (m.onClk f).hub = m.hub := rfl
@[simp] theorem Mach.onClk_tines (f : Clock → Clock) (m : Mach) : (m.onClk f).tines = m.tines := rfl
@[simp] theorem Mach.onClk_disp (f : Clock → Clock) (m : Mach) : (m.onClk f).disp = m.disp := rfl
@[simp] theorem Mach.onClk_retry (f : Clock → Clock) (m : Mach) : (m.onClk f).retry = m.retry := rfl
@[simp] theorem Mach.onClk_front (f : Clock → Clock) (m : Mach) : (m.onClk f).front = m.front := rfl
@[simp] theorem Mach.onClk_med (f : Clock → Clock) (m : Mach) : (m.onClk f).med = m.med := rfl
@[simp] theorem Mach.onClk_grid (f : Clock → Clock) (m : Mach) : (m.onClk f).grid = m.grid := rfl
@[simp] theorem Mach.onClk_ports (f : Clock → Clock) (m : Mach) : (m.onClk f).ports = m.ports := rfl
@[simp] theorem Mach.onClk_stg (f : Clock → Clock) (m : Mach) : (m.onClk f).stg = m.stg := rfl
@[simp] theorem Mach.onClk_drill (f : Clock → Clock) (m : Mach) : (m.onClk f).drill = m.drill := rfl
@[simp] theorem Mach.onClk_plots (f : Clock → Clock) (m : Mach) : (m.onClk f).plots = m.plots := rfl
@[simp] theorem Mach.onClk_hitch (f : Clock → Clock) (m : Mach) : (m.onClk f).hitch = m.hitch := rfl
@[simp] theorem Mach.onClk_power (f : Clock → Clock) (m : Mach) : (m.onClk f).power = m.power := rfl
@[simp] theorem Mach.onClk_heat (f : Clock → Clock) (m : Mach) : (m.onClk f).heat = m.heat := rfl
@[simp] theorem Mach.onClk_boot (f : Clock → Clock) (m : Mach) : (m.onClk f).boot = m.boot := rfl
@[simp] theorem Mach.onClk_img (f : Clock → Clock) (m : Mach) : (m.onClk f).img = m.img := rfl
@[simp] theorem Mach.onClk_polez (f : Clock → Clock) (m : Mach) : (m.onClk f).polez = m.polez := rfl
@[simp] theorem Mach.onClk_ybk (f : Clock → Clock) (m : Mach) : (m.onClk f).ybk = m.ybk := rfl

/-! ## onHub -/

@[simp] theorem Mach.onHub_clk (f : Hub → Hub) (m : Mach) : (m.onHub f).clk = m.clk := rfl
@[simp] theorem Mach.onHub_hub (f : Hub → Hub) (m : Mach) : (m.onHub f).hub = f m.hub := rfl
@[simp] theorem Mach.onHub_tines (f : Hub → Hub) (m : Mach) : (m.onHub f).tines = m.tines := rfl
@[simp] theorem Mach.onHub_disp (f : Hub → Hub) (m : Mach) : (m.onHub f).disp = m.disp := rfl
@[simp] theorem Mach.onHub_retry (f : Hub → Hub) (m : Mach) : (m.onHub f).retry = m.retry := rfl
@[simp] theorem Mach.onHub_front (f : Hub → Hub) (m : Mach) : (m.onHub f).front = m.front := rfl
@[simp] theorem Mach.onHub_med (f : Hub → Hub) (m : Mach) : (m.onHub f).med = m.med := rfl
@[simp] theorem Mach.onHub_grid (f : Hub → Hub) (m : Mach) : (m.onHub f).grid = m.grid := rfl
@[simp] theorem Mach.onHub_ports (f : Hub → Hub) (m : Mach) : (m.onHub f).ports = m.ports := rfl
@[simp] theorem Mach.onHub_stg (f : Hub → Hub) (m : Mach) : (m.onHub f).stg = m.stg := rfl
@[simp] theorem Mach.onHub_drill (f : Hub → Hub) (m : Mach) : (m.onHub f).drill = m.drill := rfl
@[simp] theorem Mach.onHub_plots (f : Hub → Hub) (m : Mach) : (m.onHub f).plots = m.plots := rfl
@[simp] theorem Mach.onHub_hitch (f : Hub → Hub) (m : Mach) : (m.onHub f).hitch = m.hitch := rfl
@[simp] theorem Mach.onHub_power (f : Hub → Hub) (m : Mach) : (m.onHub f).power = m.power := rfl
@[simp] theorem Mach.onHub_heat (f : Hub → Hub) (m : Mach) : (m.onHub f).heat = m.heat := rfl
@[simp] theorem Mach.onHub_boot (f : Hub → Hub) (m : Mach) : (m.onHub f).boot = m.boot := rfl
@[simp] theorem Mach.onHub_img (f : Hub → Hub) (m : Mach) : (m.onHub f).img = m.img := rfl
@[simp] theorem Mach.onHub_polez (f : Hub → Hub) (m : Mach) : (m.onHub f).polez = m.polez := rfl
@[simp] theorem Mach.onHub_ybk (f : Hub → Hub) (m : Mach) : (m.onHub f).ybk = m.ybk := rfl

/-! ## onFront -/

@[simp] theorem Mach.onFront_clk (f : Front → Front) (m : Mach) : (m.onFront f).clk = m.clk := rfl
@[simp] theorem Mach.onFront_hub (f : Front → Front) (m : Mach) : (m.onFront f).hub = m.hub := rfl
@[simp] theorem Mach.onFront_tines (f : Front → Front) (m : Mach) : (m.onFront f).tines = m.tines := rfl
@[simp] theorem Mach.onFront_disp (f : Front → Front) (m : Mach) : (m.onFront f).disp = m.disp := rfl
@[simp] theorem Mach.onFront_retry (f : Front → Front) (m : Mach) : (m.onFront f).retry = m.retry := rfl
@[simp] theorem Mach.onFront_front (f : Front → Front) (m : Mach) : (m.onFront f).front = f m.front := rfl
@[simp] theorem Mach.onFront_med (f : Front → Front) (m : Mach) : (m.onFront f).med = m.med := rfl
@[simp] theorem Mach.onFront_grid (f : Front → Front) (m : Mach) : (m.onFront f).grid = m.grid := rfl
@[simp] theorem Mach.onFront_ports (f : Front → Front) (m : Mach) : (m.onFront f).ports = m.ports := rfl
@[simp] theorem Mach.onFront_stg (f : Front → Front) (m : Mach) : (m.onFront f).stg = m.stg := rfl
@[simp] theorem Mach.onFront_drill (f : Front → Front) (m : Mach) : (m.onFront f).drill = m.drill := rfl
@[simp] theorem Mach.onFront_plots (f : Front → Front) (m : Mach) : (m.onFront f).plots = m.plots := rfl
@[simp] theorem Mach.onFront_hitch (f : Front → Front) (m : Mach) : (m.onFront f).hitch = m.hitch := rfl
@[simp] theorem Mach.onFront_power (f : Front → Front) (m : Mach) : (m.onFront f).power = m.power := rfl
@[simp] theorem Mach.onFront_heat (f : Front → Front) (m : Mach) : (m.onFront f).heat = m.heat := rfl
@[simp] theorem Mach.onFront_boot (f : Front → Front) (m : Mach) : (m.onFront f).boot = m.boot := rfl
@[simp] theorem Mach.onFront_img (f : Front → Front) (m : Mach) : (m.onFront f).img = m.img := rfl
@[simp] theorem Mach.onFront_polez (f : Front → Front) (m : Mach) : (m.onFront f).polez = m.polez := rfl
@[simp] theorem Mach.onFront_ybk (f : Front → Front) (m : Mach) : (m.onFront f).ybk = m.ybk := rfl

/-! ## onMed -/

@[simp] theorem Mach.onMed_clk (f : Media → Media) (m : Mach) : (m.onMed f).clk = m.clk := rfl
@[simp] theorem Mach.onMed_hub (f : Media → Media) (m : Mach) : (m.onMed f).hub = m.hub := rfl
@[simp] theorem Mach.onMed_tines (f : Media → Media) (m : Mach) : (m.onMed f).tines = m.tines := rfl
@[simp] theorem Mach.onMed_disp (f : Media → Media) (m : Mach) : (m.onMed f).disp = m.disp := rfl
@[simp] theorem Mach.onMed_retry (f : Media → Media) (m : Mach) : (m.onMed f).retry = m.retry := rfl
@[simp] theorem Mach.onMed_front (f : Media → Media) (m : Mach) : (m.onMed f).front = m.front := rfl
@[simp] theorem Mach.onMed_med (f : Media → Media) (m : Mach) : (m.onMed f).med = f m.med := rfl
@[simp] theorem Mach.onMed_grid (f : Media → Media) (m : Mach) : (m.onMed f).grid = m.grid := rfl
@[simp] theorem Mach.onMed_ports (f : Media → Media) (m : Mach) : (m.onMed f).ports = m.ports := rfl
@[simp] theorem Mach.onMed_stg (f : Media → Media) (m : Mach) : (m.onMed f).stg = m.stg := rfl
@[simp] theorem Mach.onMed_drill (f : Media → Media) (m : Mach) : (m.onMed f).drill = m.drill := rfl
@[simp] theorem Mach.onMed_plots (f : Media → Media) (m : Mach) : (m.onMed f).plots = m.plots := rfl
@[simp] theorem Mach.onMed_hitch (f : Media → Media) (m : Mach) : (m.onMed f).hitch = m.hitch := rfl
@[simp] theorem Mach.onMed_power (f : Media → Media) (m : Mach) : (m.onMed f).power = m.power := rfl
@[simp] theorem Mach.onMed_heat (f : Media → Media) (m : Mach) : (m.onMed f).heat = m.heat := rfl
@[simp] theorem Mach.onMed_boot (f : Media → Media) (m : Mach) : (m.onMed f).boot = m.boot := rfl
@[simp] theorem Mach.onMed_img (f : Media → Media) (m : Mach) : (m.onMed f).img = m.img := rfl
@[simp] theorem Mach.onMed_polez (f : Media → Media) (m : Mach) : (m.onMed f).polez = m.polez := rfl
@[simp] theorem Mach.onMed_ybk (f : Media → Media) (m : Mach) : (m.onMed f).ybk = m.ybk := rfl

/-! ## onGrid -/

@[simp] theorem Mach.onGrid_clk (f : Grid → Grid) (m : Mach) : (m.onGrid f).clk = m.clk := rfl
@[simp] theorem Mach.onGrid_hub (f : Grid → Grid) (m : Mach) : (m.onGrid f).hub = m.hub := rfl
@[simp] theorem Mach.onGrid_tines (f : Grid → Grid) (m : Mach) : (m.onGrid f).tines = m.tines := rfl
@[simp] theorem Mach.onGrid_disp (f : Grid → Grid) (m : Mach) : (m.onGrid f).disp = m.disp := rfl
@[simp] theorem Mach.onGrid_retry (f : Grid → Grid) (m : Mach) : (m.onGrid f).retry = m.retry := rfl
@[simp] theorem Mach.onGrid_front (f : Grid → Grid) (m : Mach) : (m.onGrid f).front = m.front := rfl
@[simp] theorem Mach.onGrid_med (f : Grid → Grid) (m : Mach) : (m.onGrid f).med = m.med := rfl
@[simp] theorem Mach.onGrid_grid (f : Grid → Grid) (m : Mach) : (m.onGrid f).grid = f m.grid := rfl
@[simp] theorem Mach.onGrid_ports (f : Grid → Grid) (m : Mach) : (m.onGrid f).ports = m.ports := rfl
@[simp] theorem Mach.onGrid_stg (f : Grid → Grid) (m : Mach) : (m.onGrid f).stg = m.stg := rfl
@[simp] theorem Mach.onGrid_drill (f : Grid → Grid) (m : Mach) : (m.onGrid f).drill = m.drill := rfl
@[simp] theorem Mach.onGrid_plots (f : Grid → Grid) (m : Mach) : (m.onGrid f).plots = m.plots := rfl
@[simp] theorem Mach.onGrid_hitch (f : Grid → Grid) (m : Mach) : (m.onGrid f).hitch = m.hitch := rfl
@[simp] theorem Mach.onGrid_power (f : Grid → Grid) (m : Mach) : (m.onGrid f).power = m.power := rfl
@[simp] theorem Mach.onGrid_heat (f : Grid → Grid) (m : Mach) : (m.onGrid f).heat = m.heat := rfl
@[simp] theorem Mach.onGrid_boot (f : Grid → Grid) (m : Mach) : (m.onGrid f).boot = m.boot := rfl
@[simp] theorem Mach.onGrid_img (f : Grid → Grid) (m : Mach) : (m.onGrid f).img = m.img := rfl
@[simp] theorem Mach.onGrid_polez (f : Grid → Grid) (m : Mach) : (m.onGrid f).polez = m.polez := rfl
@[simp] theorem Mach.onGrid_ybk (f : Grid → Grid) (m : Mach) : (m.onGrid f).ybk = m.ybk := rfl

/-! ## onStg -/

@[simp] theorem Mach.onStg_clk (f : Staging → Staging) (m : Mach) : (m.onStg f).clk = m.clk := rfl
@[simp] theorem Mach.onStg_hub (f : Staging → Staging) (m : Mach) : (m.onStg f).hub = m.hub := rfl
@[simp] theorem Mach.onStg_tines (f : Staging → Staging) (m : Mach) : (m.onStg f).tines = m.tines := rfl
@[simp] theorem Mach.onStg_disp (f : Staging → Staging) (m : Mach) : (m.onStg f).disp = m.disp := rfl
@[simp] theorem Mach.onStg_retry (f : Staging → Staging) (m : Mach) : (m.onStg f).retry = m.retry := rfl
@[simp] theorem Mach.onStg_front (f : Staging → Staging) (m : Mach) : (m.onStg f).front = m.front := rfl
@[simp] theorem Mach.onStg_med (f : Staging → Staging) (m : Mach) : (m.onStg f).med = m.med := rfl
@[simp] theorem Mach.onStg_grid (f : Staging → Staging) (m : Mach) : (m.onStg f).grid = m.grid := rfl
@[simp] theorem Mach.onStg_ports (f : Staging → Staging) (m : Mach) : (m.onStg f).ports = m.ports := rfl
@[simp] theorem Mach.onStg_stg (f : Staging → Staging) (m : Mach) : (m.onStg f).stg = f m.stg := rfl
@[simp] theorem Mach.onStg_drill (f : Staging → Staging) (m : Mach) : (m.onStg f).drill = m.drill := rfl
@[simp] theorem Mach.onStg_plots (f : Staging → Staging) (m : Mach) : (m.onStg f).plots = m.plots := rfl
@[simp] theorem Mach.onStg_hitch (f : Staging → Staging) (m : Mach) : (m.onStg f).hitch = m.hitch := rfl
@[simp] theorem Mach.onStg_power (f : Staging → Staging) (m : Mach) : (m.onStg f).power = m.power := rfl
@[simp] theorem Mach.onStg_heat (f : Staging → Staging) (m : Mach) : (m.onStg f).heat = m.heat := rfl
@[simp] theorem Mach.onStg_boot (f : Staging → Staging) (m : Mach) : (m.onStg f).boot = m.boot := rfl
@[simp] theorem Mach.onStg_img (f : Staging → Staging) (m : Mach) : (m.onStg f).img = m.img := rfl
@[simp] theorem Mach.onStg_polez (f : Staging → Staging) (m : Mach) : (m.onStg f).polez = m.polez := rfl
@[simp] theorem Mach.onStg_ybk (f : Staging → Staging) (m : Mach) : (m.onStg f).ybk = m.ybk := rfl

/-! ## onPlots -/

@[simp] theorem Mach.onPlots_clk (f : Plots → Plots) (m : Mach) : (m.onPlots f).clk = m.clk := rfl
@[simp] theorem Mach.onPlots_hub (f : Plots → Plots) (m : Mach) : (m.onPlots f).hub = m.hub := rfl
@[simp] theorem Mach.onPlots_tines (f : Plots → Plots) (m : Mach) : (m.onPlots f).tines = m.tines := rfl
@[simp] theorem Mach.onPlots_disp (f : Plots → Plots) (m : Mach) : (m.onPlots f).disp = m.disp := rfl
@[simp] theorem Mach.onPlots_retry (f : Plots → Plots) (m : Mach) : (m.onPlots f).retry = m.retry := rfl
@[simp] theorem Mach.onPlots_front (f : Plots → Plots) (m : Mach) : (m.onPlots f).front = m.front := rfl
@[simp] theorem Mach.onPlots_med (f : Plots → Plots) (m : Mach) : (m.onPlots f).med = m.med := rfl
@[simp] theorem Mach.onPlots_grid (f : Plots → Plots) (m : Mach) : (m.onPlots f).grid = m.grid := rfl
@[simp] theorem Mach.onPlots_ports (f : Plots → Plots) (m : Mach) : (m.onPlots f).ports = m.ports := rfl
@[simp] theorem Mach.onPlots_stg (f : Plots → Plots) (m : Mach) : (m.onPlots f).stg = m.stg := rfl
@[simp] theorem Mach.onPlots_drill (f : Plots → Plots) (m : Mach) : (m.onPlots f).drill = m.drill := rfl
@[simp] theorem Mach.onPlots_plots (f : Plots → Plots) (m : Mach) : (m.onPlots f).plots = f m.plots := rfl
@[simp] theorem Mach.onPlots_hitch (f : Plots → Plots) (m : Mach) : (m.onPlots f).hitch = m.hitch := rfl
@[simp] theorem Mach.onPlots_power (f : Plots → Plots) (m : Mach) : (m.onPlots f).power = m.power := rfl
@[simp] theorem Mach.onPlots_heat (f : Plots → Plots) (m : Mach) : (m.onPlots f).heat = m.heat := rfl
@[simp] theorem Mach.onPlots_boot (f : Plots → Plots) (m : Mach) : (m.onPlots f).boot = m.boot := rfl
@[simp] theorem Mach.onPlots_img (f : Plots → Plots) (m : Mach) : (m.onPlots f).img = m.img := rfl
@[simp] theorem Mach.onPlots_polez (f : Plots → Plots) (m : Mach) : (m.onPlots f).polez = m.polez := rfl
@[simp] theorem Mach.onPlots_ybk (f : Plots → Plots) (m : Mach) : (m.onPlots f).ybk = m.ybk := rfl

/-! ## onHitch -/

@[simp] theorem Mach.onHitch_clk (f : Hitch → Hitch) (m : Mach) : (m.onHitch f).clk = m.clk := rfl
@[simp] theorem Mach.onHitch_hub (f : Hitch → Hitch) (m : Mach) : (m.onHitch f).hub = m.hub := rfl
@[simp] theorem Mach.onHitch_tines (f : Hitch → Hitch) (m : Mach) : (m.onHitch f).tines = m.tines := rfl
@[simp] theorem Mach.onHitch_disp (f : Hitch → Hitch) (m : Mach) : (m.onHitch f).disp = m.disp := rfl
@[simp] theorem Mach.onHitch_retry (f : Hitch → Hitch) (m : Mach) : (m.onHitch f).retry = m.retry := rfl
@[simp] theorem Mach.onHitch_front (f : Hitch → Hitch) (m : Mach) : (m.onHitch f).front = m.front := rfl
@[simp] theorem Mach.onHitch_med (f : Hitch → Hitch) (m : Mach) : (m.onHitch f).med = m.med := rfl
@[simp] theorem Mach.onHitch_grid (f : Hitch → Hitch) (m : Mach) : (m.onHitch f).grid = m.grid := rfl
@[simp] theorem Mach.onHitch_ports (f : Hitch → Hitch) (m : Mach) : (m.onHitch f).ports = m.ports := rfl
@[simp] theorem Mach.onHitch_stg (f : Hitch → Hitch) (m : Mach) : (m.onHitch f).stg = m.stg := rfl
@[simp] theorem Mach.onHitch_drill (f : Hitch → Hitch) (m : Mach) : (m.onHitch f).drill = m.drill := rfl
@[simp] theorem Mach.onHitch_plots (f : Hitch → Hitch) (m : Mach) : (m.onHitch f).plots = m.plots := rfl
@[simp] theorem Mach.onHitch_hitch (f : Hitch → Hitch) (m : Mach) : (m.onHitch f).hitch = f m.hitch := rfl
@[simp] theorem Mach.onHitch_power (f : Hitch → Hitch) (m : Mach) : (m.onHitch f).power = m.power := rfl
@[simp] theorem Mach.onHitch_heat (f : Hitch → Hitch) (m : Mach) : (m.onHitch f).heat = m.heat := rfl
@[simp] theorem Mach.onHitch_boot (f : Hitch → Hitch) (m : Mach) : (m.onHitch f).boot = m.boot := rfl
@[simp] theorem Mach.onHitch_img (f : Hitch → Hitch) (m : Mach) : (m.onHitch f).img = m.img := rfl
@[simp] theorem Mach.onHitch_polez (f : Hitch → Hitch) (m : Mach) : (m.onHitch f).polez = m.polez := rfl
@[simp] theorem Mach.onHitch_ybk (f : Hitch → Hitch) (m : Mach) : (m.onHitch f).ybk = m.ybk := rfl

/-! ## onPower -/

@[simp] theorem Mach.onPower_clk (f : Power → Power) (m : Mach) : (m.onPower f).clk = m.clk := rfl
@[simp] theorem Mach.onPower_hub (f : Power → Power) (m : Mach) : (m.onPower f).hub = m.hub := rfl
@[simp] theorem Mach.onPower_tines (f : Power → Power) (m : Mach) : (m.onPower f).tines = m.tines := rfl
@[simp] theorem Mach.onPower_disp (f : Power → Power) (m : Mach) : (m.onPower f).disp = m.disp := rfl
@[simp] theorem Mach.onPower_retry (f : Power → Power) (m : Mach) : (m.onPower f).retry = m.retry := rfl
@[simp] theorem Mach.onPower_front (f : Power → Power) (m : Mach) : (m.onPower f).front = m.front := rfl
@[simp] theorem Mach.onPower_med (f : Power → Power) (m : Mach) : (m.onPower f).med = m.med := rfl
@[simp] theorem Mach.onPower_grid (f : Power → Power) (m : Mach) : (m.onPower f).grid = m.grid := rfl
@[simp] theorem Mach.onPower_ports (f : Power → Power) (m : Mach) : (m.onPower f).ports = m.ports := rfl
@[simp] theorem Mach.onPower_stg (f : Power → Power) (m : Mach) : (m.onPower f).stg = m.stg := rfl
@[simp] theorem Mach.onPower_drill (f : Power → Power) (m : Mach) : (m.onPower f).drill = m.drill := rfl
@[simp] theorem Mach.onPower_plots (f : Power → Power) (m : Mach) : (m.onPower f).plots = m.plots := rfl
@[simp] theorem Mach.onPower_hitch (f : Power → Power) (m : Mach) : (m.onPower f).hitch = m.hitch := rfl
@[simp] theorem Mach.onPower_power (f : Power → Power) (m : Mach) : (m.onPower f).power = f m.power := rfl
@[simp] theorem Mach.onPower_heat (f : Power → Power) (m : Mach) : (m.onPower f).heat = m.heat := rfl
@[simp] theorem Mach.onPower_boot (f : Power → Power) (m : Mach) : (m.onPower f).boot = m.boot := rfl
@[simp] theorem Mach.onPower_img (f : Power → Power) (m : Mach) : (m.onPower f).img = m.img := rfl
@[simp] theorem Mach.onPower_polez (f : Power → Power) (m : Mach) : (m.onPower f).polez = m.polez := rfl
@[simp] theorem Mach.onPower_ybk (f : Power → Power) (m : Mach) : (m.onPower f).ybk = m.ybk := rfl

/-! ## onHeat -/

@[simp] theorem Mach.onHeat_clk (f : Heat → Heat) (m : Mach) : (m.onHeat f).clk = m.clk := rfl
@[simp] theorem Mach.onHeat_hub (f : Heat → Heat) (m : Mach) : (m.onHeat f).hub = m.hub := rfl
@[simp] theorem Mach.onHeat_tines (f : Heat → Heat) (m : Mach) : (m.onHeat f).tines = m.tines := rfl
@[simp] theorem Mach.onHeat_disp (f : Heat → Heat) (m : Mach) : (m.onHeat f).disp = m.disp := rfl
@[simp] theorem Mach.onHeat_retry (f : Heat → Heat) (m : Mach) : (m.onHeat f).retry = m.retry := rfl
@[simp] theorem Mach.onHeat_front (f : Heat → Heat) (m : Mach) : (m.onHeat f).front = m.front := rfl
@[simp] theorem Mach.onHeat_med (f : Heat → Heat) (m : Mach) : (m.onHeat f).med = m.med := rfl
@[simp] theorem Mach.onHeat_grid (f : Heat → Heat) (m : Mach) : (m.onHeat f).grid = m.grid := rfl
@[simp] theorem Mach.onHeat_ports (f : Heat → Heat) (m : Mach) : (m.onHeat f).ports = m.ports := rfl
@[simp] theorem Mach.onHeat_stg (f : Heat → Heat) (m : Mach) : (m.onHeat f).stg = m.stg := rfl
@[simp] theorem Mach.onHeat_drill (f : Heat → Heat) (m : Mach) : (m.onHeat f).drill = m.drill := rfl
@[simp] theorem Mach.onHeat_plots (f : Heat → Heat) (m : Mach) : (m.onHeat f).plots = m.plots := rfl
@[simp] theorem Mach.onHeat_hitch (f : Heat → Heat) (m : Mach) : (m.onHeat f).hitch = m.hitch := rfl
@[simp] theorem Mach.onHeat_power (f : Heat → Heat) (m : Mach) : (m.onHeat f).power = m.power := rfl
@[simp] theorem Mach.onHeat_heat (f : Heat → Heat) (m : Mach) : (m.onHeat f).heat = f m.heat := rfl
@[simp] theorem Mach.onHeat_boot (f : Heat → Heat) (m : Mach) : (m.onHeat f).boot = m.boot := rfl
@[simp] theorem Mach.onHeat_img (f : Heat → Heat) (m : Mach) : (m.onHeat f).img = m.img := rfl
@[simp] theorem Mach.onHeat_polez (f : Heat → Heat) (m : Mach) : (m.onHeat f).polez = m.polez := rfl
@[simp] theorem Mach.onHeat_ybk (f : Heat → Heat) (m : Mach) : (m.onHeat f).ybk = m.ybk := rfl

/-! ## onBoot -/

@[simp] theorem Mach.onBoot_clk (f : Boot → Boot) (m : Mach) : (m.onBoot f).clk = m.clk := rfl
@[simp] theorem Mach.onBoot_hub (f : Boot → Boot) (m : Mach) : (m.onBoot f).hub = m.hub := rfl
@[simp] theorem Mach.onBoot_tines (f : Boot → Boot) (m : Mach) : (m.onBoot f).tines = m.tines := rfl
@[simp] theorem Mach.onBoot_disp (f : Boot → Boot) (m : Mach) : (m.onBoot f).disp = m.disp := rfl
@[simp] theorem Mach.onBoot_retry (f : Boot → Boot) (m : Mach) : (m.onBoot f).retry = m.retry := rfl
@[simp] theorem Mach.onBoot_front (f : Boot → Boot) (m : Mach) : (m.onBoot f).front = m.front := rfl
@[simp] theorem Mach.onBoot_med (f : Boot → Boot) (m : Mach) : (m.onBoot f).med = m.med := rfl
@[simp] theorem Mach.onBoot_grid (f : Boot → Boot) (m : Mach) : (m.onBoot f).grid = m.grid := rfl
@[simp] theorem Mach.onBoot_ports (f : Boot → Boot) (m : Mach) : (m.onBoot f).ports = m.ports := rfl
@[simp] theorem Mach.onBoot_stg (f : Boot → Boot) (m : Mach) : (m.onBoot f).stg = m.stg := rfl
@[simp] theorem Mach.onBoot_drill (f : Boot → Boot) (m : Mach) : (m.onBoot f).drill = m.drill := rfl
@[simp] theorem Mach.onBoot_plots (f : Boot → Boot) (m : Mach) : (m.onBoot f).plots = m.plots := rfl
@[simp] theorem Mach.onBoot_hitch (f : Boot → Boot) (m : Mach) : (m.onBoot f).hitch = m.hitch := rfl
@[simp] theorem Mach.onBoot_power (f : Boot → Boot) (m : Mach) : (m.onBoot f).power = m.power := rfl
@[simp] theorem Mach.onBoot_heat (f : Boot → Boot) (m : Mach) : (m.onBoot f).heat = m.heat := rfl
@[simp] theorem Mach.onBoot_boot (f : Boot → Boot) (m : Mach) : (m.onBoot f).boot = f m.boot := rfl
@[simp] theorem Mach.onBoot_img (f : Boot → Boot) (m : Mach) : (m.onBoot f).img = m.img := rfl
@[simp] theorem Mach.onBoot_polez (f : Boot → Boot) (m : Mach) : (m.onBoot f).polez = m.polez := rfl
@[simp] theorem Mach.onBoot_ybk (f : Boot → Boot) (m : Mach) : (m.onBoot f).ybk = m.ybk := rfl

/-! ## onImg -/

@[simp] theorem Mach.onImg_clk (f : Img → Img) (m : Mach) : (m.onImg f).clk = m.clk := rfl
@[simp] theorem Mach.onImg_hub (f : Img → Img) (m : Mach) : (m.onImg f).hub = m.hub := rfl
@[simp] theorem Mach.onImg_tines (f : Img → Img) (m : Mach) : (m.onImg f).tines = m.tines := rfl
@[simp] theorem Mach.onImg_disp (f : Img → Img) (m : Mach) : (m.onImg f).disp = m.disp := rfl
@[simp] theorem Mach.onImg_retry (f : Img → Img) (m : Mach) : (m.onImg f).retry = m.retry := rfl
@[simp] theorem Mach.onImg_front (f : Img → Img) (m : Mach) : (m.onImg f).front = m.front := rfl
@[simp] theorem Mach.onImg_med (f : Img → Img) (m : Mach) : (m.onImg f).med = m.med := rfl
@[simp] theorem Mach.onImg_grid (f : Img → Img) (m : Mach) : (m.onImg f).grid = m.grid := rfl
@[simp] theorem Mach.onImg_ports (f : Img → Img) (m : Mach) : (m.onImg f).ports = m.ports := rfl
@[simp] theorem Mach.onImg_stg (f : Img → Img) (m : Mach) : (m.onImg f).stg = m.stg := rfl
@[simp] theorem Mach.onImg_drill (f : Img → Img) (m : Mach) : (m.onImg f).drill = m.drill := rfl
@[simp] theorem Mach.onImg_plots (f : Img → Img) (m : Mach) : (m.onImg f).plots = m.plots := rfl
@[simp] theorem Mach.onImg_hitch (f : Img → Img) (m : Mach) : (m.onImg f).hitch = m.hitch := rfl
@[simp] theorem Mach.onImg_power (f : Img → Img) (m : Mach) : (m.onImg f).power = m.power := rfl
@[simp] theorem Mach.onImg_heat (f : Img → Img) (m : Mach) : (m.onImg f).heat = m.heat := rfl
@[simp] theorem Mach.onImg_boot (f : Img → Img) (m : Mach) : (m.onImg f).boot = m.boot := rfl
@[simp] theorem Mach.onImg_img (f : Img → Img) (m : Mach) : (m.onImg f).img = f m.img := rfl
@[simp] theorem Mach.onImg_polez (f : Img → Img) (m : Mach) : (m.onImg f).polez = m.polez := rfl
@[simp] theorem Mach.onImg_ybk (f : Img → Img) (m : Mach) : (m.onImg f).ybk = m.ybk := rfl

/-! ## onPolez -/

@[simp] theorem Mach.onPolez_clk (f : Polez → Polez) (m : Mach) : (m.onPolez f).clk = m.clk := rfl
@[simp] theorem Mach.onPolez_hub (f : Polez → Polez) (m : Mach) : (m.onPolez f).hub = m.hub := rfl
@[simp] theorem Mach.onPolez_tines (f : Polez → Polez) (m : Mach) : (m.onPolez f).tines = m.tines := rfl
@[simp] theorem Mach.onPolez_disp (f : Polez → Polez) (m : Mach) : (m.onPolez f).disp = m.disp := rfl
@[simp] theorem Mach.onPolez_retry (f : Polez → Polez) (m : Mach) : (m.onPolez f).retry = m.retry := rfl
@[simp] theorem Mach.onPolez_front (f : Polez → Polez) (m : Mach) : (m.onPolez f).front = m.front := rfl
@[simp] theorem Mach.onPolez_med (f : Polez → Polez) (m : Mach) : (m.onPolez f).med = m.med := rfl
@[simp] theorem Mach.onPolez_grid (f : Polez → Polez) (m : Mach) : (m.onPolez f).grid = m.grid := rfl
@[simp] theorem Mach.onPolez_ports (f : Polez → Polez) (m : Mach) : (m.onPolez f).ports = m.ports := rfl
@[simp] theorem Mach.onPolez_stg (f : Polez → Polez) (m : Mach) : (m.onPolez f).stg = m.stg := rfl
@[simp] theorem Mach.onPolez_drill (f : Polez → Polez) (m : Mach) : (m.onPolez f).drill = m.drill := rfl
@[simp] theorem Mach.onPolez_plots (f : Polez → Polez) (m : Mach) : (m.onPolez f).plots = m.plots := rfl
@[simp] theorem Mach.onPolez_hitch (f : Polez → Polez) (m : Mach) : (m.onPolez f).hitch = m.hitch := rfl
@[simp] theorem Mach.onPolez_power (f : Polez → Polez) (m : Mach) : (m.onPolez f).power = m.power := rfl
@[simp] theorem Mach.onPolez_heat (f : Polez → Polez) (m : Mach) : (m.onPolez f).heat = m.heat := rfl
@[simp] theorem Mach.onPolez_boot (f : Polez → Polez) (m : Mach) : (m.onPolez f).boot = m.boot := rfl
@[simp] theorem Mach.onPolez_img (f : Polez → Polez) (m : Mach) : (m.onPolez f).img = m.img := rfl
@[simp] theorem Mach.onPolez_polez (f : Polez → Polez) (m : Mach) : (m.onPolez f).polez = f m.polez := rfl
@[simp] theorem Mach.onPolez_ybk (f : Polez → Polez) (m : Mach) : (m.onPolez f).ybk = m.ybk := rfl

/-! ## onYbk -/

@[simp] theorem Mach.onYbk_clk (f : Ybk → Ybk) (m : Mach) : (m.onYbk f).clk = m.clk := rfl
@[simp] theorem Mach.onYbk_hub (f : Ybk → Ybk) (m : Mach) : (m.onYbk f).hub = m.hub := rfl
@[simp] theorem Mach.onYbk_tines (f : Ybk → Ybk) (m : Mach) : (m.onYbk f).tines = m.tines := rfl
@[simp] theorem Mach.onYbk_disp (f : Ybk → Ybk) (m : Mach) : (m.onYbk f).disp = m.disp := rfl
@[simp] theorem Mach.onYbk_retry (f : Ybk → Ybk) (m : Mach) : (m.onYbk f).retry = m.retry := rfl
@[simp] theorem Mach.onYbk_front (f : Ybk → Ybk) (m : Mach) : (m.onYbk f).front = m.front := rfl
@[simp] theorem Mach.onYbk_med (f : Ybk → Ybk) (m : Mach) : (m.onYbk f).med = m.med := rfl
@[simp] theorem Mach.onYbk_grid (f : Ybk → Ybk) (m : Mach) : (m.onYbk f).grid = m.grid := rfl
@[simp] theorem Mach.onYbk_ports (f : Ybk → Ybk) (m : Mach) : (m.onYbk f).ports = m.ports := rfl
@[simp] theorem Mach.onYbk_stg (f : Ybk → Ybk) (m : Mach) : (m.onYbk f).stg = m.stg := rfl
@[simp] theorem Mach.onYbk_drill (f : Ybk → Ybk) (m : Mach) : (m.onYbk f).drill = m.drill := rfl
@[simp] theorem Mach.onYbk_plots (f : Ybk → Ybk) (m : Mach) : (m.onYbk f).plots = m.plots := rfl
@[simp] theorem Mach.onYbk_hitch (f : Ybk → Ybk) (m : Mach) : (m.onYbk f).hitch = m.hitch := rfl
@[simp] theorem Mach.onYbk_power (f : Ybk → Ybk) (m : Mach) : (m.onYbk f).power = m.power := rfl
@[simp] theorem Mach.onYbk_heat (f : Ybk → Ybk) (m : Mach) : (m.onYbk f).heat = m.heat := rfl
@[simp] theorem Mach.onYbk_boot (f : Ybk → Ybk) (m : Mach) : (m.onYbk f).boot = m.boot := rfl
@[simp] theorem Mach.onYbk_img (f : Ybk → Ybk) (m : Mach) : (m.onYbk f).img = m.img := rfl
@[simp] theorem Mach.onYbk_polez (f : Ybk → Ybk) (m : Mach) : (m.onYbk f).polez = m.polez := rfl
@[simp] theorem Mach.onYbk_ybk (f : Ybk → Ybk) (m : Mach) : (m.onYbk f).ybk = f m.ybk := rfl

/-! ## updPlot -/

@[simp] theorem Mach.updPlot_clk (k : Nat) (f : Plot → Plot) (m : Mach) : (m.updPlot k f).clk = m.clk := rfl
@[simp] theorem Mach.updPlot_hub (k : Nat) (f : Plot → Plot) (m : Mach) : (m.updPlot k f).hub = m.hub := rfl
@[simp] theorem Mach.updPlot_tines (k : Nat) (f : Plot → Plot) (m : Mach) : (m.updPlot k f).tines = m.tines := rfl
@[simp] theorem Mach.updPlot_disp (k : Nat) (f : Plot → Plot) (m : Mach) : (m.updPlot k f).disp = m.disp := rfl
@[simp] theorem Mach.updPlot_retry (k : Nat) (f : Plot → Plot) (m : Mach) : (m.updPlot k f).retry = m.retry := rfl
@[simp] theorem Mach.updPlot_front (k : Nat) (f : Plot → Plot) (m : Mach) : (m.updPlot k f).front = m.front := rfl
@[simp] theorem Mach.updPlot_med (k : Nat) (f : Plot → Plot) (m : Mach) : (m.updPlot k f).med = m.med := rfl
@[simp] theorem Mach.updPlot_grid (k : Nat) (f : Plot → Plot) (m : Mach) : (m.updPlot k f).grid = m.grid := rfl
@[simp] theorem Mach.updPlot_ports (k : Nat) (f : Plot → Plot) (m : Mach) : (m.updPlot k f).ports = m.ports := rfl
@[simp] theorem Mach.updPlot_stg (k : Nat) (f : Plot → Plot) (m : Mach) : (m.updPlot k f).stg = m.stg := rfl
@[simp] theorem Mach.updPlot_drill (k : Nat) (f : Plot → Plot) (m : Mach) : (m.updPlot k f).drill = m.drill := rfl
@[simp] theorem Mach.updPlot_hitch (k : Nat) (f : Plot → Plot) (m : Mach) : (m.updPlot k f).hitch = m.hitch := rfl
@[simp] theorem Mach.updPlot_power (k : Nat) (f : Plot → Plot) (m : Mach) : (m.updPlot k f).power = m.power := rfl
@[simp] theorem Mach.updPlot_heat (k : Nat) (f : Plot → Plot) (m : Mach) : (m.updPlot k f).heat = m.heat := rfl
@[simp] theorem Mach.updPlot_boot (k : Nat) (f : Plot → Plot) (m : Mach) : (m.updPlot k f).boot = m.boot := rfl
@[simp] theorem Mach.updPlot_img (k : Nat) (f : Plot → Plot) (m : Mach) : (m.updPlot k f).img = m.img := rfl
@[simp] theorem Mach.updPlot_polez (k : Nat) (f : Plot → Plot) (m : Mach) : (m.updPlot k f).polez = m.polez := rfl
@[simp] theorem Mach.updPlot_ybk (k : Nat) (f : Plot → Plot) (m : Mach) : (m.updPlot k f).ybk = m.ybk := rfl

/-! ## updBar0 -/

@[simp] theorem Mach.updBar0_clk (k : Nat) (f : Bar0 → Bar0) (m : Mach) : (m.updBar0 k f).clk = m.clk := rfl
@[simp] theorem Mach.updBar0_hub (k : Nat) (f : Bar0 → Bar0) (m : Mach) : (m.updBar0 k f).hub = m.hub := rfl
@[simp] theorem Mach.updBar0_tines (k : Nat) (f : Bar0 → Bar0) (m : Mach) : (m.updBar0 k f).tines = m.tines := rfl
@[simp] theorem Mach.updBar0_disp (k : Nat) (f : Bar0 → Bar0) (m : Mach) : (m.updBar0 k f).disp = m.disp := rfl
@[simp] theorem Mach.updBar0_retry (k : Nat) (f : Bar0 → Bar0) (m : Mach) : (m.updBar0 k f).retry = m.retry := rfl
@[simp] theorem Mach.updBar0_med (k : Nat) (f : Bar0 → Bar0) (m : Mach) : (m.updBar0 k f).med = m.med := rfl
@[simp] theorem Mach.updBar0_grid (k : Nat) (f : Bar0 → Bar0) (m : Mach) : (m.updBar0 k f).grid = m.grid := rfl
@[simp] theorem Mach.updBar0_ports (k : Nat) (f : Bar0 → Bar0) (m : Mach) : (m.updBar0 k f).ports = m.ports := rfl
@[simp] theorem Mach.updBar0_stg (k : Nat) (f : Bar0 → Bar0) (m : Mach) : (m.updBar0 k f).stg = m.stg := rfl
@[simp] theorem Mach.updBar0_drill (k : Nat) (f : Bar0 → Bar0) (m : Mach) : (m.updBar0 k f).drill = m.drill := rfl
@[simp] theorem Mach.updBar0_plots (k : Nat) (f : Bar0 → Bar0) (m : Mach) : (m.updBar0 k f).plots = m.plots := rfl
@[simp] theorem Mach.updBar0_hitch (k : Nat) (f : Bar0 → Bar0) (m : Mach) : (m.updBar0 k f).hitch = m.hitch := rfl
@[simp] theorem Mach.updBar0_power (k : Nat) (f : Bar0 → Bar0) (m : Mach) : (m.updBar0 k f).power = m.power := rfl
@[simp] theorem Mach.updBar0_heat (k : Nat) (f : Bar0 → Bar0) (m : Mach) : (m.updBar0 k f).heat = m.heat := rfl
@[simp] theorem Mach.updBar0_boot (k : Nat) (f : Bar0 → Bar0) (m : Mach) : (m.updBar0 k f).boot = m.boot := rfl
@[simp] theorem Mach.updBar0_img (k : Nat) (f : Bar0 → Bar0) (m : Mach) : (m.updBar0 k f).img = m.img := rfl
@[simp] theorem Mach.updBar0_polez (k : Nat) (f : Bar0 → Bar0) (m : Mach) : (m.updBar0 k f).polez = m.polez := rfl
@[simp] theorem Mach.updBar0_ybk (k : Nat) (f : Bar0 → Bar0) (m : Mach) : (m.updBar0 k f).ybk = m.ybk := rfl

/-! ## updNs -/

@[simp] theorem Mach.updNs_clk (k : Nat) (f : Ns → Ns) (m : Mach) : (m.updNs k f).clk = m.clk := rfl
@[simp] theorem Mach.updNs_hub (k : Nat) (f : Ns → Ns) (m : Mach) : (m.updNs k f).hub = m.hub := rfl
@[simp] theorem Mach.updNs_tines (k : Nat) (f : Ns → Ns) (m : Mach) : (m.updNs k f).tines = m.tines := rfl
@[simp] theorem Mach.updNs_disp (k : Nat) (f : Ns → Ns) (m : Mach) : (m.updNs k f).disp = m.disp := rfl
@[simp] theorem Mach.updNs_retry (k : Nat) (f : Ns → Ns) (m : Mach) : (m.updNs k f).retry = m.retry := rfl
@[simp] theorem Mach.updNs_front (k : Nat) (f : Ns → Ns) (m : Mach) : (m.updNs k f).front = m.front := rfl
@[simp] theorem Mach.updNs_grid (k : Nat) (f : Ns → Ns) (m : Mach) : (m.updNs k f).grid = m.grid := rfl
@[simp] theorem Mach.updNs_ports (k : Nat) (f : Ns → Ns) (m : Mach) : (m.updNs k f).ports = m.ports := rfl
@[simp] theorem Mach.updNs_stg (k : Nat) (f : Ns → Ns) (m : Mach) : (m.updNs k f).stg = m.stg := rfl
@[simp] theorem Mach.updNs_drill (k : Nat) (f : Ns → Ns) (m : Mach) : (m.updNs k f).drill = m.drill := rfl
@[simp] theorem Mach.updNs_plots (k : Nat) (f : Ns → Ns) (m : Mach) : (m.updNs k f).plots = m.plots := rfl
@[simp] theorem Mach.updNs_hitch (k : Nat) (f : Ns → Ns) (m : Mach) : (m.updNs k f).hitch = m.hitch := rfl
@[simp] theorem Mach.updNs_power (k : Nat) (f : Ns → Ns) (m : Mach) : (m.updNs k f).power = m.power := rfl
@[simp] theorem Mach.updNs_heat (k : Nat) (f : Ns → Ns) (m : Mach) : (m.updNs k f).heat = m.heat := rfl
@[simp] theorem Mach.updNs_boot (k : Nat) (f : Ns → Ns) (m : Mach) : (m.updNs k f).boot = m.boot := rfl
@[simp] theorem Mach.updNs_img (k : Nat) (f : Ns → Ns) (m : Mach) : (m.updNs k f).img = m.img := rfl
@[simp] theorem Mach.updNs_polez (k : Nat) (f : Ns → Ns) (m : Mach) : (m.updNs k f).polez = m.polez := rfl
@[simp] theorem Mach.updNs_ybk (k : Nat) (f : Ns → Ns) (m : Mach) : (m.updNs k f).ybk = m.ybk := rfl

/-! ## updBed -/

@[simp] theorem Mach.updBed_clk (k : Nat) (f : Bed → Bed) (m : Mach) : (m.updBed k f).clk = m.clk := rfl
@[simp] theorem Mach.updBed_hub (k : Nat) (f : Bed → Bed) (m : Mach) : (m.updBed k f).hub = m.hub := rfl
@[simp] theorem Mach.updBed_tines (k : Nat) (f : Bed → Bed) (m : Mach) : (m.updBed k f).tines = m.tines := rfl
@[simp] theorem Mach.updBed_disp (k : Nat) (f : Bed → Bed) (m : Mach) : (m.updBed k f).disp = m.disp := rfl
@[simp] theorem Mach.updBed_retry (k : Nat) (f : Bed → Bed) (m : Mach) : (m.updBed k f).retry = m.retry := rfl
@[simp] theorem Mach.updBed_front (k : Nat) (f : Bed → Bed) (m : Mach) : (m.updBed k f).front = m.front := rfl
@[simp] theorem Mach.updBed_grid (k : Nat) (f : Bed → Bed) (m : Mach) : (m.updBed k f).grid = m.grid := rfl
@[simp] theorem Mach.updBed_ports (k : Nat) (f : Bed → Bed) (m : Mach) : (m.updBed k f).ports = m.ports := rfl
@[simp] theorem Mach.updBed_stg (k : Nat) (f : Bed → Bed) (m : Mach) : (m.updBed k f).stg = m.stg := rfl
@[simp] theorem Mach.updBed_drill (k : Nat) (f : Bed → Bed) (m : Mach) : (m.updBed k f).drill = m.drill := rfl
@[simp] theorem Mach.updBed_plots (k : Nat) (f : Bed → Bed) (m : Mach) : (m.updBed k f).plots = m.plots := rfl
@[simp] theorem Mach.updBed_hitch (k : Nat) (f : Bed → Bed) (m : Mach) : (m.updBed k f).hitch = m.hitch := rfl
@[simp] theorem Mach.updBed_power (k : Nat) (f : Bed → Bed) (m : Mach) : (m.updBed k f).power = m.power := rfl
@[simp] theorem Mach.updBed_heat (k : Nat) (f : Bed → Bed) (m : Mach) : (m.updBed k f).heat = m.heat := rfl
@[simp] theorem Mach.updBed_boot (k : Nat) (f : Bed → Bed) (m : Mach) : (m.updBed k f).boot = m.boot := rfl
@[simp] theorem Mach.updBed_img (k : Nat) (f : Bed → Bed) (m : Mach) : (m.updBed k f).img = m.img := rfl
@[simp] theorem Mach.updBed_polez (k : Nat) (f : Bed → Bed) (m : Mach) : (m.updBed k f).polez = m.polez := rfl
@[simp] theorem Mach.updBed_ybk (k : Nat) (f : Bed → Bed) (m : Mach) : (m.updBed k f).ybk = m.ybk := rfl

/-! ## updDie -/

@[simp] theorem Mach.updDie_clk (k : Nat) (f : Die → Die) (m : Mach) : (m.updDie k f).clk = m.clk := rfl
@[simp] theorem Mach.updDie_hub (k : Nat) (f : Die → Die) (m : Mach) : (m.updDie k f).hub = m.hub := rfl
@[simp] theorem Mach.updDie_tines (k : Nat) (f : Die → Die) (m : Mach) : (m.updDie k f).tines = m.tines := rfl
@[simp] theorem Mach.updDie_disp (k : Nat) (f : Die → Die) (m : Mach) : (m.updDie k f).disp = m.disp := rfl
@[simp] theorem Mach.updDie_retry (k : Nat) (f : Die → Die) (m : Mach) : (m.updDie k f).retry = m.retry := rfl
@[simp] theorem Mach.updDie_front (k : Nat) (f : Die → Die) (m : Mach) : (m.updDie k f).front = m.front := rfl
@[simp] theorem Mach.updDie_grid (k : Nat) (f : Die → Die) (m : Mach) : (m.updDie k f).grid = m.grid := rfl
@[simp] theorem Mach.updDie_ports (k : Nat) (f : Die → Die) (m : Mach) : (m.updDie k f).ports = m.ports := rfl
@[simp] theorem Mach.updDie_stg (k : Nat) (f : Die → Die) (m : Mach) : (m.updDie k f).stg = m.stg := rfl
@[simp] theorem Mach.updDie_drill (k : Nat) (f : Die → Die) (m : Mach) : (m.updDie k f).drill = m.drill := rfl
@[simp] theorem Mach.updDie_plots (k : Nat) (f : Die → Die) (m : Mach) : (m.updDie k f).plots = m.plots := rfl
@[simp] theorem Mach.updDie_hitch (k : Nat) (f : Die → Die) (m : Mach) : (m.updDie k f).hitch = m.hitch := rfl
@[simp] theorem Mach.updDie_power (k : Nat) (f : Die → Die) (m : Mach) : (m.updDie k f).power = m.power := rfl
@[simp] theorem Mach.updDie_heat (k : Nat) (f : Die → Die) (m : Mach) : (m.updDie k f).heat = m.heat := rfl
@[simp] theorem Mach.updDie_boot (k : Nat) (f : Die → Die) (m : Mach) : (m.updDie k f).boot = m.boot := rfl
@[simp] theorem Mach.updDie_img (k : Nat) (f : Die → Die) (m : Mach) : (m.updDie k f).img = m.img := rfl
@[simp] theorem Mach.updDie_polez (k : Nat) (f : Die → Die) (m : Mach) : (m.updDie k f).polez = m.polez := rfl
@[simp] theorem Mach.updDie_ybk (k : Nat) (f : Die → Die) (m : Mach) : (m.updDie k f).ybk = m.ybk := rfl

/-! ## updChan -/

@[simp] theorem Mach.updChan_clk (k : Nat) (f : Chan → Chan) (m : Mach) : (m.updChan k f).clk = m.clk := rfl
@[simp] theorem Mach.updChan_hub (k : Nat) (f : Chan → Chan) (m : Mach) : (m.updChan k f).hub = m.hub := rfl
@[simp] theorem Mach.updChan_tines (k : Nat) (f : Chan → Chan) (m : Mach) : (m.updChan k f).tines = m.tines := rfl
@[simp] theorem Mach.updChan_disp (k : Nat) (f : Chan → Chan) (m : Mach) : (m.updChan k f).disp = m.disp := rfl
@[simp] theorem Mach.updChan_retry (k : Nat) (f : Chan → Chan) (m : Mach) : (m.updChan k f).retry = m.retry := rfl
@[simp] theorem Mach.updChan_front (k : Nat) (f : Chan → Chan) (m : Mach) : (m.updChan k f).front = m.front := rfl
@[simp] theorem Mach.updChan_grid (k : Nat) (f : Chan → Chan) (m : Mach) : (m.updChan k f).grid = m.grid := rfl
@[simp] theorem Mach.updChan_ports (k : Nat) (f : Chan → Chan) (m : Mach) : (m.updChan k f).ports = m.ports := rfl
@[simp] theorem Mach.updChan_stg (k : Nat) (f : Chan → Chan) (m : Mach) : (m.updChan k f).stg = m.stg := rfl
@[simp] theorem Mach.updChan_drill (k : Nat) (f : Chan → Chan) (m : Mach) : (m.updChan k f).drill = m.drill := rfl
@[simp] theorem Mach.updChan_plots (k : Nat) (f : Chan → Chan) (m : Mach) : (m.updChan k f).plots = m.plots := rfl
@[simp] theorem Mach.updChan_hitch (k : Nat) (f : Chan → Chan) (m : Mach) : (m.updChan k f).hitch = m.hitch := rfl
@[simp] theorem Mach.updChan_power (k : Nat) (f : Chan → Chan) (m : Mach) : (m.updChan k f).power = m.power := rfl
@[simp] theorem Mach.updChan_heat (k : Nat) (f : Chan → Chan) (m : Mach) : (m.updChan k f).heat = m.heat := rfl
@[simp] theorem Mach.updChan_boot (k : Nat) (f : Chan → Chan) (m : Mach) : (m.updChan k f).boot = m.boot := rfl
@[simp] theorem Mach.updChan_img (k : Nat) (f : Chan → Chan) (m : Mach) : (m.updChan k f).img = m.img := rfl
@[simp] theorem Mach.updChan_polez (k : Nat) (f : Chan → Chan) (m : Mach) : (m.updChan k f).polez = m.polez := rfl
@[simp] theorem Mach.updChan_ybk (k : Nat) (f : Chan → Chan) (m : Mach) : (m.updChan k f).ybk = m.ybk := rfl

/-! ## updPort -/

@[simp] theorem Mach.updPort_clk (k : Nat) (f : Port → Port) (m : Mach) : (m.updPort k f).clk = m.clk := rfl
@[simp] theorem Mach.updPort_hub (k : Nat) (f : Port → Port) (m : Mach) : (m.updPort k f).hub = m.hub := rfl
@[simp] theorem Mach.updPort_tines (k : Nat) (f : Port → Port) (m : Mach) : (m.updPort k f).tines = m.tines := rfl
@[simp] theorem Mach.updPort_disp (k : Nat) (f : Port → Port) (m : Mach) : (m.updPort k f).disp = m.disp := rfl
@[simp] theorem Mach.updPort_retry (k : Nat) (f : Port → Port) (m : Mach) : (m.updPort k f).retry = m.retry := rfl
@[simp] theorem Mach.updPort_front (k : Nat) (f : Port → Port) (m : Mach) : (m.updPort k f).front = m.front := rfl
@[simp] theorem Mach.updPort_med (k : Nat) (f : Port → Port) (m : Mach) : (m.updPort k f).med = m.med := rfl
@[simp] theorem Mach.updPort_grid (k : Nat) (f : Port → Port) (m : Mach) : (m.updPort k f).grid = m.grid := rfl
@[simp] theorem Mach.updPort_stg (k : Nat) (f : Port → Port) (m : Mach) : (m.updPort k f).stg = m.stg := rfl
@[simp] theorem Mach.updPort_drill (k : Nat) (f : Port → Port) (m : Mach) : (m.updPort k f).drill = m.drill := rfl
@[simp] theorem Mach.updPort_plots (k : Nat) (f : Port → Port) (m : Mach) : (m.updPort k f).plots = m.plots := rfl
@[simp] theorem Mach.updPort_hitch (k : Nat) (f : Port → Port) (m : Mach) : (m.updPort k f).hitch = m.hitch := rfl
@[simp] theorem Mach.updPort_power (k : Nat) (f : Port → Port) (m : Mach) : (m.updPort k f).power = m.power := rfl
@[simp] theorem Mach.updPort_heat (k : Nat) (f : Port → Port) (m : Mach) : (m.updPort k f).heat = m.heat := rfl
@[simp] theorem Mach.updPort_boot (k : Nat) (f : Port → Port) (m : Mach) : (m.updPort k f).boot = m.boot := rfl
@[simp] theorem Mach.updPort_img (k : Nat) (f : Port → Port) (m : Mach) : (m.updPort k f).img = m.img := rfl
@[simp] theorem Mach.updPort_polez (k : Nat) (f : Port → Port) (m : Mach) : (m.updPort k f).polez = m.polez := rfl
@[simp] theorem Mach.updPort_ybk (k : Nat) (f : Port → Port) (m : Mach) : (m.updPort k f).ybk = m.ybk := rfl

/-! ## updGroup -/

@[simp] theorem Mach.updGroup_clk (k : Nat) (f : Group → Group) (m : Mach) : (m.updGroup k f).clk = m.clk := rfl
@[simp] theorem Mach.updGroup_hub (k : Nat) (f : Group → Group) (m : Mach) : (m.updGroup k f).hub = m.hub := rfl
@[simp] theorem Mach.updGroup_tines (k : Nat) (f : Group → Group) (m : Mach) : (m.updGroup k f).tines = m.tines := rfl
@[simp] theorem Mach.updGroup_disp (k : Nat) (f : Group → Group) (m : Mach) : (m.updGroup k f).disp = m.disp := rfl
@[simp] theorem Mach.updGroup_retry (k : Nat) (f : Group → Group) (m : Mach) : (m.updGroup k f).retry = m.retry := rfl
@[simp] theorem Mach.updGroup_front (k : Nat) (f : Group → Group) (m : Mach) : (m.updGroup k f).front = m.front := rfl
@[simp] theorem Mach.updGroup_med (k : Nat) (f : Group → Group) (m : Mach) : (m.updGroup k f).med = m.med := rfl
@[simp] theorem Mach.updGroup_grid (k : Nat) (f : Group → Group) (m : Mach) : (m.updGroup k f).grid = m.grid := rfl
@[simp] theorem Mach.updGroup_ports (k : Nat) (f : Group → Group) (m : Mach) : (m.updGroup k f).ports = m.ports := rfl
@[simp] theorem Mach.updGroup_stg (k : Nat) (f : Group → Group) (m : Mach) : (m.updGroup k f).stg = m.stg := rfl
@[simp] theorem Mach.updGroup_plots (k : Nat) (f : Group → Group) (m : Mach) : (m.updGroup k f).plots = m.plots := rfl
@[simp] theorem Mach.updGroup_hitch (k : Nat) (f : Group → Group) (m : Mach) : (m.updGroup k f).hitch = m.hitch := rfl
@[simp] theorem Mach.updGroup_power (k : Nat) (f : Group → Group) (m : Mach) : (m.updGroup k f).power = m.power := rfl
@[simp] theorem Mach.updGroup_heat (k : Nat) (f : Group → Group) (m : Mach) : (m.updGroup k f).heat = m.heat := rfl
@[simp] theorem Mach.updGroup_boot (k : Nat) (f : Group → Group) (m : Mach) : (m.updGroup k f).boot = m.boot := rfl
@[simp] theorem Mach.updGroup_img (k : Nat) (f : Group → Group) (m : Mach) : (m.updGroup k f).img = m.img := rfl
@[simp] theorem Mach.updGroup_polez (k : Nat) (f : Group → Group) (m : Mach) : (m.updGroup k f).polez = m.polez := rfl
@[simp] theorem Mach.updGroup_ybk (k : Nat) (f : Group → Group) (m : Mach) : (m.updGroup k f).ybk = m.ybk := rfl

/-! ## updMember -/

@[simp] theorem Mach.updMember_clk (k : Nat) (f : Member → Member) (m : Mach) : (m.updMember k f).clk = m.clk := rfl
@[simp] theorem Mach.updMember_hub (k : Nat) (f : Member → Member) (m : Mach) : (m.updMember k f).hub = m.hub := rfl
@[simp] theorem Mach.updMember_tines (k : Nat) (f : Member → Member) (m : Mach) : (m.updMember k f).tines = m.tines := rfl
@[simp] theorem Mach.updMember_disp (k : Nat) (f : Member → Member) (m : Mach) : (m.updMember k f).disp = m.disp := rfl
@[simp] theorem Mach.updMember_retry (k : Nat) (f : Member → Member) (m : Mach) : (m.updMember k f).retry = m.retry := rfl
@[simp] theorem Mach.updMember_front (k : Nat) (f : Member → Member) (m : Mach) : (m.updMember k f).front = m.front := rfl
@[simp] theorem Mach.updMember_med (k : Nat) (f : Member → Member) (m : Mach) : (m.updMember k f).med = m.med := rfl
@[simp] theorem Mach.updMember_grid (k : Nat) (f : Member → Member) (m : Mach) : (m.updMember k f).grid = m.grid := rfl
@[simp] theorem Mach.updMember_ports (k : Nat) (f : Member → Member) (m : Mach) : (m.updMember k f).ports = m.ports := rfl
@[simp] theorem Mach.updMember_stg (k : Nat) (f : Member → Member) (m : Mach) : (m.updMember k f).stg = m.stg := rfl
@[simp] theorem Mach.updMember_drill (k : Nat) (f : Member → Member) (m : Mach) : (m.updMember k f).drill = m.drill := rfl
@[simp] theorem Mach.updMember_plots (k : Nat) (f : Member → Member) (m : Mach) : (m.updMember k f).plots = m.plots := rfl
@[simp] theorem Mach.updMember_power (k : Nat) (f : Member → Member) (m : Mach) : (m.updMember k f).power = m.power := rfl
@[simp] theorem Mach.updMember_heat (k : Nat) (f : Member → Member) (m : Mach) : (m.updMember k f).heat = m.heat := rfl
@[simp] theorem Mach.updMember_boot (k : Nat) (f : Member → Member) (m : Mach) : (m.updMember k f).boot = m.boot := rfl
@[simp] theorem Mach.updMember_img (k : Nat) (f : Member → Member) (m : Mach) : (m.updMember k f).img = m.img := rfl
@[simp] theorem Mach.updMember_polez (k : Nat) (f : Member → Member) (m : Mach) : (m.updMember k f).polez = m.polez := rfl
@[simp] theorem Mach.updMember_ybk (k : Nat) (f : Member → Member) (m : Mach) : (m.updMember k f).ybk = m.ybk := rfl

/-! ## updHport -/

@[simp] theorem Mach.updHport_clk (k : Nat) (f : HPort → HPort) (m : Mach) : (m.updHport k f).clk = m.clk := rfl
@[simp] theorem Mach.updHport_hub (k : Nat) (f : HPort → HPort) (m : Mach) : (m.updHport k f).hub = m.hub := rfl
@[simp] theorem Mach.updHport_tines (k : Nat) (f : HPort → HPort) (m : Mach) : (m.updHport k f).tines = m.tines := rfl
@[simp] theorem Mach.updHport_disp (k : Nat) (f : HPort → HPort) (m : Mach) : (m.updHport k f).disp = m.disp := rfl
@[simp] theorem Mach.updHport_retry (k : Nat) (f : HPort → HPort) (m : Mach) : (m.updHport k f).retry = m.retry := rfl
@[simp] theorem Mach.updHport_front (k : Nat) (f : HPort → HPort) (m : Mach) : (m.updHport k f).front = m.front := rfl
@[simp] theorem Mach.updHport_med (k : Nat) (f : HPort → HPort) (m : Mach) : (m.updHport k f).med = m.med := rfl
@[simp] theorem Mach.updHport_grid (k : Nat) (f : HPort → HPort) (m : Mach) : (m.updHport k f).grid = m.grid := rfl
@[simp] theorem Mach.updHport_ports (k : Nat) (f : HPort → HPort) (m : Mach) : (m.updHport k f).ports = m.ports := rfl
@[simp] theorem Mach.updHport_stg (k : Nat) (f : HPort → HPort) (m : Mach) : (m.updHport k f).stg = m.stg := rfl
@[simp] theorem Mach.updHport_drill (k : Nat) (f : HPort → HPort) (m : Mach) : (m.updHport k f).drill = m.drill := rfl
@[simp] theorem Mach.updHport_plots (k : Nat) (f : HPort → HPort) (m : Mach) : (m.updHport k f).plots = m.plots := rfl
@[simp] theorem Mach.updHport_power (k : Nat) (f : HPort → HPort) (m : Mach) : (m.updHport k f).power = m.power := rfl
@[simp] theorem Mach.updHport_heat (k : Nat) (f : HPort → HPort) (m : Mach) : (m.updHport k f).heat = m.heat := rfl
@[simp] theorem Mach.updHport_boot (k : Nat) (f : HPort → HPort) (m : Mach) : (m.updHport k f).boot = m.boot := rfl
@[simp] theorem Mach.updHport_img (k : Nat) (f : HPort → HPort) (m : Mach) : (m.updHport k f).img = m.img := rfl
@[simp] theorem Mach.updHport_polez (k : Nat) (f : HPort → HPort) (m : Mach) : (m.updHport k f).polez = m.polez := rfl
@[simp] theorem Mach.updHport_ybk (k : Nat) (f : HPort → HPort) (m : Mach) : (m.updHport k f).ybk = m.ybk := rfl

/-! ## setTine -/

@[simp] theorem Mach.setTine_clk (k : Nat) (v : Tine) (m : Mach) : (m.setTine k v).clk = m.clk := rfl
@[simp] theorem Mach.setTine_hub (k : Nat) (v : Tine) (m : Mach) : (m.setTine k v).hub = m.hub := rfl
@[simp] theorem Mach.setTine_disp (k : Nat) (v : Tine) (m : Mach) : (m.setTine k v).disp = m.disp := rfl
@[simp] theorem Mach.setTine_retry (k : Nat) (v : Tine) (m : Mach) : (m.setTine k v).retry = m.retry := rfl
@[simp] theorem Mach.setTine_front (k : Nat) (v : Tine) (m : Mach) : (m.setTine k v).front = m.front := rfl
@[simp] theorem Mach.setTine_med (k : Nat) (v : Tine) (m : Mach) : (m.setTine k v).med = m.med := rfl
@[simp] theorem Mach.setTine_grid (k : Nat) (v : Tine) (m : Mach) : (m.setTine k v).grid = m.grid := rfl
@[simp] theorem Mach.setTine_ports (k : Nat) (v : Tine) (m : Mach) : (m.setTine k v).ports = m.ports := rfl
@[simp] theorem Mach.setTine_stg (k : Nat) (v : Tine) (m : Mach) : (m.setTine k v).stg = m.stg := rfl
@[simp] theorem Mach.setTine_drill (k : Nat) (v : Tine) (m : Mach) : (m.setTine k v).drill = m.drill := rfl
@[simp] theorem Mach.setTine_plots (k : Nat) (v : Tine) (m : Mach) : (m.setTine k v).plots = m.plots := rfl
@[simp] theorem Mach.setTine_hitch (k : Nat) (v : Tine) (m : Mach) : (m.setTine k v).hitch = m.hitch := rfl
@[simp] theorem Mach.setTine_power (k : Nat) (v : Tine) (m : Mach) : (m.setTine k v).power = m.power := rfl
@[simp] theorem Mach.setTine_heat (k : Nat) (v : Tine) (m : Mach) : (m.setTine k v).heat = m.heat := rfl
@[simp] theorem Mach.setTine_boot (k : Nat) (v : Tine) (m : Mach) : (m.setTine k v).boot = m.boot := rfl
@[simp] theorem Mach.setTine_img (k : Nat) (v : Tine) (m : Mach) : (m.setTine k v).img = m.img := rfl
@[simp] theorem Mach.setTine_polez (k : Nat) (v : Tine) (m : Mach) : (m.setTine k v).polez = m.polez := rfl
@[simp] theorem Mach.setTine_ybk (k : Nat) (v : Tine) (m : Mach) : (m.setTine k v).ybk = m.ybk := rfl

/-! ## updSq -/

@[simp] theorem Mach.updSq_clk (a b : Nat) (f : Sq → Sq) (m : Mach) : (m.updSq a b f).clk = m.clk := rfl
@[simp] theorem Mach.updSq_hub (a b : Nat) (f : Sq → Sq) (m : Mach) : (m.updSq a b f).hub = m.hub := rfl
@[simp] theorem Mach.updSq_tines (a b : Nat) (f : Sq → Sq) (m : Mach) : (m.updSq a b f).tines = m.tines := rfl
@[simp] theorem Mach.updSq_disp (a b : Nat) (f : Sq → Sq) (m : Mach) : (m.updSq a b f).disp = m.disp := rfl
@[simp] theorem Mach.updSq_retry (a b : Nat) (f : Sq → Sq) (m : Mach) : (m.updSq a b f).retry = m.retry := rfl
@[simp] theorem Mach.updSq_med (a b : Nat) (f : Sq → Sq) (m : Mach) : (m.updSq a b f).med = m.med := rfl
@[simp] theorem Mach.updSq_grid (a b : Nat) (f : Sq → Sq) (m : Mach) : (m.updSq a b f).grid = m.grid := rfl
@[simp] theorem Mach.updSq_ports (a b : Nat) (f : Sq → Sq) (m : Mach) : (m.updSq a b f).ports = m.ports := rfl
@[simp] theorem Mach.updSq_stg (a b : Nat) (f : Sq → Sq) (m : Mach) : (m.updSq a b f).stg = m.stg := rfl
@[simp] theorem Mach.updSq_drill (a b : Nat) (f : Sq → Sq) (m : Mach) : (m.updSq a b f).drill = m.drill := rfl
@[simp] theorem Mach.updSq_plots (a b : Nat) (f : Sq → Sq) (m : Mach) : (m.updSq a b f).plots = m.plots := rfl
@[simp] theorem Mach.updSq_hitch (a b : Nat) (f : Sq → Sq) (m : Mach) : (m.updSq a b f).hitch = m.hitch := rfl
@[simp] theorem Mach.updSq_power (a b : Nat) (f : Sq → Sq) (m : Mach) : (m.updSq a b f).power = m.power := rfl
@[simp] theorem Mach.updSq_heat (a b : Nat) (f : Sq → Sq) (m : Mach) : (m.updSq a b f).heat = m.heat := rfl
@[simp] theorem Mach.updSq_boot (a b : Nat) (f : Sq → Sq) (m : Mach) : (m.updSq a b f).boot = m.boot := rfl
@[simp] theorem Mach.updSq_img (a b : Nat) (f : Sq → Sq) (m : Mach) : (m.updSq a b f).img = m.img := rfl
@[simp] theorem Mach.updSq_polez (a b : Nat) (f : Sq → Sq) (m : Mach) : (m.updSq a b f).polez = m.polez := rfl
@[simp] theorem Mach.updSq_ybk (a b : Nat) (f : Sq → Sq) (m : Mach) : (m.updSq a b f).ybk = m.ybk := rfl

/-! ## updCq -/

@[simp] theorem Mach.updCq_clk (a b : Nat) (f : Cq → Cq) (m : Mach) : (m.updCq a b f).clk = m.clk := rfl
@[simp] theorem Mach.updCq_hub (a b : Nat) (f : Cq → Cq) (m : Mach) : (m.updCq a b f).hub = m.hub := rfl
@[simp] theorem Mach.updCq_tines (a b : Nat) (f : Cq → Cq) (m : Mach) : (m.updCq a b f).tines = m.tines := rfl
@[simp] theorem Mach.updCq_disp (a b : Nat) (f : Cq → Cq) (m : Mach) : (m.updCq a b f).disp = m.disp := rfl
@[simp] theorem Mach.updCq_retry (a b : Nat) (f : Cq → Cq) (m : Mach) : (m.updCq a b f).retry = m.retry := rfl
@[simp] theorem Mach.updCq_med (a b : Nat) (f : Cq → Cq) (m : Mach) : (m.updCq a b f).med = m.med := rfl
@[simp] theorem Mach.updCq_grid (a b : Nat) (f : Cq → Cq) (m : Mach) : (m.updCq a b f).grid = m.grid := rfl
@[simp] theorem Mach.updCq_ports (a b : Nat) (f : Cq → Cq) (m : Mach) : (m.updCq a b f).ports = m.ports := rfl
@[simp] theorem Mach.updCq_stg (a b : Nat) (f : Cq → Cq) (m : Mach) : (m.updCq a b f).stg = m.stg := rfl
@[simp] theorem Mach.updCq_drill (a b : Nat) (f : Cq → Cq) (m : Mach) : (m.updCq a b f).drill = m.drill := rfl
@[simp] theorem Mach.updCq_plots (a b : Nat) (f : Cq → Cq) (m : Mach) : (m.updCq a b f).plots = m.plots := rfl
@[simp] theorem Mach.updCq_hitch (a b : Nat) (f : Cq → Cq) (m : Mach) : (m.updCq a b f).hitch = m.hitch := rfl
@[simp] theorem Mach.updCq_power (a b : Nat) (f : Cq → Cq) (m : Mach) : (m.updCq a b f).power = m.power := rfl
@[simp] theorem Mach.updCq_heat (a b : Nat) (f : Cq → Cq) (m : Mach) : (m.updCq a b f).heat = m.heat := rfl
@[simp] theorem Mach.updCq_boot (a b : Nat) (f : Cq → Cq) (m : Mach) : (m.updCq a b f).boot = m.boot := rfl
@[simp] theorem Mach.updCq_img (a b : Nat) (f : Cq → Cq) (m : Mach) : (m.updCq a b f).img = m.img := rfl
@[simp] theorem Mach.updCq_polez (a b : Nat) (f : Cq → Cq) (m : Mach) : (m.updCq a b f).polez = m.polez := rfl
@[simp] theorem Mach.updCq_ybk (a b : Nat) (f : Cq → Cq) (m : Mach) : (m.updCq a b f).ybk = m.ybk := rfl

/-! ## updZone -/

@[simp] theorem Mach.updZone_clk (a b : Nat) (f : Zone → Zone) (m : Mach) : (m.updZone a b f).clk = m.clk := rfl
@[simp] theorem Mach.updZone_hub (a b : Nat) (f : Zone → Zone) (m : Mach) : (m.updZone a b f).hub = m.hub := rfl
@[simp] theorem Mach.updZone_tines (a b : Nat) (f : Zone → Zone) (m : Mach) : (m.updZone a b f).tines = m.tines := rfl
@[simp] theorem Mach.updZone_disp (a b : Nat) (f : Zone → Zone) (m : Mach) : (m.updZone a b f).disp = m.disp := rfl
@[simp] theorem Mach.updZone_retry (a b : Nat) (f : Zone → Zone) (m : Mach) : (m.updZone a b f).retry = m.retry := rfl
@[simp] theorem Mach.updZone_front (a b : Nat) (f : Zone → Zone) (m : Mach) : (m.updZone a b f).front = m.front := rfl
@[simp] theorem Mach.updZone_grid (a b : Nat) (f : Zone → Zone) (m : Mach) : (m.updZone a b f).grid = m.grid := rfl
@[simp] theorem Mach.updZone_ports (a b : Nat) (f : Zone → Zone) (m : Mach) : (m.updZone a b f).ports = m.ports := rfl
@[simp] theorem Mach.updZone_stg (a b : Nat) (f : Zone → Zone) (m : Mach) : (m.updZone a b f).stg = m.stg := rfl
@[simp] theorem Mach.updZone_drill (a b : Nat) (f : Zone → Zone) (m : Mach) : (m.updZone a b f).drill = m.drill := rfl
@[simp] theorem Mach.updZone_plots (a b : Nat) (f : Zone → Zone) (m : Mach) : (m.updZone a b f).plots = m.plots := rfl
@[simp] theorem Mach.updZone_hitch (a b : Nat) (f : Zone → Zone) (m : Mach) : (m.updZone a b f).hitch = m.hitch := rfl
@[simp] theorem Mach.updZone_power (a b : Nat) (f : Zone → Zone) (m : Mach) : (m.updZone a b f).power = m.power := rfl
@[simp] theorem Mach.updZone_heat (a b : Nat) (f : Zone → Zone) (m : Mach) : (m.updZone a b f).heat = m.heat := rfl
@[simp] theorem Mach.updZone_boot (a b : Nat) (f : Zone → Zone) (m : Mach) : (m.updZone a b f).boot = m.boot := rfl
@[simp] theorem Mach.updZone_img (a b : Nat) (f : Zone → Zone) (m : Mach) : (m.updZone a b f).img = m.img := rfl
@[simp] theorem Mach.updZone_polez (a b : Nat) (f : Zone → Zone) (m : Mach) : (m.updZone a b f).polez = m.polez := rfl
@[simp] theorem Mach.updZone_ybk (a b : Nat) (f : Zone → Zone) (m : Mach) : (m.updZone a b f).ybk = m.ybk := rfl

/-! ## updCmd, advance, hubInt, sendBody -/

@[simp] theorem Mach.updCmd_clk (n : Nat) (f : Cmd → Cmd) (m : Mach) : (m.updCmd n f).clk = m.clk := rfl
@[simp] theorem Mach.updCmd_hub (n : Nat) (f : Cmd → Cmd) (m : Mach) : (m.updCmd n f).hub = m.hub := rfl
@[simp] theorem Mach.updCmd_tines (n : Nat) (f : Cmd → Cmd) (m : Mach) : (m.updCmd n f).tines = m.tines := rfl
@[simp] theorem Mach.updCmd_disp (n : Nat) (f : Cmd → Cmd) (m : Mach) : (m.updCmd n f).disp = m.disp := rfl
@[simp] theorem Mach.updCmd_retry (n : Nat) (f : Cmd → Cmd) (m : Mach) : (m.updCmd n f).retry = m.retry := rfl
@[simp] theorem Mach.updCmd_med (n : Nat) (f : Cmd → Cmd) (m : Mach) : (m.updCmd n f).med = m.med := rfl
@[simp] theorem Mach.updCmd_grid (n : Nat) (f : Cmd → Cmd) (m : Mach) : (m.updCmd n f).grid = m.grid := rfl
@[simp] theorem Mach.updCmd_ports (n : Nat) (f : Cmd → Cmd) (m : Mach) : (m.updCmd n f).ports = m.ports := rfl
@[simp] theorem Mach.updCmd_stg (n : Nat) (f : Cmd → Cmd) (m : Mach) : (m.updCmd n f).stg = m.stg := rfl
@[simp] theorem Mach.updCmd_drill (n : Nat) (f : Cmd → Cmd) (m : Mach) : (m.updCmd n f).drill = m.drill := rfl
@[simp] theorem Mach.updCmd_plots (n : Nat) (f : Cmd → Cmd) (m : Mach) : (m.updCmd n f).plots = m.plots := rfl
@[simp] theorem Mach.updCmd_hitch (n : Nat) (f : Cmd → Cmd) (m : Mach) : (m.updCmd n f).hitch = m.hitch := rfl
@[simp] theorem Mach.updCmd_power (n : Nat) (f : Cmd → Cmd) (m : Mach) : (m.updCmd n f).power = m.power := rfl
@[simp] theorem Mach.updCmd_heat (n : Nat) (f : Cmd → Cmd) (m : Mach) : (m.updCmd n f).heat = m.heat := rfl
@[simp] theorem Mach.updCmd_boot (n : Nat) (f : Cmd → Cmd) (m : Mach) : (m.updCmd n f).boot = m.boot := rfl
@[simp] theorem Mach.updCmd_img (n : Nat) (f : Cmd → Cmd) (m : Mach) : (m.updCmd n f).img = m.img := rfl
@[simp] theorem Mach.updCmd_polez (n : Nat) (f : Cmd → Cmd) (m : Mach) : (m.updCmd n f).polez = m.polez := rfl
@[simp] theorem Mach.updCmd_ybk (n : Nat) (f : Cmd → Cmd) (m : Mach) : (m.updCmd n f).ybk = m.ybk := rfl
@[simp] theorem Mach.advance_hub (t : Nat) (m : Mach) : (m.advance t).hub = m.hub := rfl
@[simp] theorem Mach.advance_tines (t : Nat) (m : Mach) : (m.advance t).tines = m.tines := rfl
@[simp] theorem Mach.advance_disp (t : Nat) (m : Mach) : (m.advance t).disp = m.disp := rfl
@[simp] theorem Mach.advance_retry (t : Nat) (m : Mach) : (m.advance t).retry = m.retry := rfl
@[simp] theorem Mach.advance_front (t : Nat) (m : Mach) : (m.advance t).front = m.front := rfl
@[simp] theorem Mach.advance_med (t : Nat) (m : Mach) : (m.advance t).med = m.med := rfl
@[simp] theorem Mach.advance_grid (t : Nat) (m : Mach) : (m.advance t).grid = { m.grid with time := m.gridAt t } := rfl
@[simp] theorem Mach.advance_ports (t : Nat) (m : Mach) : (m.advance t).ports = m.ports := rfl
@[simp] theorem Mach.advance_stg (t : Nat) (m : Mach) : (m.advance t).stg = m.stg := rfl
@[simp] theorem Mach.advance_drill (t : Nat) (m : Mach) : (m.advance t).drill = m.drill := rfl
@[simp] theorem Mach.advance_plots (t : Nat) (m : Mach) : (m.advance t).plots = m.plots := rfl
@[simp] theorem Mach.advance_hitch (t : Nat) (m : Mach) : (m.advance t).hitch = m.hitch := rfl
@[simp] theorem Mach.advance_power (t : Nat) (m : Mach) : (m.advance t).power = m.power := rfl
@[simp] theorem Mach.advance_heat (t : Nat) (m : Mach) : (m.advance t).heat = m.heat := rfl
@[simp] theorem Mach.advance_boot (t : Nat) (m : Mach) : (m.advance t).boot = m.boot := rfl
@[simp] theorem Mach.advance_img (t : Nat) (m : Mach) : (m.advance t).img = m.img := rfl
@[simp] theorem Mach.advance_polez (t : Nat) (m : Mach) : (m.advance t).polez = m.polez := rfl
@[simp] theorem Mach.advance_ybk (t : Nat) (m : Mach) : (m.advance t).ybk = m.ybk := rfl
@[simp] theorem Mach.hubInt_clk (b : Nat) (m : Mach) : (m.hubInt b).clk = m.clk := rfl
@[simp] theorem Mach.hubInt_tines (b : Nat) (m : Mach) : (m.hubInt b).tines = m.tines := rfl
@[simp] theorem Mach.hubInt_disp (b : Nat) (m : Mach) : (m.hubInt b).disp = m.disp := rfl
@[simp] theorem Mach.hubInt_retry (b : Nat) (m : Mach) : (m.hubInt b).retry = m.retry := rfl
@[simp] theorem Mach.hubInt_front (b : Nat) (m : Mach) : (m.hubInt b).front = m.front := rfl
@[simp] theorem Mach.hubInt_med (b : Nat) (m : Mach) : (m.hubInt b).med = m.med := rfl
@[simp] theorem Mach.hubInt_grid (b : Nat) (m : Mach) : (m.hubInt b).grid = m.grid := rfl
@[simp] theorem Mach.hubInt_ports (b : Nat) (m : Mach) : (m.hubInt b).ports = m.ports := rfl
@[simp] theorem Mach.hubInt_stg (b : Nat) (m : Mach) : (m.hubInt b).stg = m.stg := rfl
@[simp] theorem Mach.hubInt_drill (b : Nat) (m : Mach) : (m.hubInt b).drill = m.drill := rfl
@[simp] theorem Mach.hubInt_plots (b : Nat) (m : Mach) : (m.hubInt b).plots = m.plots := rfl
@[simp] theorem Mach.hubInt_hitch (b : Nat) (m : Mach) : (m.hubInt b).hitch = m.hitch := rfl
@[simp] theorem Mach.hubInt_power (b : Nat) (m : Mach) : (m.hubInt b).power = m.power := rfl
@[simp] theorem Mach.hubInt_heat (b : Nat) (m : Mach) : (m.hubInt b).heat = m.heat := rfl
@[simp] theorem Mach.hubInt_boot (b : Nat) (m : Mach) : (m.hubInt b).boot = m.boot := rfl
@[simp] theorem Mach.hubInt_img (b : Nat) (m : Mach) : (m.hubInt b).img = m.img := rfl
@[simp] theorem Mach.hubInt_polez (b : Nat) (m : Mach) : (m.hubInt b).polez = m.polez := rfl
@[simp] theorem Mach.hubInt_ybk (b : Nat) (m : Mach) : (m.hubInt b).ybk = m.ybk := rfl
@[simp] theorem Mach.sendBody_clk (t d p k : Nat) (b : List Byte) (m : Mach) : (m.sendBody t d p k b).clk = m.clk := rfl
@[simp] theorem Mach.sendBody_hub (t d p k : Nat) (b : List Byte) (m : Mach) : (m.sendBody t d p k b).hub = m.hub := rfl
@[simp] theorem Mach.sendBody_tines (t d p k : Nat) (b : List Byte) (m : Mach) : (m.sendBody t d p k b).tines = m.tines := rfl
@[simp] theorem Mach.sendBody_disp (t d p k : Nat) (b : List Byte) (m : Mach) : (m.sendBody t d p k b).disp = m.disp := rfl
@[simp] theorem Mach.sendBody_retry (t d p k : Nat) (b : List Byte) (m : Mach) : (m.sendBody t d p k b).retry = m.retry := rfl
@[simp] theorem Mach.sendBody_front (t d p k : Nat) (b : List Byte) (m : Mach) : (m.sendBody t d p k b).front = m.front := rfl
@[simp] theorem Mach.sendBody_med (t d p k : Nat) (b : List Byte) (m : Mach) : (m.sendBody t d p k b).med = m.med := rfl
@[simp] theorem Mach.sendBody_grid (t d p k : Nat) (b : List Byte) (m : Mach) : (m.sendBody t d p k b).grid = m.grid := rfl
@[simp] theorem Mach.sendBody_ports (t d p k : Nat) (b : List Byte) (m : Mach) : (m.sendBody t d p k b).ports = m.ports := rfl
@[simp] theorem Mach.sendBody_stg (t d p k : Nat) (b : List Byte) (m : Mach) : (m.sendBody t d p k b).stg = m.stg := rfl
@[simp] theorem Mach.sendBody_drill (t d p k : Nat) (b : List Byte) (m : Mach) : (m.sendBody t d p k b).drill = m.drill := rfl
@[simp] theorem Mach.sendBody_plots (t d p k : Nat) (b : List Byte) (m : Mach) : (m.sendBody t d p k b).plots = m.plots := rfl
@[simp] theorem Mach.sendBody_power (t d p k : Nat) (b : List Byte) (m : Mach) : (m.sendBody t d p k b).power = m.power := rfl
@[simp] theorem Mach.sendBody_heat (t d p k : Nat) (b : List Byte) (m : Mach) : (m.sendBody t d p k b).heat = m.heat := rfl
@[simp] theorem Mach.sendBody_boot (t d p k : Nat) (b : List Byte) (m : Mach) : (m.sendBody t d p k b).boot = m.boot := rfl
@[simp] theorem Mach.sendBody_img (t d p k : Nat) (b : List Byte) (m : Mach) : (m.sendBody t d p k b).img = m.img := rfl
@[simp] theorem Mach.sendBody_polez (t d p k : Nat) (b : List Byte) (m : Mach) : (m.sendBody t d p k b).polez = m.polez := rfl
@[simp] theorem Mach.sendBody_ybk (t d p k : Nat) (b : List Byte) (m : Mach) : (m.sendBody t d p k b).ybk = m.ybk := rfl
@[simp] theorem Mach.sendPart_clk (t g d p k o : Nat) (c : List Nat) (b : List Byte) (m : Mach) : (m.sendPart t g d p k o c b).clk = m.clk := rfl
@[simp] theorem Mach.sendPart_hub (t g d p k o : Nat) (c : List Nat) (b : List Byte) (m : Mach) : (m.sendPart t g d p k o c b).hub = m.hub := rfl
@[simp] theorem Mach.sendPart_tines (t g d p k o : Nat) (c : List Nat) (b : List Byte) (m : Mach) : (m.sendPart t g d p k o c b).tines = m.tines := rfl
@[simp] theorem Mach.sendPart_disp (t g d p k o : Nat) (c : List Nat) (b : List Byte) (m : Mach) : (m.sendPart t g d p k o c b).disp = m.disp := rfl
@[simp] theorem Mach.sendPart_retry (t g d p k o : Nat) (c : List Nat) (b : List Byte) (m : Mach) : (m.sendPart t g d p k o c b).retry = m.retry := rfl
@[simp] theorem Mach.sendPart_front (t g d p k o : Nat) (c : List Nat) (b : List Byte) (m : Mach) : (m.sendPart t g d p k o c b).front = m.front := rfl
@[simp] theorem Mach.sendPart_med (t g d p k o : Nat) (c : List Nat) (b : List Byte) (m : Mach) : (m.sendPart t g d p k o c b).med = m.med := rfl
@[simp] theorem Mach.sendPart_grid (t g d p k o : Nat) (c : List Nat) (b : List Byte) (m : Mach) : (m.sendPart t g d p k o c b).grid = m.grid := rfl
@[simp] theorem Mach.sendPart_ports (t g d p k o : Nat) (c : List Nat) (b : List Byte) (m : Mach) : (m.sendPart t g d p k o c b).ports = m.ports := rfl
@[simp] theorem Mach.sendPart_stg (t g d p k o : Nat) (c : List Nat) (b : List Byte) (m : Mach) : (m.sendPart t g d p k o c b).stg = m.stg := rfl
@[simp] theorem Mach.sendPart_drill (t g d p k o : Nat) (c : List Nat) (b : List Byte) (m : Mach) : (m.sendPart t g d p k o c b).drill = m.drill := rfl
@[simp] theorem Mach.sendPart_plots (t g d p k o : Nat) (c : List Nat) (b : List Byte) (m : Mach) : (m.sendPart t g d p k o c b).plots = m.plots := rfl
@[simp] theorem Mach.sendPart_power (t g d p k o : Nat) (c : List Nat) (b : List Byte) (m : Mach) : (m.sendPart t g d p k o c b).power = m.power := rfl
@[simp] theorem Mach.sendPart_heat (t g d p k o : Nat) (c : List Nat) (b : List Byte) (m : Mach) : (m.sendPart t g d p k o c b).heat = m.heat := rfl
@[simp] theorem Mach.sendPart_boot (t g d p k o : Nat) (c : List Nat) (b : List Byte) (m : Mach) : (m.sendPart t g d p k o c b).boot = m.boot := rfl
@[simp] theorem Mach.sendPart_img (t g d p k o : Nat) (c : List Nat) (b : List Byte) (m : Mach) : (m.sendPart t g d p k o c b).img = m.img := rfl
@[simp] theorem Mach.sendPart_polez (t g d p k o : Nat) (c : List Nat) (b : List Byte) (m : Mach) : (m.sendPart t g d p k o c b).polez = m.polez := rfl
@[simp] theorem Mach.sendPart_ybk (t g d p k o : Nat) (c : List Nat) (b : List Byte) (m : Mach) : (m.sendPart t g d p k o c b).ybk = m.ybk := rfl
@[simp] theorem Mach.finish_clk (n : Nat) (st : Status) (w : Word) (m : Mach) : (m.finish n st w).clk = m.clk := rfl
@[simp] theorem Mach.finish_hub (n : Nat) (st : Status) (w : Word) (m : Mach) : (m.finish n st w).hub = m.hub := rfl
@[simp] theorem Mach.finish_tines (n : Nat) (st : Status) (w : Word) (m : Mach) : (m.finish n st w).tines = m.tines := rfl
@[simp] theorem Mach.finish_disp (n : Nat) (st : Status) (w : Word) (m : Mach) : (m.finish n st w).disp = m.disp := rfl
@[simp] theorem Mach.finish_retry (n : Nat) (st : Status) (w : Word) (m : Mach) : (m.finish n st w).retry = m.retry := rfl
@[simp] theorem Mach.finish_med (n : Nat) (st : Status) (w : Word) (m : Mach) : (m.finish n st w).med = m.med := rfl
@[simp] theorem Mach.finish_grid (n : Nat) (st : Status) (w : Word) (m : Mach) : (m.finish n st w).grid = m.grid := rfl
@[simp] theorem Mach.finish_ports (n : Nat) (st : Status) (w : Word) (m : Mach) : (m.finish n st w).ports = m.ports := rfl
@[simp] theorem Mach.finish_stg (n : Nat) (st : Status) (w : Word) (m : Mach) : (m.finish n st w).stg = m.stg := rfl
@[simp] theorem Mach.finish_drill (n : Nat) (st : Status) (w : Word) (m : Mach) : (m.finish n st w).drill = m.drill := rfl
@[simp] theorem Mach.finish_plots (n : Nat) (st : Status) (w : Word) (m : Mach) : (m.finish n st w).plots = m.plots := rfl
@[simp] theorem Mach.finish_hitch (n : Nat) (st : Status) (w : Word) (m : Mach) : (m.finish n st w).hitch = m.hitch := rfl
@[simp] theorem Mach.finish_power (n : Nat) (st : Status) (w : Word) (m : Mach) : (m.finish n st w).power = m.power := rfl
@[simp] theorem Mach.finish_heat (n : Nat) (st : Status) (w : Word) (m : Mach) : (m.finish n st w).heat = m.heat := rfl
@[simp] theorem Mach.finish_boot (n : Nat) (st : Status) (w : Word) (m : Mach) : (m.finish n st w).boot = m.boot := rfl
@[simp] theorem Mach.finish_img (n : Nat) (st : Status) (w : Word) (m : Mach) : (m.finish n st w).img = m.img := rfl
@[simp] theorem Mach.finish_polez (n : Nat) (st : Status) (w : Word) (m : Mach) : (m.finish n st w).polez = m.polez := rfl
@[simp] theorem Mach.finish_ybk (n : Nat) (st : Status) (w : Word) (m : Mach) : (m.finish n st w).ybk = m.ybk := rfl
@[simp] theorem Mach.setStage_clk (n : Nat) (st : Stage) (m : Mach) : (m.setStage n st).clk = m.clk := rfl
@[simp] theorem Mach.setStage_hub (n : Nat) (st : Stage) (m : Mach) : (m.setStage n st).hub = m.hub := rfl
@[simp] theorem Mach.setStage_tines (n : Nat) (st : Stage) (m : Mach) : (m.setStage n st).tines = m.tines := rfl
@[simp] theorem Mach.setStage_disp (n : Nat) (st : Stage) (m : Mach) : (m.setStage n st).disp = m.disp := rfl
@[simp] theorem Mach.setStage_retry (n : Nat) (st : Stage) (m : Mach) : (m.setStage n st).retry = m.retry := rfl
@[simp] theorem Mach.setStage_med (n : Nat) (st : Stage) (m : Mach) : (m.setStage n st).med = m.med := rfl
@[simp] theorem Mach.setStage_grid (n : Nat) (st : Stage) (m : Mach) : (m.setStage n st).grid = m.grid := rfl
@[simp] theorem Mach.setStage_ports (n : Nat) (st : Stage) (m : Mach) : (m.setStage n st).ports = m.ports := rfl
@[simp] theorem Mach.setStage_stg (n : Nat) (st : Stage) (m : Mach) : (m.setStage n st).stg = m.stg := rfl
@[simp] theorem Mach.setStage_drill (n : Nat) (st : Stage) (m : Mach) : (m.setStage n st).drill = m.drill := rfl
@[simp] theorem Mach.setStage_plots (n : Nat) (st : Stage) (m : Mach) : (m.setStage n st).plots = m.plots := rfl
@[simp] theorem Mach.setStage_hitch (n : Nat) (st : Stage) (m : Mach) : (m.setStage n st).hitch = m.hitch := rfl
@[simp] theorem Mach.setStage_power (n : Nat) (st : Stage) (m : Mach) : (m.setStage n st).power = m.power := rfl
@[simp] theorem Mach.setStage_heat (n : Nat) (st : Stage) (m : Mach) : (m.setStage n st).heat = m.heat := rfl
@[simp] theorem Mach.setStage_boot (n : Nat) (st : Stage) (m : Mach) : (m.setStage n st).boot = m.boot := rfl
@[simp] theorem Mach.setStage_img (n : Nat) (st : Stage) (m : Mach) : (m.setStage n st).img = m.img := rfl
@[simp] theorem Mach.setStage_polez (n : Nat) (st : Stage) (m : Mach) : (m.setStage n st).polez = m.polez := rfl
@[simp] theorem Mach.setStage_ybk (n : Nat) (st : Stage) (m : Mach) : (m.setStage n st).ybk = m.ybk := rfl

@[simp] theorem Mach.hubInt_hub_part (b : Nat) (m : Mach) : (m.hubInt b).hub.part = m.hub.part := rfl
@[simp] theorem Mach.hubInt_hub_stepping (b : Nat) (m : Mach) : (m.hubInt b).hub.stepping = m.hub.stepping := rfl
@[simp] theorem Mach.hubInt_hub_serial (b : Nat) (m : Mach) : (m.hubInt b).hub.serial = m.hub.serial := rfl
@[simp] theorem Mach.hubInt_hub_drops (b : Nat) (m : Mach) : (m.hubInt b).hub.drops = m.hub.drops := rfl
@[simp] theorem Mach.hubInt_hub_dropCause (b : Nat) (m : Mach) : (m.hubInt b).hub.dropCause = m.hub.dropCause := rfl
@[simp] theorem Mach.hubInt_hub_dropAddr (b : Nat) (m : Mach) : (m.hubInt b).hub.dropAddr = m.hub.dropAddr := rfl
@[simp] theorem Mach.hubInt_hub_readData (b : Nat) (m : Mach) : (m.hubInt b).hub.readData = m.hub.readData := rfl
@[simp] theorem Mach.hubInt_hub_latchPass (b : Nat) (m : Mach) : (m.hubInt b).hub.latchPass = m.hub.latchPass := rfl
@[simp] theorem Mach.hubInt_hub_latchVer (b : Nat) (m : Mach) : (m.hubInt b).hub.latchVer = m.hub.latchVer := rfl
@[simp] theorem Mach.hubInt_hub_latchLife (b : Nat) (m : Mach) : (m.hubInt b).hub.latchLife = m.hub.latchLife := rfl
@[simp] theorem Mach.hubInt_hub_cause (b : Nat) (m : Mach) : (m.hubInt b).hub.cause = m.hub.cause := rfl
@[simp] theorem Mach.hubInt_hub_salv (b : Nat) (m : Mach) : (m.hubInt b).hub.salv = m.hub.salv := rfl
@[simp] theorem Mach.hubInt_hub_fenced (b : Nat) (m : Mach) : (m.hubInt b).hub.fenced = m.hub.fenced := rfl
@[simp] theorem Mach.hubInt_hub_fencing (b : Nat) (m : Mach) : (m.hubInt b).hub.fencing = m.hub.fencing := rfl
@[simp] theorem Mach.hubInt_hub_lostAfter (b : Nat) (m : Mach) : (m.hubInt b).hub.lostAfter = m.hub.lostAfter := rfl
@[simp] theorem Mach.hubInt_hub_fatal (b : Nat) (m : Mach) : (m.hubInt b).hub.fatal = m.hub.fatal := rfl
@[simp] theorem Mach.hubInt_hub_fatalBits (b : Nat) (m : Mach) : (m.hubInt b).hub.fatalBits = m.hub.fatalBits := rfl
@[simp] theorem Mach.hubInt_hub_fatalCount (b : Nat) (m : Mach) : (m.hubInt b).hub.fatalCount = m.hub.fatalCount := rfl
@[simp] theorem Mach.hubInt_hub_mcoreAt (b : Nat) (m : Mach) : (m.hubInt b).hub.mcoreAt = m.hub.mcoreAt := rfl
@[simp] theorem Mach.hubInt_hub_restarts (b : Nat) (m : Mach) : (m.hubInt b).hub.restarts = m.hub.restarts := rfl
@[simp] theorem Mach.hubInt_hub_selfTest (b : Nat) (m : Mach) : (m.hubInt b).hub.selfTest = m.hub.selfTest := rfl
@[simp] theorem Mach.hubInt_hub_xbar (b : Nat) (m : Mach) : (m.hubInt b).hub.xbar = m.hub.xbar := rfl
@[simp] theorem Mach.hubInt_hub_salvLost (b : Nat) (m : Mach) : (m.hubInt b).hub.salvLost = m.hub.salvLost := rfl
@[simp] theorem Mach.hubInt_hub_freeCtr (b : Nat) (m : Mach) : (m.hubInt b).hub.freeCtr = m.hub.freeCtr := rfl

/-! ## An event posted to the hub changes the book and the interrupt status alone -/

@[simp] theorem Mach.record_clk (c g s : Nat) (m : Mach) : (m.record c g s).clk = m.clk := by unfold Mach.record; split <;> rfl
@[simp] theorem Mach.record_tines (c g s : Nat) (m : Mach) : (m.record c g s).tines = m.tines := by unfold Mach.record; split <;> rfl
@[simp] theorem Mach.record_disp (c g s : Nat) (m : Mach) : (m.record c g s).disp = m.disp := by unfold Mach.record; split <;> rfl
@[simp] theorem Mach.record_retry (c g s : Nat) (m : Mach) : (m.record c g s).retry = m.retry := by unfold Mach.record; split <;> rfl
@[simp] theorem Mach.record_front (c g s : Nat) (m : Mach) : (m.record c g s).front = m.front := by unfold Mach.record; split <;> rfl
@[simp] theorem Mach.record_med (c g s : Nat) (m : Mach) : (m.record c g s).med = m.med := by unfold Mach.record; split <;> rfl
@[simp] theorem Mach.record_grid (c g s : Nat) (m : Mach) : (m.record c g s).grid = m.grid := by unfold Mach.record; split <;> rfl
@[simp] theorem Mach.record_ports (c g s : Nat) (m : Mach) : (m.record c g s).ports = m.ports := by unfold Mach.record; split <;> rfl
@[simp] theorem Mach.record_stg (c g s : Nat) (m : Mach) : (m.record c g s).stg = m.stg := by unfold Mach.record; split <;> rfl
@[simp] theorem Mach.record_drill (c g s : Nat) (m : Mach) : (m.record c g s).drill = m.drill := by unfold Mach.record; split <;> rfl
@[simp] theorem Mach.record_plots (c g s : Nat) (m : Mach) : (m.record c g s).plots = m.plots := by unfold Mach.record; split <;> rfl
@[simp] theorem Mach.record_hitch (c g s : Nat) (m : Mach) : (m.record c g s).hitch = m.hitch := by unfold Mach.record; split <;> rfl
@[simp] theorem Mach.record_power (c g s : Nat) (m : Mach) : (m.record c g s).power = m.power := by unfold Mach.record; split <;> rfl
@[simp] theorem Mach.record_heat (c g s : Nat) (m : Mach) : (m.record c g s).heat = m.heat := by unfold Mach.record; split <;> rfl
@[simp] theorem Mach.record_boot (c g s : Nat) (m : Mach) : (m.record c g s).boot = m.boot := by unfold Mach.record; split <;> rfl
@[simp] theorem Mach.record_img (c g s : Nat) (m : Mach) : (m.record c g s).img = m.img := by unfold Mach.record; split <;> rfl
@[simp] theorem Mach.record_polez (c g s : Nat) (m : Mach) : (m.record c g s).polez = m.polez := by unfold Mach.record; split <;> rfl
@[simp] theorem Mach.record_hub_part (c g s : Nat) (m : Mach) : (m.record c g s).hub.part = m.hub.part := by unfold Mach.record; split <;> rfl
@[simp] theorem Mach.record_hub_stepping (c g s : Nat) (m : Mach) : (m.record c g s).hub.stepping = m.hub.stepping := by unfold Mach.record; split <;> rfl
@[simp] theorem Mach.record_hub_serial (c g s : Nat) (m : Mach) : (m.record c g s).hub.serial = m.hub.serial := by unfold Mach.record; split <;> rfl
@[simp] theorem Mach.record_hub_drops (c g s : Nat) (m : Mach) : (m.record c g s).hub.drops = m.hub.drops := by unfold Mach.record; split <;> rfl
@[simp] theorem Mach.record_hub_dropCause (c g s : Nat) (m : Mach) : (m.record c g s).hub.dropCause = m.hub.dropCause := by unfold Mach.record; split <;> rfl
@[simp] theorem Mach.record_hub_dropAddr (c g s : Nat) (m : Mach) : (m.record c g s).hub.dropAddr = m.hub.dropAddr := by unfold Mach.record; split <;> rfl
@[simp] theorem Mach.record_hub_readData (c g s : Nat) (m : Mach) : (m.record c g s).hub.readData = m.hub.readData := by unfold Mach.record; split <;> rfl
@[simp] theorem Mach.record_hub_latchPass (c g s : Nat) (m : Mach) : (m.record c g s).hub.latchPass = m.hub.latchPass := by unfold Mach.record; split <;> rfl
@[simp] theorem Mach.record_hub_latchVer (c g s : Nat) (m : Mach) : (m.record c g s).hub.latchVer = m.hub.latchVer := by unfold Mach.record; split <;> rfl
@[simp] theorem Mach.record_hub_latchLife (c g s : Nat) (m : Mach) : (m.record c g s).hub.latchLife = m.hub.latchLife := by unfold Mach.record; split <;> rfl
@[simp] theorem Mach.record_hub_cause (c g s : Nat) (m : Mach) : (m.record c g s).hub.cause = m.hub.cause := by unfold Mach.record; split <;> rfl
@[simp] theorem Mach.record_hub_salv (c g s : Nat) (m : Mach) : (m.record c g s).hub.salv = m.hub.salv := by unfold Mach.record; split <;> rfl
@[simp] theorem Mach.record_hub_fenced (c g s : Nat) (m : Mach) : (m.record c g s).hub.fenced = m.hub.fenced := by unfold Mach.record; split <;> rfl
@[simp] theorem Mach.record_hub_fencing (c g s : Nat) (m : Mach) : (m.record c g s).hub.fencing = m.hub.fencing := by unfold Mach.record; split <;> rfl
@[simp] theorem Mach.record_hub_lostAfter (c g s : Nat) (m : Mach) : (m.record c g s).hub.lostAfter = m.hub.lostAfter := by unfold Mach.record; split <;> rfl
@[simp] theorem Mach.record_hub_fatal (c g s : Nat) (m : Mach) : (m.record c g s).hub.fatal = m.hub.fatal := by unfold Mach.record; split <;> rfl
@[simp] theorem Mach.record_hub_fatalBits (c g s : Nat) (m : Mach) : (m.record c g s).hub.fatalBits = m.hub.fatalBits := by unfold Mach.record; split <;> rfl
@[simp] theorem Mach.record_hub_fatalCount (c g s : Nat) (m : Mach) : (m.record c g s).hub.fatalCount = m.hub.fatalCount := by unfold Mach.record; split <;> rfl
@[simp] theorem Mach.record_hub_mcoreAt (c g s : Nat) (m : Mach) : (m.record c g s).hub.mcoreAt = m.hub.mcoreAt := by unfold Mach.record; split <;> rfl
@[simp] theorem Mach.record_hub_restarts (c g s : Nat) (m : Mach) : (m.record c g s).hub.restarts = m.hub.restarts := by unfold Mach.record; split <;> rfl
@[simp] theorem Mach.record_hub_selfTest (c g s : Nat) (m : Mach) : (m.record c g s).hub.selfTest = m.hub.selfTest := by unfold Mach.record; split <;> rfl
@[simp] theorem Mach.record_hub_xbar (c g s : Nat) (m : Mach) : (m.record c g s).hub.xbar = m.hub.xbar := by unfold Mach.record; split <;> rfl
@[simp] theorem Mach.record_hub_salvLost (c g s : Nat) (m : Mach) : (m.record c g s).hub.salvLost = m.hub.salvLost := by unfold Mach.record; split <;> rfl
@[simp] theorem Mach.record_hub_freeCtr (c g s : Nat) (m : Mach) : (m.record c g s).hub.freeCtr = m.hub.freeCtr := by unfold Mach.record; split <;> rfl

end Sys2Proof.Machine
end

