-- ==== Sys2Proof/Laws/Tbl.lean ====
section
/-! SUPPORT. Laws of the tables: reading after writing, and the canonical form (rising indices, no entry equal to the default) that every write
keeps. -/

namespace Sys2Proof.Machine

variable {α : Type} [DecidableEq α]

omit [DecidableEq α] in
@[simp] theorem Tbl.get_nil (d : α) (k : Nat) : Tbl.get d k ([] : Tbl α) = d := rfl

theorem Tbl.wfFrom_mono (d : α) {a b : Nat} (h : a ≤ b) : ∀ t : Tbl α, Tbl.wfFrom d b t = true → Tbl.wfFrom d a t = true
  | [], _ => rfl
  | (k, v) :: t, w => by
    simp only [Tbl.wfFrom, Bool.and_eq_true, decide_eq_true_eq] at w ⊢
    exact ⟨⟨by omega, w.1.2⟩, w.2⟩

/-- An index below every entry holds the default. -/
theorem Tbl.get_below (d : α) {k lo : Nat} (h : k < lo) : ∀ t : Tbl α, Tbl.wfFrom d lo t = true → Tbl.get d k t = d
  | [], _ => rfl
  | (k', v) :: t, w => by
    simp only [Tbl.wfFrom, Bool.and_eq_true, decide_eq_true_eq] at w
    have : k ≠ k' := by omega
    have h' : k < k' := by omega
    simp [Tbl.get, this, h']

/-- A write keeps the canonical form. -/
theorem Tbl.put_wfFrom (d : α) (k : Nat) (v : α) :
    ∀ (lo : Nat) (t : Tbl α), lo ≤ k → Tbl.wfFrom d lo t = true → Tbl.wfFrom d lo (Tbl.put d k v t) = true
  | lo, [], hk, _ => by
    by_cases hv : v = d <;> simp [Tbl.put, Tbl.wfFrom, hv, hk]
  | lo, (k', w) :: t, hk, h => by
    have h0 := h
    simp only [Tbl.wfFrom, Bool.and_eq_true, decide_eq_true_eq] at h
    obtain ⟨⟨h1, h2⟩, h3⟩ := h
    unfold Tbl.put
    by_cases ha : k < k'
    · by_cases hv : v = d
      · simpa [ha, hv] using h0
      · have : k + 1 ≤ k' := by omega
        simp [ha, hv, Tbl.wfFrom, hk, this, h2, h3]
    · by_cases hb : k = k'
      · subst hb
        by_cases hv : v = d
        · simpa [hv] using Tbl.wfFrom_mono d (by omega) t h3
        · simp [hv, Tbl.wfFrom, hk, h3]
      · have := Tbl.put_wfFrom d k v (k' + 1) t (by omega) h3
        simp [ha, hb, Tbl.wfFrom, h1, h2, this]

theorem Tbl.put_wf (d : α) (k : Nat) (v : α) (t : Tbl α) (h : Tbl.wf d t = true) : Tbl.wf d (Tbl.put d k v t) = true :=
  Tbl.put_wfFrom d k v 0 t (Nat.zero_le k) h

theorem Tbl.upd_wf (d : α) (k : Nat) (f : α → α) (t : Tbl α) (h : Tbl.wf d t = true) : Tbl.wf d (Tbl.upd d k f t) = true :=
  Tbl.put_wf d k _ t h

/-- A read after a write to the same index gives the value written. -/
theorem Tbl.get_put_self (d : α) (k : Nat) (v : α) :
    ∀ (lo : Nat) (t : Tbl α), Tbl.wfFrom d lo t = true → Tbl.get d k (Tbl.put d k v t) = v
  | _, [], _ => by by_cases hv : v = d <;> simp [Tbl.put, Tbl.get, hv]
  | _, (k', w) :: t, h => by
    simp only [Tbl.wfFrom, Bool.and_eq_true, decide_eq_true_eq] at h
    unfold Tbl.put
    by_cases ha : k < k'
    · have : k ≠ k' := by omega
      by_cases hv : v = d <;> simp [ha, hv, Tbl.get, this]
    · by_cases hb : k = k'
      · subst hb
        by_cases hv : v = d
        · simpa [hv] using Tbl.get_below d (Nat.lt_succ_self k) t h.2
        · simp [hv, Tbl.get]
      · have := Tbl.get_put_self d k v (k' + 1) t h.2
        simp [ha, hb, Tbl.get, this]

/-- A write leaves every other index alone. -/
theorem Tbl.get_put_ne (d : α) (k i : Nat) (v : α) (hne : i ≠ k) :
    ∀ (lo : Nat) (t : Tbl α), Tbl.wfFrom d lo t = true → Tbl.get d i (Tbl.put d k v t) = Tbl.get d i t
  | _, [], _ => by by_cases hv : v = d <;> simp [Tbl.put, Tbl.get, hv, hne]
  | _, (k', w) :: t, h => by
    simp only [Tbl.wfFrom, Bool.and_eq_true, decide_eq_true_eq] at h
    unfold Tbl.put
    by_cases ha : k < k'
    · by_cases hv : v = d
      · simp [ha, hv]
      · by_cases hi : i < k
        · have h1 : i ≠ k' := by omega
          have h2 : i < k' := by omega
          simp [ha, hv, Tbl.get, hne, hi, h1, h2]
        · simp [ha, hv, Tbl.get, hne, hi]
    · by_cases hb : k = k'
      · subst hb
        by_cases hv : v = d
        · by_cases hi : i < k
          · simp [hv, Tbl.get, hne, hi, Tbl.get_below d (show i < k + 1 by omega) t h.2]
          · simp [hv, Tbl.get, hne, hi]
        · simp [hv, Tbl.get, hne]
      · have := Tbl.get_put_ne d k i v hne (k' + 1) t h.2
        simp [ha, hb, Tbl.get, this]

/-- The entries of a table after a write: those that it had, and the one written. -/
theorem Tbl.mem_put (d : α) (k : Nat) (v : α) (e : Nat × α) : ∀ t : Tbl α, e ∈ Tbl.put d k v t → e ∈ t ∨ e = (k, v)
  | [], h => by
    by_cases hv : v = d <;> simp [Tbl.put, hv] at h
    exact Or.inr h
  | (k', w) :: t, h => by
    unfold Tbl.put at h
    split at h
    · split at h
      · exact Or.inl h
      · rcases List.mem_cons.mp h with h | h
        · exact Or.inr h
        · exact Or.inl h
    · split at h
      · split at h
        · exact Or.inl (List.mem_cons_of_mem _ h)
        · rcases List.mem_cons.mp h with h | h
          · exact Or.inr h
          · exact Or.inl (List.mem_cons_of_mem _ h)
      · rcases List.mem_cons.mp h with h | h
        · exact Or.inl (h ▸ List.mem_cons_self ..)
        · rcases Tbl.mem_put d k v e t h with h | h
          · exact Or.inl (List.mem_cons_of_mem _ h)
          · exact Or.inr h

end Sys2Proof.Machine
end

