-- ==== Sys2Proof/Laws/Ops.lean ====
section
/-! SUPPORT. One lemma for each shared operation: all that it can change, as an equation that keeps every other field. -/

namespace Sys2Proof.Machine

/-! ## The clock, events and interrupts -/

theorem Mach.advance_only (t : Nat) (m : Mach) :
    m.advance t = { m with clk := { m.clk with now := Nat.max m.clk.now t, tineQ := m.clk.tineQ + (t - m.clk.now) * m.tineRate },
                           grid := { m.grid with time := m.gridAt t } } := rfl
theorem Mach.advanceOn_only (k : Tier) (t : Nat) (m : Mach) : m.advanceOn k t = m.advance (m.evalEdge k t) := rfl

theorem Mach.hubInt_only (b : Nat) (m : Mach) : m.hubInt b = { m with hub := { m.hub with intSts := m.hub.intSts ||| (1#32 <<< b) } } := rfl

/-- An occurrence changes the Yield Book and, when its queue is full, an interrupt bit. -/
theorem Mach.record_only (code mag src : Nat) (m : Mach) :
    m.record code mag src = { m with ybk := (m.record code mag src).ybk,
                                     hub := { m.hub with intSts := (m.record code mag src).hub.intSts } } := by
  unfold Mach.record
  split <;> rfl

/-- An occurrence of the hub itself is never dropped. -/
theorem Mach.record_hub (code mag : Nat) (m : Mach) :
    m.record code mag 0 = { m with ybk := { m.ybk with queue := m.ybk.queue ++ [{ code := code, mag := mag, src := 0, edge := m.clk.now }] } } := rfl

/-! ## Commands in flight -/

theorem Mach.updCmd_only (stamp : Nat) (f : Cmd → Cmd) (m : Mach) :
    m.updCmd stamp f = { m with front := { m.front with inflight := m.front.inflight.map fun c => if c.stamp = stamp then f c else c } } := rfl

theorem Mach.updCmd_length (stamp : Nat) (f : Cmd → Cmd) (m : Mach) :
    (m.updCmd stamp f).front.inflight.length = m.front.inflight.length := by simp [Mach.updCmd_only]

theorem Mach.finish_only (stamp : Nat) (st : Status) (dw0 : Word) (m : Mach) :
    m.finish stamp st dw0 = { m with front := { m.front with inflight := (m.finish stamp st dw0).front.inflight } } := rfl
theorem Mach.succeed_only (stamp : Nat) (m : Mach) :
    m.succeed stamp = { m with front := { m.front with inflight := (m.succeed stamp).front.inflight } } := rfl
theorem Mach.failWith_only (stamp : Nat) (st : Status) (m : Mach) :
    m.failWith stamp st = { m with front := { m.front with inflight := (m.failWith stamp st).front.inflight } } := rfl
theorem Mach.reply_only (stamp : Nat) (bs : List Byte) (m : Mach) :
    m.reply stamp bs = { m with front := { m.front with inflight := (m.reply stamp bs).front.inflight } } := rfl
theorem Mach.setStage_only (stamp : Nat) (st : Stage) (m : Mach) :
    m.setStage stamp st = { m with front := { m.front with inflight := (m.setStage stamp st).front.inflight } } := rfl

/-! ## Tasks and tines -/

theorem Mach.setTine_only (t : Nat) (v : Tine) (m : Mach) : m.setTine t v = { m with tines := (m.setTine t v).tines } := rfl

theorem Mach.startTask_only (t : Nat) (k : Task) (m : Mach) : m.startTask t k = { m with tines := (m.startTask t k).tines } := rfl

/-- Placing a faulted task changes tines and what is offered again. -/
theorem Mach.placeRetry_only (k : Task) (m : Mach) :
    m.placeRetry k = { m with tines := (m.placeRetry k).tines, retry := (m.placeRetry k).retry } := by
  unfold Mach.placeRetry
  split <;> rfl

/-- Placing a task changes tines, the dispatcher, what is offered again, and the tasks held for a swath that switches. -/
theorem Mach.placeAged_only (k : Task) (m : Mach) :
    m.placeAged k = { m with tines := (m.placeAged k).tines, disp := (m.placeAged k).disp, retry := (m.placeAged k).retry,
                             img := { m.img with hold := (m.placeAged k).img.hold } } := by
  unfold Mach.placeAged Mach.placeRetry
  repeat' split
  all_goals rfl

theorem Mach.place_only (k : Task) (m : Mach) :
    m.place k = { m with tines := (m.place k).tines, disp := (m.place k).disp, retry := (m.place k).retry,
                         img := { m.img with hold := (m.place k).img.hold } } := Mach.placeAged_only _ m

/-- What every step of a fold keeps, the fold keeps. -/
theorem foldl_keeps {α β γ : Type} (g : β → α) (f : β → γ → β) (hf : ∀ b c, g (f b c) = g b) :
    ∀ (l : List γ) (b : β), g (l.foldl f b) = g b
  | [], _ => rfl
  | c :: l, b => by rw [List.foldl_cons, foldl_keeps g f hf l, hf]

/-- A fold of placed tasks keeps what placing one task keeps. -/
theorem Mach.placeAll_keeps {α : Type} (g : Mach → α) (hg : ∀ (k : Task) (m : Mach), g (m.placeAged k) = g m) (m : Mach)
    (h0 : g { m with disp := [], retry := [] } = g m) : g m.offerRetries = g m := by
  rw [show m.offerRetries = (m.disp ++ m.retry).foldl (fun m k => m.placeAged k) { m with disp := [], retry := [] } from rfl,
    foldl_keeps g (fun m k => m.placeAged k) (fun m k => hg k m), h0]

theorem Img.hold_only {a b : Img} (h : { a with hold := [] } = { b with hold := [] }) : a = { b with hold := a.hold } := by
  cases a; cases b
  simp only [Img.mk.injEq] at h ⊢
  simp [h]

theorem Mach.placeAged_field {α : Type} (g : Mach → α) (k : Task) (m : Mach)
    (hg : ∀ (m : Mach) t d r h, g { m with tines := t, disp := d, retry := r, img := { m.img with hold := h } } = g m) :
    g (m.placeAged k) = g m := by
  rw [Mach.placeAged_only]; exact hg ..

/-- Offering tasks again changes tines, the dispatcher, the retry list and the tasks held for a swath that switches. -/
theorem Mach.offerRetries_only (m : Mach) :
    m.offerRetries = { m with tines := m.offerRetries.tines, disp := m.offerRetries.disp, retry := m.offerRetries.retry,
                              img := { m.img with hold := m.offerRetries.img.hold } } := by
  have key := fun {α : Type} (g : Mach → α) hg h0 => Mach.placeAll_keeps g (fun k m => Mach.placeAged_field g k m hg) m h0
  have hi := Img.hold_only (key (fun m => { m.img with hold := [] }) (fun _ _ _ _ _ => rfl) rfl)
  have h1 := key Mach.clk (fun _ _ _ _ _ => rfl) rfl
  have h2 := key Mach.hub (fun _ _ _ _ _ => rfl) rfl
  have h3 := key Mach.front (fun _ _ _ _ _ => rfl) rfl
  have h4 := key Mach.med (fun _ _ _ _ _ => rfl) rfl
  have h5 := key Mach.grid (fun _ _ _ _ _ => rfl) rfl
  have h6 := key Mach.ports (fun _ _ _ _ _ => rfl) rfl
  have h7 := key Mach.stg (fun _ _ _ _ _ => rfl) rfl
  have h8 := key Mach.drill (fun _ _ _ _ _ => rfl) rfl
  have h9 := key Mach.plots (fun _ _ _ _ _ => rfl) rfl
  have h10 := key Mach.hitch (fun _ _ _ _ _ => rfl) rfl
  have h11 := key Mach.power (fun _ _ _ _ _ => rfl) rfl
  have h12 := key Mach.heat (fun _ _ _ _ _ => rfl) rfl
  have h13 := key Mach.boot (fun _ _ _ _ _ => rfl) rfl
  have h14 := key Mach.polez (fun _ _ _ _ _ => rfl) rfl
  have h15 := key Mach.ybk (fun _ _ _ _ _ => rfl) rfl
  generalize m.offerRetries = n at *
  cases n
  simp only at *
  simp only [Mach.mk.injEq]
  exact ⟨h1, h2, trivial, trivial, trivial, h3, h4, h5, h6, h7, h8, h9, h10, h11, h12, h13, hi, h14, h15⟩

end Sys2Proof.Machine
end

