-- ==== Sys2Proof/Laws/Config.lean ====
section
/-! SUPPORT. What each operation on a whole state keeps: the queue of waiting commands, and the legality of the configuration. -/

namespace Sys2Proof.Machine

/-- What every operation on a state keeps: the queue, and a legal configuration. -/
def State.Keeps (s t : State) : Prop := t.pending = s.pending ∧ (s.cfg.Legal → t.cfg.Legal)
theorem State.Keeps.refl (s : State) : State.Keeps s s := ⟨rfl, id⟩
theorem State.Keeps.trans {a b c : State} (h : State.Keeps a b) (k : State.Keeps b c) : State.Keeps a c := ⟨k.1.trans h.1, k.2 ∘ h.2⟩
theorem State.Keeps.on (s : State) (f : Cfg → Mach → Mach) : State.Keeps s (s.on f) := ⟨rfl, id⟩
theorem State.Keeps.withMach (s : State) (m : Mach) : State.Keeps s { s with m := m } := ⟨rfl, id⟩
theorem State.Keeps.ite {s a b : State} {c : Prop} [Decidable c] (h : State.Keeps s a) (k : State.Keeps s b) : State.Keeps s (if c then a else b) := by split <;> assumption
theorem State.Keeps.barWrite (addr : Nat) (r g : Bool) (be : BitVec 4) (f : State → State) (s : State) (h : State.Keeps s (f s)) : State.Keeps s (s.barWrite addr r g be f) := by
  unfold State.barWrite
  exact .ite (.refl _) (.ite (.on ..) (.ite (.on ..) (.ite (.on ..) h)))
theorem Tbl.legal_put (d : Nat) (p : Nat → Prop) (t : Tbl Nat) (k v : Nat) (h : Tbl.Legal d p t) (hv : p v) : Tbl.Legal d p (Tbl.put d k v t) := by
  refine ⟨Tbl.put_wf d k v t h.1, fun e he => ?_⟩
  rcases Tbl.mem_put d k v e t he with he | rfl
  · exact h.2 e he
  · exact hv
theorem State.Keeps.cfg (s t : State) (hp : t.pending = s.pending) (hc : s.cfg.Legal → t.cfg.Legal) : State.Keeps s t := ⟨hp, hc⟩
/-- A reset keeps them when the configuration it gives is legal. -/
theorem State.Keeps.warmReset (h : ∀ sc, (Cfg.reset sc).Legal) (s : State) (a b : Bool) : State.Keeps s (s.warmReset a b) := ⟨rfl, fun _ => h _⟩
theorem State.Keeps.restart (h : ∀ sc, (Cfg.reset sc).Legal) (s : State) : State.Keeps s s.restart :=
  (State.Keeps.on ..).trans (State.Keeps.warmReset h ..)
theorem State.Keeps.outsideReset (h : ∀ sc, (Cfg.reset sc).Legal) (s : State) : State.Keeps s s.outsideReset := by
  unfold State.outsideReset
  exact .ite (.refl _) (.ite (.refl _) (.ite (.on ..) (.warmReset h ..)))
theorem State.Keeps.setFurCfg (a b : Nat) (p u : Bool) (s : State) : State.Keeps s (s.setFurCfg a b p u) := by
  unfold State.setFurCfg
  split
  · exact .refl _
  · refine ⟨rfl, fun h => ?_⟩
    rename_i hk
    simp [furCfgOk] at hk
    exact { h with ptmInt := ⟨by tauto, by tauto⟩, rdRes := by tauto }
theorem State.Keeps.setBedP (b p : Nat) (s : State) : State.Keeps s (s.setBedP b p) := by
  unfold State.setBedP
  split
  · rename_i hk
    exact ⟨rfl, fun h => { h with bedP := Tbl.legal_put 1 _ _ _ _ h.bedP hk }⟩
  · exact .refl _
theorem State.Keeps.fold {α : Type} (f : State → α → State) (hf : ∀ s a, State.Keeps s (f s a)) : ∀ (l : List α) (s : State), State.Keeps s (l.foldl f s)
  | [], s => .refl s
  | a :: l, s => (hf s a).trans (State.Keeps.fold f hf l _)
theorem State.Keeps.applyGrid (bs : List Byte) (s : State) : State.Keeps s (s.applyGrid bs) := by
  unfold State.applyGrid
  exact .ite ((State.Keeps.setFurCfg ..).trans (State.Keeps.fold _ (fun s b => State.Keeps.setBedP _ _ s) _ _)) (State.Keeps.setFurCfg ..)
theorem State.Keeps.rateWrite (a : Nat) (v : Word) (be : BitVec 4) (s : State) : State.Keeps s (s.rateWrite a v be) := by
  unfold State.rateWrite
  refine .ite (.refl _) (.barWrite _ _ _ _ _ _ ?_)
  simp only
  split
  · rename_i hk
    exact ⟨rfl, fun h => { h with rateTarget := Tbl.legal_put _ _ _ _ _ h.rateTarget (by simpa using hk) }⟩
  · exact .refl _
theorem State.Keeps.dirtyCfgWrite (v : Word) (be : BitVec 4) (s : State) : State.Keeps s (s.dirtyCfgWrite v be) := by
  unfold State.dirtyCfgWrite
  refine .barWrite _ _ _ _ _ _ ?_
  simp only
  split
  · exact ⟨rfl, fun h => { h with }⟩
  · split
    · split <;> exact ⟨rfl, fun h => { h with }⟩
    · split
      · rename_i hk; exact ⟨rfl, fun h => { h with dirtyCap := hk }⟩
      · exact ⟨rfl, fun h => { h with }⟩
theorem State.Keeps.hubWrite (o : Nat) (v : Word) (s : State) : State.Keeps s (s.hubWrite o v) := by
  unfold State.hubWrite
  split
  · refine ⟨rfl, fun h => { h with intEn := ?_ }⟩
    show v &&& intMask &&& intMask = v &&& intMask
    rw [BitVec.and_assoc, BitVec.and_self]
  · exact .on ..
  · simp only
    split
    · rename_i hk
      refine ⟨rfl, fun h => { h with fetch := ⟨hk.1, ?_, hk.2.1, hk.2.2⟩ }⟩
      simp [Word.bits]; omega
    · exact .refl _
  · split
    · exact .refl _
    · refine ⟨rfl, fun h => { h with intWt := Tbl.legal_put _ _ _ _ _ h.intWt ⟨by omega, ?_⟩ }⟩
      simp [Word.bits]; omega
  · split
    · exact ⟨rfl, fun h => { h with }⟩
    · exact .refl _
theorem State.Keeps.acreWrite (a o : Nat) (v : Word) (s : State) : State.Keeps s (s.acreWrite a o v) := by
  unfold State.acreWrite
  split
  · simp only
    split
    · rename_i hk
      refine ⟨rfl, fun h => { h with arpLog2 := Tbl.legal_put _ _ _ _ _ h.arpLog2 ⟨hk.1, hk.2.1⟩, age := Tbl.legal_put _ _ _ _ _ h.age ⟨hk.2.2, ?_⟩ }⟩
      simp [Word.bits]; omega
    · exact .refl _
  · split
    · exact .refl _
    · refine ⟨rfl, fun h => { h with intWt := Tbl.legal_put _ _ _ _ _ h.intWt ⟨by omega, ?_⟩ }⟩
      simp [Word.bits]; omega
  · exact .refl _
theorem State.Keeps.ersWrite (a : Nat) (v : Word) (s : State) : State.Keeps s (s.ersWrite a v) := by
  unfold State.ersWrite
  simp only
  split
  · rename_i hk; exact ⟨rfl, fun h => { h with minSlice := Tbl.legal_put _ _ _ _ _ h.minSlice hk }⟩
  · exact .refl _
theorem State.Keeps.placeWrite (p : Place) (v : Word) (s : State) : State.Keeps s (s.placeWrite p v) := by
  unfold State.placeWrite
  split
  · exact .hubWrite ..
  · exact .acreWrite ..
  · exact .ersWrite ..
  · exact .refl _
theorem State.Keeps.furCfgWrite (v : Word) (be : BitVec 4) (s : State) : State.Keeps s (s.furCfgWrite v be) := .barWrite _ _ _ _ _ _ (.setFurCfg ..)
theorem State.Keeps.furCtrlWrite (a b : Nat) (v : Word) (be : BitVec 4) (s : State) : State.Keeps s (s.furCtrlWrite a b v be) := by
  unfold State.furCtrlWrite
  exact .ite (.barWrite _ _ _ _ _ _ (.setBedP ..)) (.refl _)
theorem State.Keeps.hubCtrlWrite (v : Word) (be : BitVec 4) (s : State) : State.Keeps s (s.hubCtrlWrite v be) := .barWrite _ _ _ _ _ _ ⟨rfl, fun h => { h with }⟩
theorem State.Keeps.ledWrite (v : Word) (be : BitVec 4) (s : State) : State.Keeps s (s.ledWrite v be) := .barWrite _ _ _ _ _ _ ⟨rfl, fun h => { h with }⟩
theorem State.Keeps.intStsWrite (v : Word) (be : BitVec 4) (s : State) : State.Keeps s (s.intStsWrite v be) := .barWrite _ _ _ _ _ _ (.on ..)
theorem State.Keeps.intSetWrite (v : Word) (be : BitVec 4) (s : State) : State.Keeps s (s.intSetWrite v be) := .barWrite _ _ _ _ _ _ (.on ..)
theorem State.Keeps.nandWpWrite (a b : Nat) (v : Word) (be : BitVec 4) (s : State) : State.Keeps s (s.nandWpWrite a b v be) := .ite (.refl _) (.barWrite _ _ _ _ _ _ (.on ..))
theorem State.Keeps.bootWpWrite (b : Nat) (v : Word) (be : BitVec 4) (s : State) : State.Keeps s (s.bootWpWrite b v be) := .ite (.refl _) (.barWrite _ _ _ _ _ _ (.on ..))
theorem State.Keeps.pltCfgWrite (b : Nat) (v : Word) (be : BitVec 4) (s : State) : State.Keeps s (s.pltCfgWrite b v be) := .ite (.refl _) (.barWrite _ _ _ _ _ _ (.on ..))
theorem State.Keeps.isoCmdWrite (b : Nat) (v : Word) (be : BitVec 4) (s : State) : State.Keeps s (s.isoCmdWrite b v be) := .ite (.refl _) (.barWrite _ _ _ _ _ _ (.on ..))
theorem State.Keeps.isoMaskWrite (a b : Nat) (v : Word) (be : BitVec 4) (s : State) : State.Keeps s (s.isoMaskWrite a b v be) := .barWrite _ _ _ _ _ _ (.on ..)
theorem State.Keeps.bar2Write (o : Nat) (v : Word) (be : BitVec 4) (s : State) : State.Keeps s (s.bar2Write o v be) := by
  unfold State.bar2Write
  simp only
  refine .ite (.refl _) ?_
  split
  · exact .hubCtrlWrite ..
  · exact .intStsWrite ..
  · exact .intSetWrite ..
  · exact .ledWrite ..
  · exact .furCfgWrite ..
  · exact .dirtyCfgWrite ..
  · exact .rateWrite ..
  · exact .pltCfgWrite ..
  · exact .isoCmdWrite ..
  · exact .ite (.refl _) (.ite (.on ..) (.ite (.refl _) (.ite (.ite (.on ..) (.refl _)) (.on ..))))
  · split
    · exact .ite (.bootWpWrite ..) (.ite (.barWrite _ _ _ _ _ _ (.placeWrite ..)) (.refl _))
    · exact .ite (.furCtrlWrite ..) (.ite (.barWrite _ _ _ _ _ _ (.placeWrite ..)) (.refl _))
    · exact .ite (.nandWpWrite ..) (.ite (.barWrite _ _ _ _ _ _ (.placeWrite ..)) (.refl _))
    · exact .ite (.isoMaskWrite ..) (.ite (.barWrite _ _ _ _ _ _ (.placeWrite ..)) (.refl _))
    · exact .refl _
theorem State.Keeps.takeCopy (e : Sqe) (s : State) : State.Keeps s (s.takeCopy e) := by
  unfold State.takeCopy
  simp only
  refine .ite (.on ..) (.ite (.refl _) ?_)
  split
  · exact (State.Keeps.applyGrid ..).trans (.on ..)
  · exact .on ..
  · exact .on ..
  · exact .on ..
  · exact .refl _
theorem Mach.covered_le (m : Mach) : m.covered ≤ 32 := by
  unfold Mach.covered
  simp only
  generalize hq : (List.filter _ (List.range 33)).getLast? = q
  cases q with
  | none => simp
  | some v =>
    have := List.mem_of_getLast? hq
    have := List.mem_range.mp (List.mem_filter.mp this).1
    simp; omega
theorem State.Keeps.phaseSeven (i : PhaseInfo) (s : State) : State.Keeps s (s.phaseSeven i) := by
  unfold State.phaseSeven
  simp only
  refine .trans ?_ (.on ..)
  refine .trans ?_ (.on ..)
  have h1 : State.Keeps s (match (s.on fun _ m => m.replay i).m.boot.savedC0 with
    | none => s.on fun _ m => m.replay i
    | some l => (List.range ((s.on fun _ m => m.replay i).setFurCfg (l.getD 0 8) (l.getD 1 10) (l.getD 2 0 == 1 && (s.on fun _ m => m.replay i).m.boot.straps.portMode) (l.getD 3 1 == 1)).m.nBeds).foldl (fun s b => s.setBedP b (l.getD (4 + b) 1)) ((s.on fun _ m => m.replay i).setFurCfg (l.getD 0 8) (l.getD 1 10) (l.getD 2 0 == 1 && (s.on fun _ m => m.replay i).m.boot.straps.portMode) (l.getD 3 1 == 1))) := by
    split
    · exact .on ..
    · exact ((State.Keeps.on ..).trans (.setFurCfg ..)).trans (State.Keeps.fold _ (fun s b => State.Keeps.setBedP _ _ s) _ _)
  refine h1.trans ?_
  refine ⟨rfl, fun h => { h with dirtyCap := ⟨Nat.le_max_left .., Nat.max_le.mpr ⟨by decide, Mach.covered_le _⟩⟩ }⟩

end Sys2Proof.Machine
end

