-- ==== Sys2Proof/WellFormed.lean ====
section
/-! DEFINITION. Which operands a command can have: the numbers that the chip, its registers and its frames can name (00_scope; 01; 15). A term
outside them spells no command; a meaning gives it no effect, or that of the spec where one is stated. -/

namespace Sys2Proof

/-- 4 acres, 32 swaths, 512 tines, 64 channels, 2,048 dies, 32 beds in an acre (00_scope; 01). -/
def acreNo (n : Nat) : Bool := decide (n < 4)
def swathNo (n : Nat) : Bool := decide (n < 32)
def tineNo (n : Nat) : Bool := decide (n < 512)
def channelNo (n : Nat) : Bool := decide (n < 64)
def dieNo (n : Nat) : Bool := decide (n < 2048)
def localBed (n : Nat) : Bool := decide (n < 32)
/-- Word-line groups of a block (05 R272). -/
def levelGroup (n : Nat) : Bool := decide (n < 8)
/-- Plots and queues (04 R171). -/
def plotNo (n : Nat) : Bool := decide (n < 1024)
def queueNo (n : Nat) : Bool := decide (n ≤ 512)
def vfCount (n : Nat) : Bool := decide (n < 1024)
/-- Fault codes of a tine have 4 bits (01 R41). -/
def faultCode (n : Nat) : Bool := decide (n < 16)
/-- Host and hitch ports, hitch positions, sideband states (10 R454, R456, R462). -/
def portNo (n : Nat) : Bool := decide (n < 2)
def positionNo (n : Nat) : Bool := decide (n < 8)
def sideband (n : Nat) : Bool := decide (n < 3)
/-- Drill groups: four acres and the hub, 8 engines each (08 R386). -/
def groupNo (n : Nat) : Bool := decide (n < 5)
def engineNo (n : Nat) : Bool := decide (n < 8)
/-- DRAM subchannels and ranks, buffer pools (07 R333, R334, R367). -/
def subchannelNo (n : Nat) : Bool := decide (n < 2)
def rankNo (n : Nat) : Bool := decide (n < 2)
def poolNo (n : Nat) : Bool := decide (n < 5)
/-- Management cores and diodes (01; 11 R514). -/
def coreNo (n : Nat) : Bool := decide (n < 4)
def diodeNo (n : Nat) : Bool := decide (n < 5)
/-- Dwords of BAR2 and of a member's plot table (15 R624; 10 R470). -/
def windowOffset (n : Nat) : Bool := decide (n < 0x10000000)
def tableOffset (n : Nat) : Bool := decide (n < 0x00400000)
/-- Fields of a byte, and the payload of a Polez frame (13 R580). -/
def byteNo (n : Nat) : Bool := decide (n < 256)
def payload (n : Nat) : Bool := decide (n ≤ 4096)
/-- The structure that a command moves lies in its host buffer. -/
def entryOk (e : Sqe) : Bool := decide (e.data.length ≤ e.bufLen)

/-- The offset lies in the window (15 R619). -/
def windowOk : BarWindow → Nat → Bool
  | .device, offset => windowOffset offset
  | .bar0 port fn, offset | .bar4 port fn, offset => portNo port && plotNo fn && decide (offset < 0x4000)
  | .config port fn, offset => portNo port && plotNo fn && decide (offset < 0x1000)

/-- The operands of a command are such that it can be sent. -/
def Instr.wf : Instr → Bool
  | .ioFetch entries => entries.all entryOk
  | .adminFetch entry => entryOk entry
  | .takeTask tine _ _ => tineNo tine
  | .taskEnd tine => tineNo tine
  | .agePromotion _ => true
  | .steal tine _ => tineNo tine
  | .taskWatchdog tine _ => tineNo tine
  | .tineFault tine code => tineNo tine && faultCode code
  | .salvageDone acre _ _ => acreNo acre
  | .mcoreWatchdog core _ => coreNo core
  | .lateArrival _ => true
  | .commandFinished _ => true
  | .completionPost plot qid _ _ => plotNo plot && queueNo qid
  | .furrowBoundary acres => acres.all acreNo
  | .opIssue die _ => dieNo die
  | .dieStatusPoll die _ _ => dieNo die
  | .dieReady die _ _ _ => dieNo die
  | .dieOpTimeout die _ => dieNo die
  | .zoneFinishByController _ _ => true
  | .channelRetrainDone ch _ _ => channelNo ch
  | .patternCheck ch _ => channelNo ch
  | .decodeDone _ _ => true
  | .levelSweep die _ group _ _ => dieNo die && levelGroup group
  | .gleanerRelocate _ => true
  | .passBoundary _ => true
  | .ptmResponse _ _ _ _ _ _ => true
  | .ptmTimeout _ => true
  | .ptmEnableChange port _ _ => portNo port
  | .kUpdate => true
  | .tallyMinuteBoundary => true
  | .furCfgWrite _ _ => true
  | .furCtrlWrite acre bed _ _ => acreNo acre && localBed bed
  | .loRegisterRead offset => windowOffset offset
  | .rcRegisterRead w offset => windowOk w offset
  | .registerWrite w offset _ _ => windowOk w offset
  | .hubCtrlWrite _ _ => true
  | .hubIntStsClear _ _ => true
  | .hubIntSetWrite _ _ => true
  | .hubLedCtrlWrite _ _ => true
  | .dirtyCfgWrite _ _ => true
  | .mgdNandWpWrite swath _ _ _ => swathNo swath
  | .mgdBootWpWrite _ _ _ => true
  | .mgdWindowOpen _ _ _ _ => true
  | .mgdWindowClose _ => true
  | .dramRateRequest acre _ _ => acreNo acre
  | .dramTrainingDone acre _ _ _ _ _ => acreNo acre
  | .dramTrainingTimeout acre _ => acreNo acre
  | .dramCommandSlot acre sub _ _ _ => acreNo acre && subchannelNo sub
  | .requestPromotion acre _ => acreNo acre
  | .refreshDue acre rank _ => acreNo acre && rankNo rank
  | .mr4Poll acre _ _ => acreNo acre
  | .dqsTracking acre _ _ => acreNo acre
  | .mergeEntryTimeout acre _ => acreNo acre
  | .selfRefreshEntry acre _ => acreNo acre
  | .selfRefreshExit acre _ => acreNo acre
  | .port0IdleTimeout _ => true
  | .bufferRequest acre _ _ _ _ _ => acreNo acre
  | .bufferFree acre pool _ _ _ _ => acreNo acre && poolNo pool
  | .stripeRowReservation _ _ => true
  | .dirtyCapAdmit _ => true
  | .rangeLockGrant _ => true
  | .commitPoint _ => true
  | .descriptorPlace _ _ => true
  | .drillTakeChunk group engine _ _ => groupNo group && engineNo engine
  | .chunkDone group engine _ _ => groupNo group && engineNo engine
  | .sealReturn group _ _ _ _ => groupNo group
  | .hostCompletionTimeout group _ => groupNo group
  | .sqTailDoorbell port plot qid _ _ => portNo port && plotNo plot && queueNo qid
  | .cqHeadDoorbell port plot qid _ _ => portNo port && plotNo plot && queueNo qid
  | .controllerEnable port plot _ _ _ _ => portNo port && plotNo plot
  | .controllerReset _ => true
  | .shutdownNormal port plot _ => portNo port && plotNo plot
  | .shutdownAbrupt port plot _ => portNo port && plotNo plot
  | .nvmSubsystemReset plot _ => plotNo plot
  | .createIoSq _ => true
  | .createIoCq _ => true
  | .deleteIoSq _ => true
  | .deleteIoCq _ => true
  | .identify _ => true
  | .getLogPage _ => true
  | .getLogYieldBook _ => true
  | .getLogTally _ => true
  | .getLogGridStats _ => true
  | .getLogBedHealth _ => true
  | .getLogHitchStatus _ => true
  | .getFeatures _ => true
  | .setFeatures _ => true
  | .setFeaturesFurrowGrid _ => true
  | .setFeaturesPlacement _ => true
  | .setFeaturesPlotQuotas _ => true
  | .setFeaturesThrottle _ => true
  | .setFeaturesYbkRate _ => true
  | .setFeaturesUnwrittenRead _ => true
  | .setFeaturesPowerMgmt _ => true
  | .setFeaturesApst _ => true
  | .setFeaturesVwc _ => true
  | .asyncEventRequest _ => true
  | .vendorEventPost => true
  | .abort _ _ => true
  | .namespaceCreate _ => true
  | .namespaceDelete _ => true
  | .namespaceAttach _ => true
  | .namespaceDetach _ => true
  | .formatNvm _ => true
  | .deviceSelfTest _ => true
  | .write _ _ => true
  | .zoneAppend _ _ => true
  | .writeZeroes _ _ => true
  | .copy _ _ => true
  | .read _ _ => true
  | .verify _ _ => true
  | .flush _ _ => true
  | .flushDone _ => true
  | .datasetManagement _ _ => true
  | .zoneOpen _ _ => true
  | .zoneClose _ _ => true
  | .zoneFinish _ _ => true
  | .zoneReset _ _ => true
  | .zoneOffline _ _ => true
  | .zoneSetZde _ _ => true
  | .reportZones _ _ => true
  | .extendedReportZones _ _ => true
  | .firmwareImageDownload _ _ => true
  | .fwCommitReplace _ => true
  | .fwCommitReplaceUse _ => true
  | .fwCommitUseSlot _ => true
  | .fwCommitActivate _ => true
  | .slotWriteDone _ => true
  | .swathSwitch _ => true
  | .coreSwitch => true
  | .stagingIdleTimeout _ => true
  | .plotFreeze _ _ => true
  | .freezeBoundExpiry plot _ => plotNo plot
  | .freezeDone plot _ => plotNo plot
  | .plotSave _ => true
  | .plotRestore _ => true
  | .installMigrationKey _ => true
  | .plotThaw _ => true
  | .plotReset port plot _ => portNo port && plotNo plot
  | .flrPlot0 _ => true
  | .plotResetHostTimeout plot _ => plotNo plot
  | .plotResetDone plot _ => plotNo plot
  | .vfEnableSet port numVfs => portNo port && vfCount numVfs
  | .vfEnableClear port numVfs _ => portNo port && vfCount numVfs
  | .pltCfgWrite plot _ _ => plotNo plot
  | .isoApply plot _ _ => plotNo plot
  | .isoApplyDone plot => plotNo plot
  | .hitchRediscover _ _ => true
  | .hitchIsolate _ _ => true
  | .hitchReadmit _ _ => true
  | .hitchPassAlong _ => true
  | .isolateWaitExpiry position _ => positionNo position
  | .keepaliveSend port _ => portNo port
  | .keepalive port _ => portNo port
  | .keepaliveMiss port _ => portNo port
  | .discover port _ _ => portNo port
  | .discoverTimeout _ => true
  | .announce port position _ => portNo port && byteNo position
  | .linkDown source port _ _ => positionNo source && portNo port
  | .linkUp source port _ => positionNo source && portNo port
  | .time _ _ _ _ _ => true
  | .timeLossTimeout _ => true
  | .resync _ => true
  | .resyncReply source _ _ => positionNo source
  | .orphan _ => true
  | .readmitTimer position _ => positionNo position
  | .cmd _ _ plot _ _ _ _ => plotNo plot
  | .dataReq source _ _ _ _ => positionNo source
  | .dataW _ _ _ _ _ => true
  | .dataR source _ _ _ _ _ => positionNo source
  | .cpl source _ _ _ _ _ _ _ => positionNo source
  | .ack _ => true
  | .cancel _ _ _ => true
  | .cancelReply source _ _ _ => positionNo source
  | .imgHdr port _ bytes => portNo port && decide (bytes.length = 4096)
  | .imgBlk port _ bytes => portNo port && decide (bytes.length ≤ 4096)
  | .imgSts source _ => positionNo source
  | .imgCommit _ => true
  | .regRd offset => tableOffset offset
  | .regWr offset _ => tableOffset offset
  | .regData source offset _ => positionNo source && tableOffset offset
  | .tally source _ _ => positionNo source
  | .hitchTrainingDone port _ => portNo port
  | .hitchTrainingRetry port _ => portNo port
  | .sidebandChange port pattern => portNo port && sideband pattern
  | .apstIdleTimeout _ => true
  | .nonopEntry _ => true
  | .domainDrainDone _ => true
  | .drainBoundExpiry _ => true
  | .nonopExit _ => true
  | .throttleEval => true
  | .isnsSample _ => true
  | .diodeSelfCheck diode _ _ _ => diodeNo diode
  | .tripSample _ _ => true
  | .tripDumpDone _ => true
  | .tripBackstop _ => true
  | .tripRestart _ => true
  | .powerFail _ => true
  | .dumpDone _ => true
  | .powerfailDeassert _ => true
  | .supplyOutOfLimits _ _ => true
  | .coldResetRelease _ => true
  | .warmStart _ _ _ _ => true
  | .perstAssert _ => true
  | .perst1Assert _ => true
  | .startupPhaseDone _ _ => true
  | .nandTrainingDone ch _ => channelNo ch
  | .nandTrainingTimeout ch _ => channelNo ch
  | .hostLinkTrained port => portNo port
  | .equalizationDone port _ => portNo port
  | .timeBaseWrite _ => true
  | .occurrenceApply _ => true
  | .persistIntervalEnd _ _ => true
  | .journalUnitProgram _ => true
  | .polezIdentify _ => true
  | .polezReadSensors _ => true
  | .polezReadYieldBook _ _ => true
  | .polezReadTally _ _ => true
  | .polezPlotState _ _ => true
  | .polezImageHeader _ bytes _ => payload bytes.length
  | .polezImageBlock _ bytes _ => payload bytes.length
  | .polezCommitWrite _ _ => true
  | .polezCommitWriteUse _ _ => true
  | .polezCommitUseSlot _ _ => true
  | .polezCommitActivate _ _ => true
  | .polezCommitEmpty _ _ => true
  | .polezFramingError _ => true
  | .lossOfPower => true
  | .acreLinkFailure acre _ => acreNo acre
  | .acreSupplyOrClockFault acre => acreNo acre
  | .crossbarFailure => true
  | .hostReadErrorCompletion plot _ _ => plotNo plot
  | .hitchFrameCrcError port _ => portNo port
  | .hitchFrameRelay port frame => portNo port && decide (48 ≤ frame.length)
  | .unknownFrameType port type => portNo port && byteNo type
  | .polezOpcodeNotSupported _ opcode => byteNo opcode
  | .invalidCommandOpcode _ => true
  | .deviceSelfTestEnd => true

end Sys2Proof
end

