-- ==== Sys2Proof/Tests/Slice0.lean ====
section
/-! SUPPORT. The WellFormed smoke test, and witnesses for the hypotheses of the statements: one theorem a clause, on small states built from `up`. -/

set_option Elab.async false

namespace Sys2Proof.Tests

open Sys2Proof Sys2Proof.Machine

/-- A controller in service that nothing has used yet. -/
def up : Mach :=
  { Mach.reset with boot := { Boot.reset with phase := 9 }, clk := { Clock.reset with coldHeld := false, basesLoaded := true } }

/-- The state with that machine and reset's configuration. -/
def st (m : Mach) : State := State.reset.withM m

/-- `up` with plot 0 enabled and queues 0 and 1 of it, each holding one entry. -/
def upQ : Mach :=
  ((((up.updBar0 0 fun b => { b with rdy := true }).updCq 0 0 fun q => { q with size := 4 }).updCq 0 1 fun q =>
    { q with size := 4 }).updSq 0 0 fun q => { q with size := 4, tail := 1 }).updSq 0 1 fun q =>
      { q with size := 4, tail := 1, cq := 1 }

/-- A media task of swath 0, and a front-end task. -/
def tMedia : Task :=
  { kind := .media, lane := 2, cls := 2, scope := 0, since := 0, waited := 0, stamp := 0, die := 0, retried := none, toHead := false, req := 7, unit_ := none }
def tFront : Task :=
  { kind := .frontEnd, lane := 1, cls := 1, scope := 0, since := 0, waited := 0, stamp := 1, die := 0, retried := none, toHead := false, req := 0, unit_ := none }

/-- `up` with a media task waiting on tine 1 and one running on tine 2. -/
def upT : Mach := (up.setTine 1 { Tine.init with l2 := [tMedia] }).setTine 2 { Tine.init with running := some tMedia }

/-- `up` with one task in the hub dispatcher. -/
def upD : Mach := { up with disp := [tFront] }
/-- A submission entry of all zeros but the opcode and the namespace. -/
def sqe (opc : BitVec 8) (nsid : BitVec 32) : Sqe := { Sqe.zero with opc := opc, nsid := nsid }
/-- A command of I/O queue 1 of plot 0 with stamp 1, and of the admin queue, at its front-end task. -/
def ioCmd (e : Sqe) : Cmd := newCmd 1 0 1 1 0 0 e
def admCmd (e : Sqe) : Cmd := newCmd 1 0 0 0 0 0 e
/-- A machine with one command in flight. -/
def fly (c : Cmd) (m : Mach) : Mach := m.onFront fun f => { f with inflight := [c], nextStamp := 2 }
def upF : Mach := (fly (ioCmd (sqe 0x02 1)) upQ).setTine 2 { Tine.init with running := some tFront }
/-- `up` with acre 0 fencing. -/
def upFencing : Mach := up.onHub fun h => { h with fencing := [(0, true)], cause := [(0, 3)] }
/-- A command at a stage. -/
def atStage (st : Stage) (c : Cmd) : Cmd := { c with stage := st }
/-- A worker's record of the forwarded command with stamp 1. -/
def rec1 : Recv :=
  { tag := 1, st := 0, gen := 0, plot := 0, wrBytes := 0, rdFrom := 0, status := Status.ok, dw0 := 0, dw1 := 0, out := [], crcs := [] }
/-- `up` with an Asynchronous Event Request outstanding and interrupt bits 0 and 3 set. -/
def upA : Mach := (fly (atStage .held (admCmd (sqe 0x0C 0))) upQ).onHub fun h => { h with intSts := 9 }
/-- `up` with a PTM request sent at edge 100. -/
def upPtm : Mach := up.onGrid fun g => { g with awaiting := some 100 }
/-- A read granted on die 0 and a program of a headland sector. -/
def rqRead : SlotReq := mkReq 0 .read .other 5 1 4096
def rqHead : SlotReq := mkReq 0 .program (.headland 0 0) 0 3 0
def upIssue (r : SlotReq) : Mach := up.updDie 0 fun d => { d with op := some r, granted := true }
def upRun (r : SlotReq) : Mach := up.updDie 0 fun d => { d with op := some r, st := .reading }
def upTrain (r : Nat) : Mach := up.updChan 3 fun c => { c with training := true, attempt := some (4, r), vccq12 := true }
/-- A ladder of no command on die 0. -/
def lad (rung : Nat) (around : Bool) : Ladder :=
  { id := 9, stamp := 0, nsid := 1, lbas := [0], die := 0, block := 5, group := 40, lane := 1, rung := rung, tried := [], best := 0,
    bestUnsat := 0, around := around, turned := false, waiting := 0, input := none, sweep := false, res := none }
/-- A zone bound on bed 0 with one column carried by parity. -/
def colsOf (n : Nat) : List Col := (List.range n).map fun i => { ch := i, blocks := [(5, 0)], carried := i == 0, erased := true, next := 0 }
def upZ : Mach :=
  (up.updNs 1 fun n => { n with exists_ := true, width := 16, zones := 4, zsze := 1048576, nsze := 4194304, attached := [0] }).updZone 1 0
    fun z => { z with st := .implOpen, bound := true, cols := colsOf 16, zcap := 1000000, wp := 8, adm := 8, dend := 8 }
/-- A read of line 4 of port 0 with identifier 1, and `up` with port 0 in service and that read queued. -/
def dramRd : DramReq := { mkDram 4 1 .readReturn false 0 .other 0 with id := 1 }
def upDram : Mach := up.updPort 0 fun p => { p with st := 2, rate := 880, reqs := [dramRd] }
/-- `up` with pool A of acre 0 set up and its buffer 0 held by internal class 6. -/
def upPool : Mach := up.updPool 0 0 fun _ =>
  { bufs := [(0, { Buf.init with held := true, owner := requester true 6, record := 4096 })], count := 4096, low := 4095 }
/-- A descriptor that moves 4 KiB inside the DRAM of acre 0, one of no entries, and `up` with one placed on acre 0's drills. -/
def ent (dest : Bool) (addr : Nat) : DrillEntry :=
  { addr := addr, len := 4096, dest := dest, port := 0, acre := 0, space := .dram, pool := 0, resOk := true }
def dsc : DrillDesc :=
  { len := 4096, entries := [ent false 0, ent true 8192], enc := false, dec := false, phaseEnd := false, grainGen := false, grainChk := false,
    lane0 := false, hostRo := false, internal := false, requester := 0, tweak := 0, nsid := 1, stamp := 0, crcEntry := ent true 0, resOk := true }
def dsc0 : DrillDesc := { dsc with len := 0, entries := [] }
def upDsc (d : DrillDesc) (started : Bool) : Mach := up.updGroup 0 fun p =>
  { p with queue := [{ id := 5, d := d, moved := 0, started := started, engine := none, ended := none, seals := 0, sealAt := 0, stream := [],
                       last := none, placedAt := 0, squash := false }] }
/-- An image that passes every check, `up` with it staged whole while slot 0 runs, and with it in slot 1 beside a running image. -/
def hdr1 : ImageHdr :=
  { magic := 0x53544E47, format := 1, family := 1, parts := 3, hdrLen := 4096, crcOk := true, version := 7, epoch := 1, keyIndex := 0, live := true,
    bodyLen := 4096, digest := 99, stateFmt := 1, oldestFmt := 1, sigOk := true }
def upImg : Mach := upQ.onImg fun i =>
  { i with stage := 2, hdr := some hdr1, hdrBytes := 4096, body := 4096, staged := [], running := 0, runHdr := some { hdr1 with version := 6 }, version := 6 }
def upImg2 : Mach := upImg.onImg fun i => { i with slots := Tbl.put Slot.init 1 { hdr := some hdr1, bodyOk := true } i.slots, valid := [1] }
/-- A machine with a complete unit of column 3 that has not been programmed. -/
def upUnit : Mach := upZ.onMed fun x =>
  { x with units := [{ nsid := 1, zone := 0, row := 0, col := 3, bytes := 4096, full := true, issued := false, done := false, folded := false, lost := false, plots := [] }] }
/-- `up` with plot 5 in a state, holding a key. -/
def upPlot (st_ : PlotState) : Mach := upQ.updPlot 5 fun x => { x with st := st_, after := .ready, key := 3 }
/-- A ring member of a role whose ports train; with both ports in a state; and a manager whose ring is closed with member 1 in a state. -/
def upRing (role : Nat) : Mach := upQ.onHitch fun h =>
  { h with role := role, ports := [(0, { HPort.init with st := 1 }), (1, { HPort.init with st := 1 })] }
def upLink (role st_ : Nat) : Mach := (upRing role).onHitch fun h =>
  { h with ports := [(0, { HPort.init with st := st_, width := 8 }), (1, { HPort.init with st := st_, width := 8 })] }
def upMember (st_ : Nat) : Mach := (upLink 1 2).onHitch fun h =>
  { h with ring := 2, members := [(1, { Member.init with st := st_, entry := { identity := 5, version := 1, namespaces := 2 } })] }
/-- A manager that has forwarded the command with stamp 1 to member 1, and an admitted worker. -/
def fwd1 : Fwd := { stamp := 1, pos := 1, rdBytes := 0 }
def upFwd : Mach := (fly (atStage .media (ioCmd (sqe 0x02 1025))) (upMember 1)).onHitch fun h => { h with fwd := [fwd1] }
def upWorker : Mach := (upLink 2 2).onHitch fun h => { h with admitted := true, pos := 1, recv := [rec1] }
/-- A machine whose service port is enabled. -/
def svc (m : Mach) : Mach := m.onBoot fun b => { b with straps := { b.straps with svcEn := true } }
/-- A machine that is entering power state 3. -/
def entering (m : Mach) : Mach := m.onPower fun p => { p with entering := some 3 }
/-- A descriptor that is being moved on acre 0's drills. -/
def upChunk : Mach := up.updGroup 0 fun p =>
  { p with queue := [{ id := 5, d := dsc, moved := 0, started := true, engine := some 2, ended := none, seals := 0, sealAt := 0, stream := [],
                       last := none, placedAt := 0, squash := false }] }
/-- A trip that has gated the acres, its dump done. -/
def upTrip (gated : Bool) : Mach := (up.onHeat fun h => { h with active := true, gated := gated, coolAt := some 0 }).onPower fun p =>
  { p with dumping := true, dumpCause := 2, dumpDoneF := gated }
/-- A controller in a start-up phase, and what a phase finds when nothing is wrong. -/
def upPhase (n : Nat) : Mach := up.onBoot fun b => { b with phase := n }
def found : PhaseInfo :=
  { badTines := [], badAcres := [], profiles := [], idents := [], featErrs := [], flashModes := [], vccq18 := [], deadDies := [], unmatched := [], badChans := [], dramPop := [], board := [], badCopies := [],
    dumpValid := [], badImages := [] }

/-! ## Worked examples of the spec -/

/-- 02 R103: a 4 KiB read costs 2.61 µJ and a program 264.4 µJ at K = 1; at K = 1.02 a program is charged 269.69 µJ. -/
theorem test_energyExample : Profile.ref.energy .read 1 4216 = 2605 ∧ Profile.ref.energy .program 4 (16 * 18432) = 264400 ∧
    Profile.ref.energy .program 4 (16 * 18432) * 4178 / 4096 = 269693 := by decide
/-- 06 R294: o = 300,000 in zone 37 lies in stripe row 312, data column 7, block 32; the parity column is 13. -/
theorem test_placeExample : rowOf 16 64 300000 = 312 ∧ dcolOf 16 64 300000 = 7 ∧ 300000 % 64 = 32 ∧ parityCol 16 37 312 = 13 ∧
    dataCol 16 37 312 7 = 7 := by decide
/-- 03 R123, R166: 96 beds hold 754,974,720 MiB, and a headland namespace of 4.0 TB takes 9,935 slots. -/
theorem test_capacityExample : 96 * Config.slotsPerDie * (15 * Profile.ref.blockBlocks) / 256 = 754974720 ∧
    headSlots Profile.ref (4000000000000 / 4096) = 9935 := by decide +kernel
/-- 03 R156: AF at 55 °C is 6.44. -/
theorem test_agingExample : agingFactor (55 * 16) * 100 / 2 ^ 20 = 644 := by decide +kernel
/-- 12 R553: two copies of the top generation that differ leave the record unresolved; a majority is used, and one copy differs. -/
theorem test_recordExample :
    chooseRec [recordCopy 8 0 9041 [1], recordCopy 8 1 9041 [2], recordCopy 8 2 9040 [3]] = .unresolved ∧
    chooseRec [recordCopy 8 0 9041 [1], recordCopy 8 1 9041 [2], recordCopy 8 2 9041 [1]] = .used 9041 [1] 1 := by decide +kernel
/-- 15 R630: SWT_DRIFT39 of acre 2, swath 6, and FUR_CTRL7 of acre 2. -/
theorem test_offsetExample : placeOf 0x0370069C = .swath 22 0x69C ∧ placeOf 0x0300081C = .acre 2 0x81C := by decide

/-! Ill-formed terms, one for each check of WellFormed. -/

theorem test_wf_acreNo : Instr.wf (.furCtrlWrite 4 0 0 0) = false := by decide
theorem test_wf_swathNo : Instr.wf (.mgdNandWpWrite 32 0 0 0) = false := by decide
theorem test_wf_tineNo : Instr.wf (.takeTask 512 false 0) = false := by decide
theorem test_wf_channelNo : Instr.wf (.patternCheck 64 true) = false := by decide
theorem test_wf_dieNo : Instr.wf (.opIssue 2048 0) = false := by decide
theorem test_wf_localBed : Instr.wf (.furCtrlWrite 0 32 0 0) = false := by decide
theorem test_wf_levelGroup : Instr.wf (.levelSweep 0 0 8 [] 0) = false := by decide
theorem test_wf_plotNo : Instr.wf (.plotResetDone 1024 0) = false := by decide
theorem test_wf_queueNo : Instr.wf (.completionPost 0 513 false 0) = false := by decide
theorem test_wf_vfCount : Instr.wf (.vfEnableSet 0 1024) = false := by decide
theorem test_wf_faultCode : Instr.wf (.tineFault 0 16) = false := by decide
theorem test_wf_portNo : Instr.wf (.keepaliveSend 2 0) = false := by decide
theorem test_wf_positionNo : Instr.wf (.readmitTimer 8 0) = false := by decide
theorem test_wf_sideband : Instr.wf (.sidebandChange 0 3) = false := by decide
theorem test_wf_groupNo : Instr.wf (.drillTakeChunk 5 0 false 0) = false := by decide
theorem test_wf_engineNo : Instr.wf (.drillTakeChunk 0 8 false 0) = false := by decide
theorem test_wf_subchannelNo : Instr.wf (.dramCommandSlot 0 2 [] [] 0) = false := by decide
theorem test_wf_rankNo : Instr.wf (.refreshDue 0 2 0) = false := by decide
theorem test_wf_poolNo : Instr.wf (.bufferFree 0 5 0 false 0 0) = false := by decide
theorem test_wf_coreNo : Instr.wf (.mcoreWatchdog 4 0) = false := by decide
theorem test_wf_diodeNo : Instr.wf (.diodeSelfCheck 5 0 0 0) = false := by decide
theorem test_wf_windowOffset : Instr.wf (.loRegisterRead 0x10000000) = false := by decide
theorem test_wf_tableOffset : Instr.wf (.regRd 0x00400000) = false := by decide
theorem test_wf_byteNo : Instr.wf (.polezOpcodeNotSupported 0 256) = false := by decide
theorem test_wf_payload : Instr.wf (.polezImageBlock 0 (List.replicate 4097 0) 0) = false := by decide +kernel
theorem test_wf_entryOk : Instr.wf (.ioFetch [{ Sqe.zero with data := [1] }]) = false := by decide


/-- 03 R128: a 16-wide zone takes two half slots of one bed, so two beds with one half slot each hold none. -/
theorem test_place_one_bed : placeableOf (fun _ => 1) [(16, 1, [0, 1])] = false ∧ placeableOf (fun _ => 1) [(8, 2, [0, 1])] = true := by decide +kernel

/-- 03 R128: two half slots on each of two beds hold a 16-wide zone or the 8-wide zones of both beds, not all three. -/
theorem test_place_shared : placeableOf (fun _ => 2) [(16, 1, [0, 1]), (8, 1, [0]), (8, 1, [1])] = false ∧
    placeableOf (fun _ => 2) [(16, 1, [0, 1]), (8, 2, [1])] = true := by decide +kernel
theorem wit_ioFetch : upQ.adminReady { (st upQ).cfg with admMax := 0 } = false ∧ nextPlot upQ.front.lastIo (upQ.ioFetchable.map (fun k => k / 1024)) = some 0 := by decide +kernel
theorem wit_adminFetch : upQ.adminCount < (st upQ).cfg.admMax ∧ nextPlot upQ.front.lastAdm upQ.admFetchable = some 0 := by
  decide +kernel

theorem wit_fetchOne : upQ.power.entering = none ∧ Tbl.wf Sq.init upQ.front.sqs = true ∧ qkey 0 0 ≠ qkey 0 1 := by decide +kernel

theorem wit_takeTask : let m := (upT.advanceOn .tine 5).offerRetries
    1 < m.nTines ∧ m.tinesRun = true ∧ m.tineOk 1 = true ∧ (m.tine 1).running = none ∧ (m.tine 1).topLane = some 2 ∧
      (m.tine 1).lane 2 = tMedia :: [] ∧ m.awake = true := by decide +kernel
theorem wit_steal : let m := upT.advanceOn .tine 5
    m.mayThieve 0 = true ∧ m.stealFrom 0 = some (1, 2, tMedia) ∧ (m.tine 1).stolenAt ≠ m.clk.now + 1 ∧
      [Instr.steal 3 5].any (m.rival 0 1 2) = false := by decide +kernel
theorem wit_steal_dispatcher : let m := upD.advanceOn .tine 5
    m.mayThieve 3 = true ∧ m.stealFrom 3 = none ∧ m.disp = tFront :: [] := by decide +kernel
theorem wit_steal_loaded : let m := (up.setTine 200 { Tine.init with l1 := [tFront] }).advanceOn .tine 5
    m.mayThieve 3 = true ∧ m.stealFrom 3 = none ∧ m.disp = [] ∧ m.mostLoaded = some 200 ∧
      (m.tine 200).stealLane (fun k => k.kind = .frontEnd) = some (1, tFront) ∧ (m.tine 200).stolenAt ≠ m.clk.now + 1 := by decide +kernel
theorem wit_taskEnd_media : 2 < upT.nTines ∧ upT.tinesRun = true ∧ upT.tineOk 2 = true ∧ (upT.tine 2).running = some tMedia ∧
    tMedia.kind = .media := by decide +kernel
theorem wit_taskEnd_io : 2 < upF.nTines ∧ upF.tinesRun = true ∧ upF.tineOk 2 = true ∧ (upF.tine 2).running = some tFront ∧
    tFront.kind = .frontEnd ∧ (upF.freeTine 2 tFront).cmd? tFront.stamp = some (ioCmd (sqe 0x02 1)) ∧ (ioCmd (sqe 0x02 1)).sq ≠ 0 := by
  decide +kernel
theorem wit_taskEnd_admin : let m := (fly (admCmd (sqe 0x06 0)) upQ).setTine 2 { Tine.init with running := some tFront }
    2 < m.nTines ∧ m.tinesRun = true ∧ m.tineOk 2 = true ∧ (m.tine 2).running = some tFront ∧
      (m.freeTine 2 tFront).cmd? tFront.stamp = some (admCmd (sqe 0x06 0)) ∧ (admCmd (sqe 0x06 0)).sq = 0 := by decide +kernel
theorem wit_taskEnd_zone : let k : Task := { tFront with kind := .zone, lane := 2 }
    let m := upF.setTine 2 { Tine.init with running := some k }
    2 < m.nTines ∧ m.tinesRun = true ∧ m.tineOk 2 = true ∧ (m.tine 2).running = some k ∧ k.kind = .zone := by decide +kernel
theorem wit_taskEnd_fold : let k : Task := { tFront with kind := .codec, lane := 2, stamp := 0, unit_ := some (1, 0, 0, 3) }
    let m := upUnit.setTine 2 { Tine.init with running := some k }
    2 < m.nTines ∧ m.tinesRun = true ∧ m.tineOk 2 = true ∧ (m.tine 2).running = some k ∧ k.unit_ = some (1, 0, 0, 3) := by decide +kernel
theorem wit_taskEnd_rung : let k : Task := { tFront with kind := .codec, stamp := 0, req := 9 }
    let l : Ladder := { lad 2 false with res := some { erased := false, corr := [12], low := 0, high := 0, failed := 0, metas := [], sheaf := false, sheafBits := 0, unsat := 0, rereadOk := false } }
    let m := (up.onMed fun x => { x with ladders := [l] }).setTine 2 { Tine.init with running := some k }
    2 < m.nTines ∧ m.tinesRun = true ∧ m.tineOk 2 = true ∧ (m.tine 2).running = some k ∧ m.ladder? k.req = some l ∧ l.res.isSome = true := by
  decide +kernel

theorem wit_taskWatchdog : let m := upT.advanceOn .tine 640000
    2 < m.nTines ∧ m.tineOk 2 = true ∧ m.taskOverdue 2 = true := by decide +kernel
theorem wit_tineFault : 2 < upT.nTines ∧ upT.tineOk 2 = true ∧ 1 ≤ 5 ∧ 5 ≤ 5 := by decide +kernel
theorem wit_salvageDone : upFencing.fencingA 0 = true := by decide +kernel
theorem wit_acreFaults : up.awake = true ∧ up.acreUp 3 = true := by decide +kernel
theorem wit_mcoreWatchdog : 3 < 4 ∧ (up.advance 9).awake = true := by decide +kernel

theorem wit_commandFinished : let m := fly (atStage .done (ioCmd (sqe 0x02 1))) upQ
    m.cmd? 1 = some (atStage .done (ioCmd (sqe 0x02 1))) ∧ (m.recv? 1).isSome = false ∧ m.cmd? 2 = none ∧ m.awake = true ∧ m.hitch.role ≠ 2 ∧ m.front.nextStamp ≤ 2 := by decide +kernel
theorem wit_commandFinished_worker : let m := (fly (atStage .done (ioCmd (sqe 0x02 1))) upQ).onHitch fun h => { h with recv := [rec1] }
    m.cmd? 1 = some (atStage .done (ioCmd (sqe 0x02 1))) ∧ (m.recv? 1).isSome = true := by decide +kernel
theorem wit_completionPost : let m := (fly (atStage .finished (ioCmd (sqe 0x02 1))) upQ).advance 9
    m.awake = true ∧
    m.hub.fatal = false ∧ (m.plot 0).st = .ready ∧ (m.sq 0 1).size ≠ 0 ∧
      m.front.inflight.find? (fun c => c.plot == 0 && c.sq == 1 && c.seq == (m.sq 0 1).posted && c.stage == .finished) =
        some (atStage .finished (ioCmd (sqe 0x02 1))) ∧
      m.plots.bmeOff.contains 0 = false ∧ (m.cq 0 1).hasRoom = true ∧
      (m.onPlots fun x => { x with bmeOff := [0] }).plots.bmeOff.contains 0 = true := by decide +kernel
theorem wit_doorbells : upQ.barTakes 0 0 = true ∧ upQ.inService = true ∧ 512 ≤ 512 ∧ (upQ.sq 0 1).size ≠ 0 ∧ 3 < (upQ.sq 0 1).size ∧
    ¬ 4 < (upQ.sq 0 1).size ∧ (upQ.cq 0 1).size ≠ 0 ∧ 3 < (upQ.cq 0 1).size ∧ ¬ 4 < (upQ.cq 0 1).size ∧
    (upQ.cq 0 1).fullAt = none ∧ ({ upQ.cq 0 1 with head := 2, fullAt := some 3 } : Cq).hasRoom = true ∧
    ({ upQ.cq 0 1 with head := 1, fullAt := some 3 } : Cq).hasRoom = false ∧ (upQ.sq 0 512).size = 0 := by decide +kernel
theorem wit_vendorEventPost : upA.heldAer 0 = some (atStage .held (admCmd (sqe 0x0C 0))) ∧
    upA.hub.intSts &&& ({ (st upA).cfg with intEn := 8 } : Cfg).intEn ≠ 0 ∧ upA.maskedType 0 7 = false ∧ upA.hub.fatal = false := by
  decide +kernel

theorem wit_awake : up.awake = true := by decide
theorem wit_ptmResponse : upPtm.hitch.role ≠ 2 ∧ upPtm.grid.awaiting = some 100 ∧
    (upPtm.advance 320100).clk.now - 100 ≤ 100 * Config.edgesPerUs ∧
    100 * Config.edgesPerUs < (upPtm.advance 320101).clk.now - 100 := by decide +kernel
theorem wit_ptmTimeout : 100 * Config.edgesPerUs ≤ (upPtm.advance 320100).clk.now - 100 := by decide +kernel
theorem wit_ptmEnableChange : 1 < 2 := by decide

theorem wit_kUpdate : 2048 ≤ up.grid.k ∧ up.grid.k ≤ 8192 ∧ up.grid.kDue = none ∧ nextOf (exec .kUpdate (st up)) = some (st up) := by decide +kernel
theorem wit_kUpdate_less : let m := up.onGrid fun g => { g with k := 2048, kDue := some (8, 1) }
    2048 ≤ m.grid.k ∧ m.grid.kDue = some (8, 1) ∧ 1 ≤ 8 := by decide +kernel
theorem wit_kUpdate_more : let m := up.onGrid fun g => { g with k := 8192, kDue := some (8, 9) }
    m.grid.k ≤ 8192 ∧ m.grid.kDue = some (8, 9) ∧ 8 ≤ 9 := by decide +kernel
theorem wit_kUpdate_none : let m := up.onGrid fun g => { g with kDue := some (0, 9) }
    2048 ≤ m.grid.k ∧ m.grid.kDue = some (0, 9) := by decide +kernel

theorem wit_opIssue_suspend : let m := ((upIssue rqRead).updDie 0 fun d => { d with suspGranted := true }).advance 3
    m.acreUp (dieAcre 0) = true ∧ 0 < m.nDies ∧ (m.chan (dieChan 0)).training = false ∧ (m.die 0).suspGranted = true := by decide +kernel
theorem wit_opIssue : let m := (upIssue rqRead).advance 3
    m.acreUp (dieAcre 0) = true ∧ 0 < m.nDies ∧ (m.chan (dieChan 0)).training = false ∧ (m.die 0).suspGranted = false ∧
      (m.die 0).granted = true ∧ (m.die 0).op = some rqRead ∧ rqRead.purp = .other := by decide +kernel
theorem wit_opIssue_headland : let m := (upIssue rqHead).advance 3
    m.acreUp (dieAcre 0) = true ∧ 0 < m.nDies ∧ (m.chan (dieChan 0)).training = false ∧ (m.die 0).suspGranted = false ∧
      (m.die 0).granted = true ∧ (m.die 0).op = some rqHead ∧ rqHead.purp = .headland 0 0 ∧ rqHead.op = .program ∧
      m.guarded false 0 = true ∧ (m.onMed fun x => { x with wp := [(0, 0)] }).guarded false 0 = false := by decide +kernel
theorem wit_opIssue_headlandRead : let r := mkReq 0 .read (.headland 0 0) 0 3 0
    ((upIssue r).die 0).op = some r ∧ r.purp = .headland 0 0 ∧ r.op ≠ .program ∧ r.op ≠ .erase := by decide +kernel
theorem wit_dieStatusPoll : let m := (upRun rqRead).advance 128000
    m.dieRuns 0 = true ∧ m.pollFalls 0 = true ∧ (m.updDie 0 fun d => { d with polledAt := some m.clk.now }).opLate 0 = false := by
  decide +kernel
theorem wit_dieReady : let m := (upRun rqRead).advance 9
    m.dieRuns 0 = true ∧ (m.die 0).op = some rqRead := by decide +kernel
theorem wit_dieOpTimeout : let m := (upRun rqRead).advance 1280000
    m.dieRuns 0 = true ∧ (m.die 0).op = some rqRead ∧ m.timeoutEdges 0 rqRead ≤ m.ranEdges (m.die 0) ∧ rqRead.op ≠ .reset ∧
      (m.die 0).timeouts < 2 ∧ rqRead.purp = .other := by decide +kernel
theorem wit_dieOpTimeout_host : let r := mkReq 0 .read (.host 1 9) 5 1 4096
    let m := (upRun r).advance 1280000
    m.dieRuns 0 = true ∧ (m.die 0).op = some r ∧ m.timeoutEdges 0 r ≤ m.ranEdges (m.die 0) ∧ (m.die 0).timeouts < 2 := by decide +kernel
theorem wit_dieOpTimeout_third : let r := mkReq 0 .program (.unit 1 0 0 3) 5 1 4096
    let m := ((upRun r).updDie 0 fun d => { d with timeouts := 2 }).advance 96000000
    m.dieRuns 0 = true ∧ (m.die 0).op = some r ∧ m.timeoutEdges 0 r ≤ m.ranEdges (m.die 0) ∧ 2 ≤ (m.die 0).timeouts := by decide +kernel
theorem wit_dieOpTimeout_reset : let r := mkReq 0 .reset (.recovery .read) 0 0 0
    let m := (upRun r).advance 9600000
    m.dieRuns 0 = true ∧ (m.die 0).op = some r ∧ m.timeoutEdges 0 r ≤ m.ranEdges (m.die 0) ∧ r.op = .reset := by decide +kernel

theorem wit_channelRetrainDone : let m := up.updChan 3 fun c =>
      { c with training := true, vccq12 := true, mode := 4, rate := 240, ladder := [(4, 240), (4, 160)] }
    3 < m.nChans ∧ m.acreUp (chanAcre 3) = true ∧ m.inService = true ∧ (m.chan 3).training = true ∧
      (m.chan 3).lower = some (4, 160) ∧ ({ m.chan 3 with rate := 160 } : Chan).lower = none := by decide +kernel
theorem wit_patternCheck : let m := up.updChan 63 fun c => { c with unchecked := true }
    63 < m.nChans ∧ m.acreUp (chanAcre 63) = true ∧ m.inService = true ∧ (m.chan 63).training = false ∧
      (m.chan 63).unchecked = true := by decide +kernel
theorem wit_decodeDone : let k : Task := { tFront with kind := .codec, stamp := 0, req := 9 }
    let m := (up.onMed fun x => { x with ladders := [lad 1 false] }).setTine 4 { Tine.init with running := some k }
    let w := (up.onMed fun x => { x with ladders := [lad 1 false] }).setTine 4 { Tine.init with l1 := [k] }
    m.ladder? 9 = some (lad 1 false) ∧ (lad 1 false).waiting = 0 ∧ m.codecWaits 9 = true ∧ m.codecTine 9 = some 4 ∧
      w.codecWaits 9 = true ∧ w.codecTine 9 = none := by decide +kernel
theorem wit_levelSweep : let m := up.onMed fun x => { x with sweepRead := [(0 * 8192 + 5) * 8 + 7] }
    (0 * 8192 + 5) * 8 + 7 ∈ m.med.sweepRead ∧ 7 < 8 ∧ 5 < 8192 := by decide +kernel
theorem wit_gleanerRelocate : let m := (up.updNs 2 fun n => { n with exists_ := true, headland := true, slots := [0, 32] }).onMed fun x =>
      { x with glean := [(2, 0, 3)] }
    (m.ns 2).exists_ = true ∧ (m.ns 2).headland = true ∧ m.tinesRun = true ∧ m.gleanBlock 2 = some (0, 3) := by decide +kernel
theorem wit_zoneFinishByController : let z := upZ.zone 1 0
    z.bound = true ∧ z.st.isActive = true ∧ z.cols.any (fun c => c.carried) = true ∧ upZ.zoneBusy 1 0 = false ∧
      upZ.acreUp (bedAcre z.bed) = true := by decide +kernel

theorem wit_registerWrites : up.deviceUp = true ∧ (st up).cfg.wrGuard = false ∧ (st up).cfg.hubLock = false ∧ 3 < 4 ∧ 31 < 32 ∧
    up.reachable 3 = true := by decide +kernel
theorem wit_furCfg_values : 1 ≤ Word.bits 0x403203 23 16 ∧ Word.bits 0x403203 23 16 ≤ 64 ∧ Word.bits 0x403203 15 8 ≤ 50 ∧
    ¬ Word.bits 0x413203 23 16 ≤ 64 := by decide +kernel
theorem wit_hubCtrl_locked : ({ Cfg.reset [] with hubLock := true } : Cfg).hubLock = true := by decide

theorem wit_drops : State.reset.m.deviceUp = false ∧ up.deviceUp = true ∧ (up.onPlots fun x => { x with mseOff := [0] }).deviceUp = false ∧ (7 : BitVec 4) ≠ 15 ∧ up.reachable 0 = true ∧
    ({ Cfg.reset [] with wrGuard := true } : Cfg).wrGuard = true ∧
    (up.onHub fun h => { h with fenced := [(2, true)], cause := [(2, 3)] }).reachable 2 = false := by decide +kernel

theorem wit_dirtyCfg : up.deviceUp = true ∧ (st up).cfg.wrGuard = false ∧ (st up).cfg.dirtyLock = false ∧
    Word.bits 0x80000021 5 0 = 33 ∧ Word.bits 0x20 5 0 = 32 ∧
    ({ Cfg.reset [] with dirtyLock := true } : Cfg).dirtyLock = true := by decide +kernel

theorem wit_fetchCfg : Word.bits 0xFF08 15 8 = 255 ∧ Word.bits 0xFF08 3 0 = 8 ∧ Word.bits 0x0008 15 8 = 0 ∧ Word.bits 0xFF09 3 0 = 9 := by
  decide +kernel

theorem wit_reads : up.deviceUp = true ∧ up.placeReach (placeOf 0x0FFFFFFC) = true ∧
    (up.onHub fun h => { h with fenced := [(2, true)], cause := [(2, 3)] }).placeReach (placeOf 0x03700000) = false := by decide +kernel
theorem wit_memberRead : placeOf 0x0C000004 = .member 1 4 ∧ (upMember 1).deviceUp = true ∧ (upMember 1).hitch.role = 1 ∧
    ((upMember 1).member 1).st = 1 ∧ (upMember 2).placeReach (.member 1 4) = false := by decide +kernel
theorem wit_bars : up.barTakes 0 0 = true ∧ 0x3FFC < 0x4000 ∧ up.fnUp 0 = true ∧ up.plotPort 0 = 0 ∧
    let m := ((up.onBoot fun b => { b with straps := { b.straps with portMode := true } }).onPlots fun x => { x with vfEn := [(1, 5)] }).updPlot 5
      fun x => { x with port := false }
    m.awake = true ∧ m.barTakes 1 5 = false ∧ m.parkedFn 1 5 = true := by decide +kernel
theorem wit_plainRegister : up.deviceUp = true ∧ (up.hubReg (st up).cfg 0x364).isSome = true ∧ (st up).cfg.wrGuard = false ∧
    0x364 ∉ [0x04, 0x10, 0x18, 0x20, 0x500, 0xB00] := by decide +kernel
theorem wit_mgd : up.deviceUp = true ∧ up.reachable (31 / 8) = true ∧ (up.advance 4).awake = true ∧ 16383 < (up.advance 4).nDies * 8 := by
  decide +kernel
theorem wit_pltCfg : let m := (up.updPlot 5 fun x => { x with st := .frozen }).onBoot fun b => { b with straps := { b.straps with portMode := true } }
    m.deviceUp = true ∧ m.boot.straps.portMode = true ∧ (m.plot 5).st = .frozen ∧ (m.plot 6).st = .absent ∧ (m.plot 0).st ≠ .frozen ∧
      ((m.updPlot 7 fun x => { x with st := .ready }).plot 7).st ≠ .absent ∧ up.boot.straps.portMode = false := by
  decide +kernel
/-- Plot 1 asks for bed 0, which holds a headland slot. -/
def upIso : Mach := (up.updPlot 1 fun x => { x with isoBusy := true, isoMask := 1 }).updBed 0 fun b => { b with hslots := 1 }
theorem wit_isoApplyDone_refused : let x := upIso.plot 1
    x.isoBusy = true ∧ ((List.range 128).filter fun b => x.isoMask.getLsbD b != ((upIso.bed b).owner == 2)).findSome?
      (fun b => if upIso.isoCheck 1 b (x.isoMask.getLsbD b) = 0 then none else some (b, upIso.isoCheck 1 b (x.isoMask.getLsbD b))) =
        some (0, 2) := by decide +kernel
theorem wit_isoApplyDone : let m := up.updPlot 1 fun x => { x with isoBusy := true, isoMask := 1 }
    (m.plot 1).isoBusy = true ∧ ((List.range 128).filter fun b => (m.plot 1).isoMask.getLsbD b != ((m.bed b).owner == 2)).findSome?
      (fun b => if m.isoCheck 1 b ((m.plot 1).isoMask.getLsbD b) = 0 then none
        else some (b, m.isoCheck 1 b ((m.plot 1).isoMask.getLsbD b))) = none := by
  decide +kernel
theorem wit_isoMask : up.deviceUp = true ∧ up.hub.part = false := by decide +kernel

theorem wit_split : up.deviceUp = true ∧ (up.onHub fun h => { h with latchPass := some 7 }).hub.latchPass = some 7 := by decide

theorem wit_scratch : up.deviceUp = true ∧ 3 < 4 := by decide

theorem wit_intSet : up.deviceUp = true ∧ (0xFFFFFFFF : Word).getLsbD 20 = true ∧ (0xFFFFFFFF : Word).getLsbD 21 = true := by decide

theorem wit_dramSlot_nref : let n := (upDram.updPort 0 fun p => { p with nref := [(1, 3, 4)] }).advance 9
    1 < 2 ∧ n.portServes 0 = true ∧ ((n.crossAll 0).port 0).nref.any (fun e => e.1 == 1 && !([7].contains e.2.1)) = true := by decide +kernel
theorem wit_dramSlot : let n := upDram.advance 9
    0 < 2 ∧ n.portServes 0 = true ∧ ((n.crossAll 0).port 0).nref.any (fun e => e.1 == 0 && !([7].contains e.2.1)) = false ∧
      ((n.crossAll 0).port 0).pick 0 [7] = some dramRd := by decide +kernel
theorem wit_promotion : let m := upDram.advance 12801
    (m.port 0).reqs.find? (fun r => !r.promoted && decide (r.since + Config.edgesPerUs * Tbl.get 4 0 (st upDram).cfg.age < m.clk.now)) =
      some dramRd := by decide +kernel
theorem wit_refreshDue : (upDram.advance 9).portServes 0 = true ∧ 0 < (if ((upDram.advance 9).port 0).ranks2 then 2 else 1) ∧
    Tbl.get 0 0 ((upDram.advance 9).port 0).refDue ≤ (upDram.advance 9).clk.now := by decide +kernel
theorem wit_portServes : let m := upDram.advance 320000000
    m.portServes 0 = true ∧ (m.port 0).mr4At + 16 * Config.edgesPerMs ≤ m.clk.now ∧
      (m.port 0).dqsAt + 100 * Config.edgesPerMs ≤ m.clk.now := by decide +kernel
theorem wit_dqs_rate : let m := (upDram.updPort 0 fun p => { p with recentre := true }).advance 9
    (m.port 0).recentre = true ∧ m.acreUp 0 = true ∧ (m.port 0).st = 2 := by decide +kernel
theorem wit_mergeTimeout : let e : MergeEntry := { line := 8, data := 0, mask := 1, cls := .staging, since := 0 }
    let m := (upDram.updPort 0 fun p => { p with merge := [e] }).advance 6400
    m.portServes 0 = true ∧ (m.port 0).merge.find? (fun e =>
      decide (e.since + 2 * Config.edgesPerUs ≤ m.clk.now) && !(m.port 0).writesTo e.line) = some e := by
  decide +kernel

theorem wit_training : ((upDram.updPort 0 fun p => { p with attempt := 880 }).port 0).attempt ≠ 0 ∧ upDram.fencedA 0 = false ∧ upDram.fencingA 0 = false := by decide +kernel
theorem wit_trainingTimeout : let m := (upDram.updPort 0 fun p => { p with attempt := 880 }).advance 320000000
    (m.port 0).attempt ≠ 0 ∧ (m.port 0).attemptAt + 100 * Config.edgesPerMs ≤ m.clk.now := by decide +kernel
theorem wit_srEntry : let m := (upDram.updPort 0 fun p => { p with srWanted := true, reqs := [] }).advance 9
    m.portServes 0 = true ∧ (m.port 0).srWanted = true ∧ (m.port 0).reqs.any (fun r => decide (r.since ≤ (m.port 0).srReq)) = false := by
  decide +kernel
theorem wit_srExit : let m := (upDram.updPort 0 fun p => { p with st := 3, srWaitAt := some 1 }).advance 384
    m.acreUp 0 = true ∧ (m.port 0).inSelfRefresh = true ∧ (m.port 0).srExit = false ∧ (m.port 0).srAt + 384 ≤ m.clk.now ∧
      (m.port 0).srWaitAt.isSome = true := by decide +kernel
theorem wit_srExit_rate : let m := (upDram.updPort 0 fun p => { p with st := 4, srForRate := true, srExit := true }).advance 656
    (m.port 0).inSelfRefresh = true ∧ (m.port 0).srExit = true ∧ (m.port 0).srAt + (m.port 0).txs ≤ m.clk.now ∧ (m.port 0).srForRate = true := by
  decide +kernel
theorem wit_srExit_serve : let m := (upDram.updPort 0 fun p => { p with st := 3, srExit := true }).advance 656
    (m.port 0).inSelfRefresh = true ∧ (m.port 0).srExit = true ∧ (m.port 0).srAt + (m.port 0).txs ≤ m.clk.now ∧
      (m.port 0).srForRate = false := by decide +kernel
theorem wit_port0Idle : let m := ((upDram.updPort 0 fun p => { p with reqs := [] }).onPower fun p => { p with ps := 3 }).advance 320000
    3 ≤ m.power.ps ∧ (m.port 0).st = 2 ∧ (m.port 0).reqs = [] ∧ (m.port 0).lastUse + 100 * Config.edgesPerUs ≤ m.clk.now := by
  decide +kernel

theorem wit_bufferRequest : let m := (upPool).advance 0
    0 < m.nAcres ∧ m.awake = true ∧ m.acreUp 0 = true ∧ m.poolAcre 0 = some 0 ∧ requesterOk false 1023 = true ∧ poolFor 16777216 < 5 ∧ poolFor 1 < 5 ∧
      m.poolWalk 0 (requester false 1023) (poolFor 1) ((List.range 5).drop (poolFor 1)) = .inl 0 ∧
      (up.advance 0).poolWalk 0 (requester false 1023) 4 ((List.range 5).drop 4) = .inr (4, false) := by decide +kernel
theorem wit_bufferFree : let m := (upPool).advance 0
    let b := Tbl.get Buf.init 0 (m.pool 0 0).bufs
    m.acreUp 0 = true ∧ 0 < (m.pool 0 0).count ∧ requesterOk true 6 = true ∧ b.held = true ∧ b.owner = requester true 6 ∧
      ¬ (b.held = true ∧ b.owner = requester false 5) := by decide +kernel

theorem wit_bufferReserve : (1023 < 1024) ∧
    (upPool).poolWalk 0 1023 0 (List.range 5) = .inl 0 := by decide +kernel

theorem wit_descriptorPlace : DrillDesc.ofBytes dsc.bytes = dsc ∧ descGroup dsc = 0 ∧ (up.advance 0).acreUp 0 = true ∧
    requesterOk dsc.internal dsc.requester = true ∧ (up.advance 0).awake = true ∧ descGroup { dsc with entries := [] } = 4 := by decide +kernel
theorem wit_drillTakeChunk : let m := (upDsc dsc0 false).advance 0
    0 < m.nAcres ∧ m.acreUp 0 = true ∧ m.power.closing = false ∧ m.awake = true ∧ m.power.ps < 3 ∧
      (m.group 0).queue.any (fun x => x.engine == some 7) = false ∧ (m.pickChunk (st up).cfg 0).isSome = true ∧
      (m.pickChunk (st up).cfg 0).map (fun r => (r.1.started, m.descCheck r.1.d, r.1.d.len)) = some (false, 1, 0) := by decide +kernel
theorem wit_drillTakeChunk_runs : let m := (upDsc dsc true).advance 0
    (m.pickChunk (st up).cfg 0).map (fun r => (r.1.started, r.1.d.len)) = some (true, 4096) ∧ m.descCheck dsc = 0 ∧
      m.masterOff dsc = false ∧ (Tbl.get Engine.init 7 (m.group 0).engines).keyOf = none := by decide +kernel
theorem wit_drillTakeChunk_key : let m := (upDsc { dsc with enc := true } true).advance 0
    (m.pickChunk (st up).cfg 0).map (fun r => (r.1.started, r.1.d.enc)) = some (true, true) ∧
      (Tbl.get Engine.init 7 (m.group 0).engines).keyOf ≠ some dsc.requester := by decide +kernel
theorem wit_drillTakeChunk_fenced : let m := ((upDsc dsc true).onHub fun h => { h with fenced := [(0, true)], cause := [(0, 3)] }).advance 0
    m.acreUp 0 = false ∧ 0 < m.nAcres ∧ (m.pickChunk (st up).cfg 0).map (fun r => r.1.started) = some true := by decide +kernel
theorem wit_drillTakeChunk_host : let d : DrillDesc := { dsc with entries := [{ ent false 0 with space := .host }, ent true 8192] }
    let m := ((upDsc d true).onPlots fun x => { x with bmeOff := [0] }).advance 0
    (m.pickChunk (st up).cfg 0).map (fun r => (r.1.started, r.1.d.len)) = some (true, 4096) ∧ m.masterOff d = true := by decide +kernel
theorem wit_drillTakeChunk_empty : let m := (upDsc { dsc with len := 0 } false).advance 0
    (m.pickChunk (st up).cfg 0).map (fun r => (r.1.started, m.descCheck r.1.d, r.1.d.len)) = some (false, 0, 0) := by decide +kernel
theorem wit_chunkDone : let m := upDsc dsc true |>.updGroup 0 fun p => { p with queue := p.queue.map fun d => { d with engine := some 7 } }
    ((m.group 0).queue.find? (fun x => x.engine == some 7)).map (fun x => (x.squash, x.moved + x.chunk, sealsOf 0 x.d)) =
        some (false, 4096, 0) ∧ m.checkFence dsc = true ∧
      ({ dsc with len := 70000 }).len > Nat.min 65536 70000 ∧ sealsOf 0 { dsc with phaseEnd := true } ≠ 0 ∧
      ((m.onHub fun h => { h with fencing := [(0, true)], cause := [(0, 3)] }).checkFence dsc) = false := by decide +kernel
theorem wit_badGrain (bytes : List Byte) (h : bytes.length = 1024) :
    (badGrain bytes [crc32c (window bytes 0 1024) + 1]).isSome = true := by
  unfold badGrain; rw [h]; simp [List.range_succ]
theorem wit_chunkDone_squash : let m := upDsc dsc true |>.updGroup 0 fun p =>
      { p with queue := p.queue.map fun d => { d with engine := some 7, squash := true } }
    ((m.group 0).queue.find? (fun x => x.engine == some 7)).map (fun x => x.squash) = some true := by decide +kernel
theorem wit_sealReturn : let m := (upDsc dsc true |>.updGroup 0 fun p =>
      { p with queue := p.queue.map fun d => { d with seals := 2 } }).advance 0
    ((m.group 0).queue.find? (fun x => x.id == 5 && decide (0 < x.seals))).map (fun x => (x.seals, x.ended, x.squash)) =
        some (2, none, false) ∧ (dstsOf dsc).any (fun e => e.1.space == .host) = false := by decide +kernel
theorem wit_hostFaults : let m := (upDsc dsc true).advance 0
    ((m.group 0).queue.find? (fun x => x.id == 5 && x.started)).isSome = true ∧ m.awake = true ∧ 1023 < 1024 := by decide +kernel

theorem wit_stripeRow : let c := { atStage .rowWait (ioCmd (sqe 0x08 1)) with zone := some 0, lba := 8, nlb := 1 }
    let m := (fly c upZ).advance 0
    let n := m.onStg fun g => { g with rows := [{ nsid := 1, zone := 0, row := 0, plot := 0, slots := [], acre := 0, acc := none }] }
    n.cmd? 1 = some c ∧ c.stage = .rowWait ∧ n.rowsNeeded c = some [(0, 0)] ∧ n.rowHeld 1 0 0 = true := by decide +kernel
theorem wit_dirtyCap : let c := { atStage .capWait (ioCmd (sqe 0x08 1)) with zone := some 0, lba := 8, nlb := 1 }
    let m := (fly c upZ).advance 0
    let l := (m.front.inflight.filter (fun k => k.stage == .capWait)).map (fun k => k.stamp)
    l = [1] ∧ m.cmd? 1 = some c ∧ m.front.inflight.any (fun k => k.stage == .capWait && decide (k.stamp < 1)) = false ∧
      m.stg.dirty + c.bytes ≤ (st up).cfg.capBytes ∧
      (st up).cfg.capBytes < (m.onStg fun g => { g with dirty := 16 * 268435456 }).stg.dirty + c.bytes := by decide +kernel
theorem wit_commitPoint : let c := { atStage .data (ioCmd (sqe 0x08 1)) with zone := some 0, lba := 8, nlb := 1 }
    let m := fly c upZ
    m.cmd? 1 = some c ∧ m.sealedAll { c with sealed := 4096 } (if c.sqe.hostData then c.bytes else 0) = true ∧ m.liveDescs 1 = false ∧ m.acreUp (bedAcre (m.zone 1 0).bed) = true ∧ ({ c with nlb := 0 } : Cmd).nlb ≤ m.headFree 1 ∧ m.med.ladders.any (fun l => l.stamp == 1) = false ∧ m.awaitsData c = false ∧
      m.firstAdmitted c = true ∧ c.sqe.opc ≠ 0x7D ∧
      (fly { c with sqe := sqe 0x7D 1 } upZ).awaitsData { c with sqe := sqe 0x7D 1 } = false ∧
      (fly { c with zone := none } upZ).liveDescs 1 = false := by decide +kernel

theorem wit_createQueues : let e : Sqe := { sqe 0x01 0 with cdw10 := 0x00030001, cdw11 := 0x00010001 }
    let m := fly (admCmd e) upQ
    m.adminCmd 1 = some (admCmd e) ∧ m.adminTurn (admCmd e) = true ∧ (m.dropTasks 1).createSqStatus (admCmd e) = some St.invalidQid ∧
      ((m.updSq 0 1 fun _ => Sq.init).dropTasks 1).createSqStatus (admCmd e) = none := by decide +kernel
theorem wit_createCqs : let e : Sqe := { sqe 0x05 0 with cdw10 := 0x00030002, cdw11 := 0x00010003 }
    let m := fly (admCmd e) upQ
    m.adminCmd 1 = some (admCmd e) ∧ (m.dropTasks 1).createCqStatus (admCmd e) = none ∧
      ((m.updCq 0 2 fun q => { q with size := 4 }).dropTasks 1).createCqStatus (admCmd e) = some St.invalidQid := by decide +kernel
theorem wit_deleteQueues : let e : Sqe := { sqe 0x00 0 with cdw10 := 1 }
    let m := fly (admCmd e) upQ
    m.adminCmd 1 = some (admCmd e) ∧ e.qid = 1 ∧ ((m.dropTasks 1).sq 0 1).size ≠ 0 ∧ ((m.dropTasks 1).sq 0 1).deleting = false ∧
      (sqe 0x00 0).qid = 0 ∧ (fly (admCmd (sqe 0x00 0)) upQ).adminCmd 1 = some (admCmd (sqe 0x00 0)) := by decide +kernel
theorem wit_deleteCqs : let e : Sqe := { sqe 0x04 0 with cdw10 := 1 }
    let m := fly (admCmd e) upQ
    m.adminCmd 1 = some (admCmd e) ∧ e.qid = 1 ∧ ((m.dropTasks 1).cq 0 1).size ≠ 0 ∧
      (m.dropTasks 1).front.sqs.any (fun e => decide (e.1 / 1024 = 0) && e.2.cq == 1) = true ∧
      ((m.updSq 0 1 fun _ => Sq.init).dropTasks 1).front.sqs.any (fun e => decide (e.1 / 1024 = 0) && e.2.cq == 1) = false := by
  decide +kernel
theorem wit_asyncEventRequest : let c := admCmd (sqe 0x0C 0)
    (fly c upQ).adminCmd 1 = some c ∧ ((fly c upQ).heldAers 0).length < 4 ∧
      4 ≤ (((fly c upQ).onFront fun f => { f with inflight := c :: List.replicate 4 (atStage .held c) }).heldAers 0).length := by
  decide +kernel
theorem wit_abort : let a := admCmd { sqe 0x08 0 with cdw10 := 0x00000001 }
    let k := { ioCmd (sqe 0x02 1) with stamp := 2 }
    let m := (fly a upQ).advance 0
    let n := m.onFront fun f => { f with inflight := [a, k] }
    m.adminCmd 1 = some a ∧ m.abortsBefore a < 16 ∧ m.abortTarget a = none ∧
      n.adminCmd 1 = some a ∧ n.abortTarget a = some k ∧ n.fwd? 2 = none ∧
      (n.onHitch fun h => { h with fwd := [{ fwd1 with stamp := 2 }] }).fwd? 2 = some { fwd1 with stamp := 2 } ∧
      16 ≤ (m.onFront fun f => { f with inflight := List.replicate 16 { a with stamp := 0 } }).abortsBefore a := by decide +kernel
theorem wit_selfTest : let c := admCmd { sqe 0x14 0 with cdw10 := 0xF }
    (fly c upQ).adminCmd 1 = some c ∧ c.plot = 0 ∧ Word.bits c.sqe.cdw10 3 0 = 0xF ∧ (fly c upQ).hub.selfTest = 0 ∧
      (upQ.onHub fun h => { h with selfTest := 1 }).hub.selfTest ≠ 0 ∧ (fly { c with plot := 2 } upQ).adminCmd 1 = some { c with plot := 2 } := by decide +kernel
theorem wit_invalidOpcode : let c := admCmd (sqe 0x7F 0)
    (fly c upQ).cmd? 1 = some c ∧ c.stage = .fetched ∧ c.opcodeOk = false := by decide +kernel

theorem wit_identify : let c := admCmd { sqe 0x06 0 with cdw10 := 1, bufLen := 4096 }
    let m := fly c upQ
    m.adminCmd 1 = some c ∧ m.adminTurn c = true ∧ c.replyStatus 4096 = none ∧ c.sqe.buf = .prp ∧ (m.dropTasks 1).remote 0 = false ∧ ((m.dropTasks 1).identifyData c).isRight = true ∧
      4096 ≤ c.sqe.bufLen := by decide +kernel
theorem wit_getLog : let c := admCmd { sqe 0x02 0 with cdw10 := 0x001F0002, bufLen := 128 }
    let m := fly c upQ
    m.adminCmd 1 = some c ∧ m.adminTurn c = true ∧ c.sqe.buf = .prp ∧ c.sqe.logOff % 4 = 0 ∧ c.replyStatus c.sqe.logLen = none ∧ c.sqe.logLen = 128 ∧ c.sqe.lid = 2 ∧ vendorLogs.contains c.sqe.lid = false ∧
      ((m.dropTasks 1).stdLog c).isRight = true ∧ c.plot = 0 ∧
      ({ c.sqe with cdw10 := 0x001F00C1 } : Sqe).lid = 0xC1 ∧ c.sqe.lsi = 0 ∧
      (fly { c with plot := 3 } upQ).adminCmd 1 = some { c with plot := 3 } := by decide +kernel
theorem wit_getFeatures : let c := admCmd { sqe 0x0A 0 with cdw10 := 0xC3 }
    let m := (fly c upQ).dropTasks 1
    (fly c upQ).adminCmd 1 = some c ∧ m.featOk 0xC3 = true ∧ c.sqe.sel = 0 ∧ m.featRemote c = false ∧
      (m.getFeature (st up).cfg c).isRight = true ∧ ({ c.sqe with cdw10 := 0x3C3 } : Sqe).sel = 3 ∧
      ({ c.sqe with cdw10 := 0x4C3 } : Sqe).sel = 4 ∧ m.featOk 0x7F = false := by decide +kernel

theorem wit_setFeatures : let c := admCmd { sqe 0x09 0 with cdw10 := 0x01 }
    (fly c upQ).adminCmd 1 = some c ∧ (fly c upQ).adminTurn c = true ∧ c.sqe.buf = .prp ∧ c.sqe.fid = 1 ∧ c.plot = 0 ∧ ownRow.contains 1 = false ∧ plainFeats.contains 1 = true ∧
      c.sqe.save = false ∧ ownRow.contains 0x7F = false ∧ ((fly c upQ).dropTasks 1).featOk 0x7F = false := by decide +kernel
theorem wit_setFeatures_power : let c := admCmd { sqe 0x09 0 with cdw10 := 0x02, cdw11 := 4 }
    (fly c upQ).adminCmd 1 = some c ∧ c.sqe.fid = 2 ∧ powerStateOf c.sqe = 4 ∧ Word.bits c.sqe.cdw11 7 5 = 0 ∧
      ((fly c upQ).dropTasks 1).mayIdle = true ∧ powerStateOf (sqe 0x09 0) < 3 := by decide +kernel
theorem wit_setFeatures_apst : let c := admCmd { sqe 0x09 0 with cdw10 := 0x0C, cdw11 := 1, data := le 8 (8 * 3 + 256 * 100) }
    (fly c upQ).adminCmd 1 = some c ∧ c.sqe.fid = 0x0C ∧
      (∀ t ∈ (apstEntries c.sqe.data).take 5, t.2 ≠ 0 → t.1 = 3 ∨ t.1 = 4) := by decide +kernel
theorem wit_setFeatures_vwc : let c := admCmd { sqe 0x09 0 with cdw10 := 0x06, cdw11 := 1 }
    let m := fly c upQ
    m.adminCmd 1 = some c ∧ c.sqe.fid = 6 ∧ c.sqe.cdw11.getLsbD 0 = true ∧ (m.onPower fun p => { p with vwc := true }).power.vwc = true ∧
      (m.onPower fun p => { p with vwc := false }).power.vwc = false := by decide +kernel
theorem wit_setFeatures_grid : let c := admCmd { sqe 0x09 0 with cdw10 := 0xC0, data := [64, 50, 0, 1] }
    (fly c upQ).adminCmd 1 = some c ∧ c.sqe.fid = 0xC0 ∧ (fly c upQ).gridFeatOk c.sqe.data = true := by decide +kernel
theorem wit_setFeatures_namespace : let c := admCmd { sqe 0x09 1 with cdw10 := 0xC5, cdw11 := 1 }
    let m := (fly c upZ).dropTasks 1
    (fly c upZ).adminCmd 1 = some c ∧ m.remote 1 = false ∧ m.nsStatus c = none ∧ Word.bits c.sqe.cdw11 1 0 < 2 ∧ 2 ≤ Word.bits 2 1 0 ∧
      extOk (1 :: zeros 31) (m.nsBeds (m.ns 1)) = true ∧ leAt (1 :: zeros 31) 24 8 = 0 := by decide +kernel
theorem wit_setFeatures_quotas : let q := quotaOf (quotaBytes Quota.init0)
    let m := (fly (admCmd { sqe 0x09 0 with cdw10 := 0xC2 }) upQ).dropTasks 1
    quotaOk q = true ∧ q.open_ ≤ q.active ∧ m.qpairs 0 ≤ q.qpairs ∧ m.quotasFit 0 q = true ∧ quotaOk { q with fetchW := 0 } = false := by
  decide +kernel
theorem wit_setFeatures_throttle : let d : List Byte := [120, 0, 125, 8, 90, 10]
    let m := upQ.onPower fun p => { p with decl := { p.decl with bMax := 120 } }
    10 ≤ leAt d 0 2 ∧ leAt d 0 2 ≤ 120 ∧ leAt d 0 2 ≤ m.power.decl.bMax ∧ 85 ≤ leAt d 2 1 ∧ leAt d 2 1 ≤ 125 ∧ 1 ≤ leAt d 3 1 ∧
      leAt d 3 1 ≤ 8 ∧ 50 ≤ leAt d 4 1 ∧ leAt d 4 1 ≤ 90 ∧ 1 ≤ leAt d 5 1 ∧ leAt d 5 1 ≤ 10 := by decide +kernel
theorem wit_setFeatures_ybk : Word.bits 3600 15 0 ≤ 3600 ∧ Word.bits 0xFFFF 15 0 = 0xFFFF ∧ 3600 < Word.bits 3601 15 0 := by decide

theorem wit_nsCreate : let c := admCmd (sqe 0x0D 0)
    (fly c upQ).adminCmd 1 = some c ∧ (fly c upQ).adminTurn c = true ∧ c.sqe.buf = .prp ∧ c.plot = 0 ∧ Word.bits c.sqe.cdw10 3 0 = 0 ∧
      ((fly c upQ).dropTasks 1).hitch.role ≠ 1 ∧ (((fly c upQ).dropTasks 1).createNs c.sqe.data).isLeft = true ∧
      (fly { c with plot := 5, sqe := { c.sqe with buf := .malformed, cdw10 := 2 } } upQ).adminCmd 1 =
        some { c with plot := 5, sqe := { c.sqe with buf := .malformed, cdw10 := 2 } } := by decide +kernel
theorem wit_nsCreate_makes : (((fly (admCmd (sqe 0x0D 0)) upQ).dropTasks 1).createNs
    (le 8 524288 ++ zeros 3832 ++ [0, 16, 0xFF, 0xFF])).isRight = true := by decide +kernel
theorem wit_nsCreate_member : let c := admCmd (sqe 0x0D 0xFFFFFF01)
    let m := (fly c (upMember 1)).dropTasks 1
    (fly c (upMember 1)).adminCmd 1 = some c ∧ m.hitch.role = 1 ∧ c.sqe.nsid.toNat - 0xFFFFFF00 = 1 ∧ (m.member 1).st = 1 ∧ (m.member 2).st = 0 ∧
      (((fly c (upMember 3)).dropTasks 1).member 1).st = 3 := by decide +kernel
theorem wit_nsDelete : let c := admCmd { sqe 0x0D 1 with cdw10 := 1 }
    let m := (fly c upZ).dropTasks 1
    (fly c upZ).adminCmd 1 = some c ∧ (fly c upZ).adminTurn c = true ∧ Word.bits c.sqe.cdw10 3 0 = 1 ∧ m.remote 1 = false ∧ (m.ns 1).exists_ = true ∧
      m.deletedBefore c = false ∧ (m.nsNamed c.sqe).any m.nsFrozen = false ∧ (m.ns 2).exists_ = false ∧ m.remote 2 = false ∧
      ((m.updPlot 0 fun p => { p with st := .frozen }).nsNamed c.sqe).any (m.updPlot 0 fun p => { p with st := .frozen }).nsFrozen = true ∧
      (fly { c with plot := 1 } upZ).adminCmd 1 = some { c with plot := 1 } ∧ ((fly c (upMember 1)).dropTasks 1).remote 1025 = true := by decide +kernel
theorem wit_nsAttach : let c := admCmd { sqe 0x15 1 with data := le 2 1 ++ le 2 5 }
    let m := (fly c upZ).dropTasks 1
    (fly c upZ).adminCmd 1 = some c ∧ (fly c upZ).adminTurn c = true ∧ m.remote 1 = false ∧ m.deletedBefore c = false ∧ (m.ns 1).exists_ = true ∧
      (m.ns 3).exists_ = false ∧ ctrlListOk c.sqe.data = true ∧ ctrlListOk (le 2 2048) = false ∧ ctrlList c.sqe.data = [5] ∧
      [5].findSome? (m.attachStatus 1) = none ∧ ([5].findSome? (m.detachStatus 1)).isSome = true ∧
      ([0].findSome? (m.attachStatus 1)).isSome = true ∧ [0].findSome? (m.detachStatus 1) = none := by decide +kernel
theorem wit_format : let c := admCmd (sqe 0x80 1)
    let m := (fly c upZ).dropTasks 1
    (fly c upZ).adminCmd 1 = some c ∧ (fly c upZ).adminTurn c = true ∧ Word.bits c.sqe.cdw10 11 9 = 0 ∧ m.remote 1 = false ∧ (m.ns 1).exists_ = true ∧
      m.deletedBefore c = false ∧ (m.ns 2).exists_ = false ∧ Word.bits 0x200 11 9 ≠ 0 := by decide +kernel

theorem wit_ioRows : let c := ioCmd { sqe 0x02 1 with bufLen := 4096 }
    let m := (fly c upZ).advance 0
    m.cmd? 1 = some c ∧ c.stage = .fetched ∧ c.sq ≠ 0 ∧ (m.dropTasks 1).remote 1 = false ∧ (m.dropTasks 1).ioStatus c = none ∧
      ((m.dropTasks 1).ioStatus { c with sqe := { c.sqe with nsid := 2 } }).isSome = true ∧ ((fly c (upMember 1)).dropTasks 1).remote 1025 = true ∧
      c.sqe.opc = 0x02 ∧ ({ c.sqe with opc := 0x79, cdw13 := 3 } : Sqe).zsa = 3 ∧ ({ c.sqe with cdw13 := 0x10 } : Sqe).zsa = 0x10 ∧
      ({ c.sqe with cdw13 := 1 } : Sqe).zsa = 1 ∧ c.sqe.zsa ≠ 1 := by decide +kernel
theorem wit_zoneTask : let c := atStage .zoned (ioCmd { sqe 0x01 1 with cdw10 := 8, bufLen := 4096 })
    ((fly c upZ).advance 0).cmd? 1 = some c ∧ c.sq ≠ 0 ∧ c.stage = .zoned := by decide +kernel
theorem wit_flush : let c := ioCmd (sqe 0x00 1)
    let m := (fly c upZ).advance 0
    m.cmd? 1 = some c ∧ (m.dropTasks 1).remote 1 = false ∧ (m.dropTasks 1).ioStatus c = none ∧
      ((m.onPower fun p => { p with vwc := true }).dropTasks 1).power.vwc = true ∧
      ((m.onPower fun p => { p with vwc := false }).dropTasks 1).power.vwc = false ∧
      ((m.dropTasks 1).ioStatus (ioCmd (sqe 0x00 2))).isSome = true := by decide +kernel
theorem wit_flushDone : let c := atStage .media (ioCmd (sqe 0x00 1))
    (fly c upZ).cmd? 1 = some c ∧ (fly c upZ).uncovered c.cover = false := by decide +kernel
theorem wit_flushDone_waits : (fly (ioCmd (sqe 0x00 1)) upUnit).uncovered [(zkey 1 0, 3)] = true := by decide +kernel

theorem wit_download : let c := admCmd { sqe 0x11 0 with cdw10 := 1023, bufLen := 4096 }
    let m := (fly c upQ).advance 0
    m.adminCmd 1 = some c ∧ m.adminTurn c = true ∧ c.plot = 0 ∧ (m.dropTasks 1).stagingBusy 0 = false ∧ dlOff c.sqe = 0 ∧ dlLen c.sqe = 4096 ∧
      dlLen (sqe 0x11 0) < 4096 ∧ m.headerCheck m.floorNow { hdr1 with magic := 0 } ≠ 0 ∧ dlOff { c.sqe with cdw11 := 5 } ≠ 0 + 0 ∧
      (m.onImg fun i => { i with writing := some (0, 0, 0) }).stagingBusy 0 = true := by decide +kernel
theorem wit_download_passes : (upImg.onImg Img.emptied).headerCheck (upImg.onImg Img.emptied).floorNow hdr1 = 0 := by decide +kernel
theorem wit_download_next : let c := admCmd { sqe 0x11 0 with cdw10 := 1023, cdw11 := 1024, bufLen := 4096 }
    let m := (((fly c upImg).onImg fun i => { i with stage := 1, body := 0 }).advance 0).dropTasks 1
    dlOff c.sqe = 4096 ∧ m.stagingBusy 0 = false ∧ m.img.hdr = some hdr1 ∧ dlOff c.sqe = m.img.hdrBytes + m.img.body ∧ dlLen c.sqe = 4096 ∧
      dlOff c.sqe + dlLen c.sqe ≤ 4096 + hdr1.bodyLen := by decide +kernel
theorem wit_commits : let c := admCmd (sqe 0x10 0)
    let m := (fly c upImg).dropTasks 1
    (fly c upImg).adminCmd 1 = some c ∧ (fly c upImg).adminTurn c = true ∧ c.plot = 0 ∧ m.committing = false ∧ m.fwSlot (fwSlotField c.sqe) = some 1 ∧
      fwAction c.sqe = 0 ∧ m.img.hdr = some hdr1 ∧ m.img.stage = 2 ∧ m.notBelow 1 hdr1.version = true ∧ m.fwSlot 3 = none ∧
      fwAction { c.sqe with cdw10 := 8 } = 1 ∧ fwAction { c.sqe with cdw10 := 16 } = 2 ∧ fwAction { c.sqe with cdw10 := 24 } = 3 ∧
      fwAction { c.sqe with cdw10 := 32 } = 4 ∧ m.useStatus 1 = some St.invalidImage ∧
      (m.onImg fun i => { i with writing := some (1, 1, 0) }).committing = true := by decide +kernel
theorem wit_commits_use : let m := (fly (admCmd (sqe 0x10 0)) upImg2).dropTasks 1
    m.useStatus 1 = none ∧ m.slotVersion 1 ≠ m.img.version ∧ m.activateBlock 1 = none ∧
      (m.onImg fun i => { i with version := 7 }).slotVersion 1 = (m.onImg fun i => { i with version := 7 }).img.version ∧
      m.fwSlot 2 = some 1 ∧ ((m.onImg fun i => { i with runHdr := none }).activateBlock 1).isSome = true := by decide +kernel
theorem wit_slotWrite : (upImg.onImg fun i => { i with writing := some (1, 1, 0) }).img.writing = some (1, 1, 0) ∧
    upImg.img.hdr = some hdr1 ∧ upImg.headerCheck upImg.floorNow hdr1 = 0 := by decide +kernel
theorem wit_activation : let a : Activ := { slot := 1, cmd := 1, swaths := [15], done := [], back := none, cores := 0, waiting := false, at_ := 0, from_ := 1 }
    let m := upImg2.onImg fun i => { i with act := some a }
    m.img.act = some a ∧ m.toSwitch a = [15] ∧ m.swathEmpty 15 = true ∧ m.toSwitch { a with swaths := [] } = [] ∧ m.acreUp (swathAcre 15) = true ∧
      (m.slot 1).hdr = some hdr1 ∧ (m.setTine 240 { Tine.init with l2 := [tMedia] }).swathEmpty 15 = false := by decide +kernel
theorem wit_stagingIdle : let m := (upImg.onImg fun i => { i with stage := 1, lastAt := 0 }).advance (600 * Config.edgesPerSec)
    m.img.stage = 1 ∧ m.img.lastAt + 600 * Config.edgesPerSec ≤ m.clk.now := by decide +kernel

theorem wit_plotFreeze : let c := admCmd { sqe 0xC1 0 with cdw10 := 5 }
    let m := (fly c (upPlot .ready)).advance 0
    m.cmd? 1 = some c ∧ m.adminCmd 1 = some c ∧ m.adminTurn c = true ∧ c.plot = 0 ∧ c.sqe.target = 5 ∧ (m.plot 5).st = .ready ∧
      ((m.dropTasks 1).plot 5).st = .ready ∧ (((fly c (upPlot .frozen)).advance 0).plot 5).st = .frozen ∧ (sqe 0xC1 0).target = 0 ∧
      (((fly c (upPlot .resetting)).advance 0).plot 5).st = .resetting ∧ 1024 ≤ ({ c.sqe with cdw10 := 1024 } : Sqe).target ∧
      (m.plot 0).st ≠ .resetting := by decide +kernel
theorem wit_freezeBound : let m := (upPlot .freezing).advance (10 * Config.edgesPerMs)
    (m.plot 5).st = .freezing ∧ (m.plot 5).freezeAt + 10 * Config.edgesPerMs ≤ m.clk.now ∧
      ((upPlot .freezing).advance 1).clk.now < (m.plot 5).freezeAt + 10 * Config.edgesPerMs := by decide +kernel
theorem wit_freezeDone : let m := (upPlot .freezing).advance 0
    (m.plot 5).st = .freezing ∧ m.front.inflight.all (fun c => c.plot != 5 || c.stage == .held) = true ∧ m.unitsFlushed (m.attachedTo 5) = true ∧
      m.front.cqs.all (fun e => decide (e.1 / 1024 ≠ 5) || e.2.hasRoom) = true := by decide +kernel
theorem wit_plotSave : let c := admCmd { sqe 0xC2 0 with cdw10 := 5, cdw11 := 131072 }
    let m := fly c ((upPlot .frozen).onPlots fun x => { x with migKeys := [(0, 77)] })
    let n := m.dropTasks 1
    m.cmd? 1 = some c ∧ m.adminCmd 1 = some c ∧ m.adminTurn c = true ∧ c.sqe.target = 5 ∧ (m.plot 5).st = .frozen ∧ 131072 ≤ c.sqe.cdw11.toNat ∧
      (n.plot 5).key ≠ 0 ∧ Tbl.get 0 (Word.bits c.sqe.cdw12 2 0) n.plots.migKeys ≠ 0 := by decide +kernel
theorem wit_plotRestore : let c := admCmd { sqe 0xC3 0 with cdw10 := 5, cdw11 := 131072 }
    let m := fly c (upPlot .ready)
    m.adminCmd 1 = some c ∧ Word.bits c.sqe.cdw12 7 0 = 0 ∧ c.sqe.cdw11 ≠ 0 ∧ c.sqe.cdw11.toNat ≤ 131072 ∧
      ((m.dropTasks 1).restoreCheck 5 c.sqe.data (4 * c.sqe.cdw11.toNat)).isSome = true := by decide +kernel
theorem wit_migrationKey : Word.bits 1 7 0 = 1 ∧ leAt (7 :: zeros 63) 0 1 < 8 ∧
    (fly (admCmd { sqe 0xC3 0 with cdw11 := 16, cdw12 := 1 }) upQ).adminCmd 1 = some (admCmd { sqe 0xC3 0 with cdw11 := 16, cdw12 := 1 }) := by
  decide +kernel
theorem wit_plotThaw : let c := admCmd { sqe 0xC4 0 with cdw10 := 5 }
    let m := fly c (upPlot .frozen)
    m.cmd? 1 = some c ∧ m.adminCmd 1 = some c ∧ m.adminTurn c = true ∧ c.sqe.target = 5 ∧ ((m.dropTasks 1).plot 5).st = .frozen := by decide +kernel

theorem wit_plotReset : let m := (upPlot .ready).advance 0
    m.awake = true ∧ m.plotPort 5 = 0 ∧ (m.plot 5).st = .ready ∧ (m.plot 6).st = .absent ∧
      m.front.inflight.filter (fun c => c.plot == 0 && c.sq == 0 && c.stage == .fetched && c.sqe.opc == 0xC5 && c.sqe.target == 5 &&
        !m.heldByActivation c && m.adminTurn c) = [] := by decide +kernel
theorem wit_plotReset_cmd : let c := admCmd { sqe 0xC5 0 with cdw10 := 5 }
    let m := (fly c (upPlot .ready)).advance 0
    m.awake = true ∧ m.front.inflight.filter (fun c => c.plot == 0 && c.sq == 0 && c.stage == .fetched && c.sqe.opc == 0xC5 && c.sqe.target == 5 &&
        !m.heldByActivation c && m.adminTurn c) = [c] := by decide +kernel
theorem wit_plotResetDone : let m := (upPlot .resetting).advance (50 * Config.edgesPerMs)
    let b := m.updGroup 0 fun p => { p with queue := [{ id := 5, d := { dsc with requester := 5 }, moved := 0, started := true, engine := none, ended := none, seals := 0, sealAt := 0, stream := [], last := none, placedAt := 0, squash := false }] }
    (m.plot 5).st = .resetting ∧ m.plotBusy 5 = false ∧ b.plotBusy 5 = true ∧ (b.plot 5).resetAt + 50 * Config.edgesPerMs ≤ b.clk.now ∧
      ((upPlot .resetting).advance 1).clk.now < (b.plot 5).resetAt + 50 * Config.edgesPerMs := by decide +kernel
theorem wit_flrPlot0 : let m := (upQ.onPlots fun x => { x with vfEn := [(0, 3)] }).advance 0
    m.awake = true ∧ ((((m.plotsOn 0 (Tbl.get 0 0 m.plots.vfEn)).foldl (fun m p => m.makeAbsent p) m).onPlots fun x =>
      { x with vfEn := Tbl.put 0 0 0 x.vfEn }).plot 0).st = .ready := by decide +kernel
theorem wit_vfEnable : up.awake = true ∧ 1023 ≤ 1023 ∧ (up.onBoot fun b => { b with straps := { b.straps with portMode := true } }).boot.straps.portMode = true ∧
    2 < Tbl.get 0 0 ((upQ.onPlots fun x => { x with vfEn := [(0, 3)] }).advance 0).plots.vfEn := by decide +kernel

theorem wit_hitchPort : let m := (upRing 1).advance 0
    m.ownPort 0 = true ∧ (m.hport 0).st = 1 ∧ (m.hport 0).retryAt ≤ m.clk.now ∧ frameTypes.contains 0x40 = false ∧ frameTypes.contains 0x33 = true ∧
      leAt [0x10, 0, 3, 0] 2 1 ≠ m.hitch.pos ∧ leAt [0x10, 0, 0, 0] 2 1 = m.hitch.pos ∧ m.ownPort 2 = false := by
  decide +kernel
theorem wit_hitchPort_up : let m := (upLink 1 2).advance (12 * Config.edgesPerUs)
    m.ownPort 0 = true ∧ (m.hport 0).st = 2 ∧ (m.hport 0).sentAt + 10 * Config.edgesPerUs ≤ m.clk.now ∧
      (m.hport 0).lastKa + 12 * Config.edgesPerUs ≤ m.clk.now ∧ (upRing 2).ownPort 1 = true := by decide +kernel
theorem wit_hitchPort_lost : let m := ((upLink 1 3).updHport 0 fun p => { p with upSince := some 0 }).advance Config.edgesPerMs
    m.ownPort 0 = true ∧ (m.hport 0).st = 3 ∧ (m.hport 0).upSince.getD m.clk.now + Config.edgesPerMs ≤ m.clk.now := by decide +kernel

theorem wit_discover : let m := upLink 1 2
    m.ownPort 0 = true ∧ (m.hport 0).st = 2 ∧ (m.hport 1).st = 2 ∧ m.ownPort 1 = true ∧ m.hitch.role = 1 ∧ 0 ≠ leAt m.identity 0 16 ∧
      (m.onHitch fun h => { h with discAt := some 0 }).hitch.discAt.isSome = true ∧ (upLink 2 2).hitch.role = 2 ∧
      (upLink 2 2).hitch.admitted = false ∧ (upLink 2 2).ownPort 1 = true ∧ ((upLink 2 2).hport 1).st = 2 := by decide +kernel
theorem wit_discoverTimeout : let m := ((upLink 1 2).onHitch fun h => { h with discAt := some 0 }).advance Config.edgesPerMs
    m.hitch.discAt = some 0 ∧ 0 + Config.edgesPerMs ≤ m.clk.now ∧ ((upLink 1 2).advance 1).clk.now < 0 + Config.edgesPerMs := by
  decide +kernel
theorem wit_announce : (upMember 1).ownPort 0 = true ∧ (upMember 1).hitch.role = 1 ∧ 2 ≤ (upMember 1).hitch.ring ∧ ((upMember 1).member 7).st = 0 ∧
    ((upMember 1).member 1).st = 1 ∧ ((upMember 1).member 1).entry.identity = 5 ∧ ((upMember 2).member 1).st = 2 ∧ ((upMember 4).member 1).st = 4 ∧
    ((upMember 1).member 1).entry.identity ≠ 99 := by decide +kernel
theorem wit_links : let m := (upMember 1).advance 0
    m.awake = true ∧ m.hitch.role = 1 ∧ m.ringMembers.contains 1 = true := by decide +kernel
theorem wit_readmit : let m := (upMember 2).advance (20 * Config.edgesPerMs)
    m.hitch.role = 1 ∧ (m.member 1).st = 2 ∧ m.canReach 1 = true ∧ (m.member 1).lostAt + 20 * Config.edgesPerMs ≤ m.clk.now ∧
      (m.member 1).isoAt + 10 * Config.edgesPerMs ≤ m.clk.now := by decide +kernel
theorem wit_hitchControl : let c := admCmd { sqe 0xC8 0 with cdw10 := 0x101 }
    let m := (fly c (upMember 1)).advance 0
    m.adminCmd 1 = some c ∧ m.adminTurn c = true ∧ c.plot = 0 ∧ hcPos c.sqe = 1 ∧ hcAction c.sqe = 1 ∧ (m.dropTasks 1).hitch.role = 1 ∧
      ((m.dropTasks 1).member 1).st = 1 ∧ m.hitch.discAt.isSome = false ∧ hcAction { c.sqe with cdw10 := 0x202 } = 2 ∧
      hcPos { c.sqe with cdw10 := 0x202 } = 2 ∧ ((m.dropTasks 1).member 2).st = 0 ∧ hcAction { c.sqe with cdw10 := 4 } = 4 ∧
      (((fly c (upMember 4)).dropTasks 1).member 1).st = 4 ∧ (((fly c (upMember 2)).dropTasks 1).member 1).st = 2 ∧ hcAction (sqe 0xC8 0) = 0 ∧
      ((fly c upQ).dropTasks 1).hitch.role ≠ 1 := by decide +kernel
theorem wit_passAlong : let c := admCmd { sqe 0xC8 0 with cdw10 := 3 }
    let m := fly c (upMember 2)
    m.adminCmd 1 = some c ∧ m.adminTurn c = true ∧ hcAction c.sqe = 3 ∧ hcPos c.sqe = 0 ∧ m.hitch.passCmd = 0 ∧ (m.dropTasks 1).hitch.role = 1 ∧
      (m.dropTasks 1).img.hdr = none ∧ (m.dropTasks 1).membersUp = [] ∧ upImg.img.hdr = some hdr1 ∧ ((m.dropTasks 1).member 1).st ≠ 1 := by decide +kernel

theorem wit_managerFrames : let m := upFwd
    let c := atStage .media (ioCmd (sqe 0x02 1025))
    m.fwdOf 1 0 1 = some fwd1 ∧ m.cmd? 1 = some c ∧ (m.member 1).hold = false ∧ c.movesBlocks = true ∧ c.checksBlocks = true ∧ c.resensed = false ∧
      fwd1.rdBytes < 4096 * c.sqe.nlb ∧ (m.member 1).isoCmd = 0 ∧ m.fwdOf 1 0 2 = none ∧ m.fwdOf 1 3 1 = none ∧
      (m.inBlocks c 0 [0] [0, 0, 0, 0]).all (fun b => b.isSome) = true ∧ (m.answerAborts 1 true).cmd? 1 = some c ∧
      (m.onFront fun f => { f with inflight := [] }).cmd? 1 = none := by
  decide +kernel
theorem wit_managerOthers : let m := upFwd.onHitch fun h => { h with passWait := [1], regPend := [0x0C000010] }
    let n := (upFwd.updMember 1 fun x => { x with hold := true }).onPlots fun p => { p with missing := [(1, 30)] }
    m.hitch.role = 1 ∧ m.hitch.passWait.contains 1 = true ∧ m.hitch.regPend.contains (0x0C000000 + (1 - 1) * 0x00800000 + 0x10) = true ∧
      (n.member 1).hold = true ∧ (n.member 1).gen = 0 ∧ n.plots.missing.contains (1, 30) = true := by decide +kernel

theorem wit_worker : let m := (upWorker).advance 0
    m.isWorker = true ∧ m.inService = true ∧ m.recv? 9 = none ∧ m.recv? 1 = some rec1 ∧ rec1.tag = 1 ∧ rec1.st ≠ 3 ∧
      (m.updRecv 1 fun k => { k with st := 1 }).recv? 1 = some { rec1 with st := 1 } ∧ m.hitch.orphaned = false ∧ upWorker.isWorker = true := by
  decide +kernel
theorem wit_worker_cancel : let m := (fly (ioCmd (sqe 0x02 1)) upWorker).updRecv 1 fun k => { k with st := 1 }
    m.isWorker = true ∧ m.recv? 1 = some { rec1 with st := 1 } ∧ m.cmd? 1 = some (ioCmd (sqe 0x02 1)) ∧ (ioCmd (sqe 0x02 1)).committed = false ∧
      (ioCmd (sqe 0x02 1)).stage ≠ .done ∧ (upWorker.updRecv 1 fun k => { k with st := 3 }).cmd? 1 = none := by
  decide +kernel
theorem wit_worker_time : let m := upWorker.advance (10 * Config.edgesPerMs)
    m.isWorker = true ∧ m.hitch.orphaned = false ∧ m.hitch.lastTime + 10 * Config.edgesPerMs ≤ m.clk.now := by decide +kernel
theorem wit_worker_images : let m := upWorker
    m.ownPort 0 = true ∧ m.hitch.role = 2 ∧ m.stagingBusy 2 = false ∧ m.headerCheck m.floorNow hdr1 = 0 ∧
      m.headerCheck m.floorNow { hdr1 with magic := 0 } ≠ 0 ∧ m.awake = true ∧ m.committing = false ∧
      m.boot.recovery = false ∧ (m.onImg fun i => { i with stage := 2 }).img.stage = 2 ∧ (m.onBoot fun b => { b with recovery := true }).boot.recovery = true ∧
      (m.useStatus (1 - m.img.running)).isSome = true ∧
      ((m.onImg fun i => { i with slots := Tbl.put Slot.init (1 - i.running) { hdr := some hdr1, bodyOk := true } i.slots }).useStatus (1 - m.img.running)) = none := by
  decide +kernel
theorem wit_worker_imgBlk : let m := upWorker.onImg fun i => { i with route := 2, stage := 1, hdr := some hdr1 }
    m.img.route = 2 ∧ m.img.stage = 1 ∧ m.img.hdr = some hdr1 ∧ m.img.body + 4095 < hdr1.bodyLen := by decide +kernel

theorem wit_polezReads : let m := svc up
    m.polezUp = true ∧ m.inService = true ∧ m.polez.last = none ∧ polezOpcodes.contains 2 = false ∧ up.polezUp = false ∧
      (svc (upPhase 3)).polezUp = true ∧ (svc (upPhase 3)).inService = false ∧
      m.polezBookOk (ybkReq [0, 1, 0, 0, 0xF8, 7, 0, 0]) = true ∧ m.polezBookOk (ybkReq [0, 1, 0, 0, 0xF9, 7, 0, 0]) = false ∧
      (svc (upMember 1)).polezBookOk (ybkReq [1, 2, 0, 0, 15, 0, 0, 0]) = true ∧ leAt [0, 0, 0, 0, 0, 0, 63, 0] 6 2 = 63 ∧
      leAt [1, 0, 255, 0] 2 2 = 255 ∧ leAt [1, 0, 255, 0] 0 2 = 1 ∧ (m.onPolez fun x => { x with last := some 3 }).polez.last = some 3 := by decide +kernel

theorem wit_polezImages : let m := (svc up).advance 5
    m.polezUp = true ∧ m.inService = true ∧ m.polez.last = none ∧ m.stagingBusy 1 = false ∧
      (m.onImg Img.emptied).headerCheck (m.onImg Img.emptied).floorNow hdr1 = 0 ∧ (zeros 4096).length = 4096 ∧
      (m.onImg Img.emptied).headerCheck (m.onImg Img.emptied).floorNow { hdr1 with format := 2 } = 1 ∧
      (svc (upPhase 3)).polezUp = true ∧ (svc (upPhase 3)).inService = false ∧ (svc (upPhase 3)).boot.recovery = false := by decide +kernel
theorem wit_polezBlocks : let m := ((svc up).onImg fun i => { i with stage := 1, route := 1, hdr := some hdr1, hdrBytes := 4096, body := 2 }).advance 5
    m.polezUp = true ∧ m.inService = true ∧ m.polez.last = none ∧ m.stagingBusy 1 = false ∧ m.img.hdr = some hdr1 ∧ m.img.body = 2 ∧
      leAt [2, 0, 0, 0, 9] 0 4 = 2 ∧ leAt [1, 0, 0, 0, 9] 0 4 + 1 ≤ 2 ∧ leAt [2, 0, 0, 0, 9] 0 4 + 1 ≤ hdr1.bodyLen := by decide +kernel
theorem wit_polezCommits : let m := (svc upImg).onImg fun i => { i with route := 1 }
    m.polezUp = true ∧ m.inService = true ∧ m.boot.recovery = false ∧ m.polez.last = none ∧ m.stagingBusy 1 = false ∧ leAt [1, 255, 0, 0] 0 1 = 1 ∧
      m.polezSlot (leAt [1, 255, 0, 0] 1 1) = some 1 ∧ m.polezSlot 2 = none ∧ m.img.hdr = some hdr1 ∧ m.img.stage = 2 ∧ m.notBelow 1 hdr1.version = true ∧
      (svc up).stagingBusy 1 = false ∧ (svc (upImg.onImg fun i => { i with route := 2 })).stagingBusy 1 = true ∧
      (m.onBoot fun b => { b with recovery := true }).polezSlot 255 = some 0 := by decide +kernel
theorem wit_polezUse : let m := (svc upImg2).onImg fun i => { i with route := 1 }
    m.polezUp = true ∧ m.inService = true ∧ m.boot.recovery = false ∧ m.polez.last = none ∧ m.stagingBusy 1 = false ∧ m.polezSlot 1 = some 1 ∧
      m.useStatus 1 = none ∧ m.slotVersion 1 ≠ m.img.version ∧ m.activateBlock 1 = none := by decide +kernel

theorem wit_apst : let m := (up.onPower fun p => { p with apst := true, apstIdle := [(3, 1)] }).advance 3200000
    m.inService = true ∧ m.power.apst = true ∧ m.mayIdle = true ∧ m.power.entering = none ∧ m.quiet = true ∧ m.anyFetchable = false ∧
      m.power.apstIdle.getD m.power.ps (0, 0) = (3, 1) ∧ m.power.ps < 3 ∧ m.power.idleAt + 1 * Config.edgesPerMs ≤ m.clk.now := by decide +kernel
theorem wit_nonopEntry : let m := (entering up).advance 1
    m.power.entering = some 3 ∧ m.power.closing = false ∧ m.quiet = true ∧ m.power.pfail = false ∧ m.heat.active = false ∧ m.power.ps < 3 ∧
      (m.onPower fun p => { p with ps := 3 }).quiet = true := by decide +kernel
theorem wit_drainDone : let m := ((entering up).onPower fun p => { p with closing := true, closeAt := some 0 }).advance 1
    m.power.entering = some 3 ∧ m.power.closing = true ∧ m.power.closeAt = some 0 ∧ m.chunksRun = false ∧ m.diesRun = false := by decide +kernel
theorem wit_drainBound : let m := ((entering upChunk).onPower fun p => { p with closing := true, closeAt := some 0 }).advance 640000
    m.power.entering = some 3 ∧ m.power.closing = true ∧ m.chunksRun = true ∧ m.power.closeAt = some 0 ∧ 0 + 200 * Config.edgesPerUs ≤ m.clk.now := by decide +kernel
theorem wit_nonopExit : let m := (up.onPower fun p => { p with ps := 3, want := some 1 }).advance 1
    m.power.want = some 1 ∧ 3 ≤ m.power.ps := by decide +kernel

theorem wit_throttleEval : let m := up.onGrid fun g => { g with passes := 100 }
    m.awake = true ∧ m.heat.evalAt + 100 ≤ m.grid.passes ∧ up.grid.passes < up.heat.evalAt + 100 ∧ Mach.reset.awake = false := by decide +kernel
theorem wit_diodeSelfCheck : let m := up.updDiode 1 fun d => { d with fail := 1, good := 9 }
    m.awake = true ∧ 4 < m.nDiodes ∧ (m.diode 4).fail = 0 ∧ (m.diode 1).fail ≠ 0 ∧ 10 ≤ (m.diode 1).good + 1 ∧ 20 ≤ ((220 : Int) - 200).natAbs ∧
      ((m.updDiode 1 fun d => { d with good := 8 }).diode 1).good + 1 < 10 := by decide +kernel

theorem wit_tripSample : let m := up.updDiode 2 fun d => { d with hot := 2 }
    (m.advance 1).clk.coldHeld = false ∧ Mach.reset.clk.coldHeld = true ∧ (upTrip false).heat.active = true ∧ m.heat.active = false ∧
      (List.range m.nDiodes).find? (fun d => decide (2 ≤ (m.diode d).hot)) = some 2 ∧
      (List.range up.nDiodes).all (fun d => decide ((up.diode d).hot < 2)) = true := by decide +kernel
theorem wit_tripDumpDone : let m := (upTrip false).advance (250 * Config.edgesPerMs)
    m.heat.active = true ∧ m.heat.gated = false ∧ m.dumpEnds = true ∧ m.power.dumpDoneF = false ∧ m.heat.tripAt + 250 * Config.edgesPerMs ≤ m.clk.now ∧
      (m.onPower fun p => { p with dumpDoneF := true }).dumpEnds = false := by decide +kernel
theorem wit_tripRestart : let m := (upTrip true).advance (30 * Config.edgesPerSec)
    m.heat.active = true ∧ m.heat.gated = true ∧ m.heat.coolAt = some 0 ∧ 0 + 30 * Config.edgesPerSec ≤ m.clk.now ∧ m.power.pfail = false := by
  decide +kernel
theorem wit_powerFail : let m := up.advance 1
    m.inService = true ∧ m.awake = true ∧ m.power.dumping = false ∧ m.heat.active = false ∧ m.power.pfail = false ∧
      (upPhase 4).awake = true ∧ (upPhase 4).inService = false ∧ (upTrip false).power.dumping = true := by decide +kernel
theorem wit_dumpDone : let m := (up.onPower fun p => { p with dumping := true, dumpCause := 3 }).advance 1
    m.dumpEnds = true ∧ m.endDump.power.dumpCause = 3 ∧ (m.onPower fun p => { p with dumpCause := 1 }).dumpEnds = true ∧
      (m.onPower fun p => { p with dumpCause := 1 }).endDump.power.dumpCause ≠ 3 := by decide +kernel
theorem wit_powerfailDeassert : let m := (up.onPower fun p => { p with pfail := true, pfailOffAt := some 0, dumpDoneF := true }).advance (100 * Config.edgesPerMs)
    m.power.pfail = true ∧ m.power.pfailOffAt = some 0 ∧ m.power.dumpDoneF = true ∧ 0 + 100 * Config.edgesPerMs ≤ m.clk.now ∧ m.heat.active = false ∧
      (m.onPower fun p => { p with pfailOffAt := none }).power.pfailOffAt = none := by decide +kernel

theorem wit_coldResetRelease : (Mach.reset.advance 3).clk.coldHeld = true ∧ (up.advance 3).clk.coldHeld = false := by decide +kernel
theorem wit_warmStart : let m := (upPhase 0).advance 1
    m.awake = false ∧ m.clk.coldHeld = false ∧ m.heat.active = false ∧ m.power.pfail = false ∧ (up.advance 1).awake = true := by decide +kernel
theorem wit_startupPhases : ([1, 2, 3, 4, 5, 6, 7, 8].all fun n =>
    let m := (upPhase n).advance 1
    m.starting && decide (m.boot.phase = n) && !m.med.chans.any (fun e => e.2.training && m.acreUp (chanAcre e.1)) &&
      decide (m.boot.spiReset ≤ m.clk.now) && !(List.range m.nAcres).any (fun a => m.acreUp a && decide ((m.port a).attempt ≠ 0))) = true := by decide +kernel
theorem wit_startupPhasesWait : let m := (upPhase 4).updPort 0 fun p => { p with attempt := 880 }
    let k := (upTrain 53).onBoot fun b => { b with phase := 6 }
    m.starting = true ∧ ((List.range m.nAcres).any fun a => m.acreUp a && decide ((m.port a).attempt ≠ 0)) = true ∧ k.starting = true ∧
      (k.med.chans.any fun e => e.2.training && k.acreUp (chanAcre e.1)) = true ∧ (upTrip false).starting = false ∧
      ((upPhase 1).onBoot fun b => { b with spiReset := 32000 }).starting = true := by decide +kernel
theorem wit_nandTraining : let m := ((upTrain 53).onBoot fun b => { b with phase := 6 }).advance 160000001
    let k := m.updChan 3 fun c => { c with heldRate := some (4, 40) }
    m.chanTrains 3 = true ∧ (m.chan 3).heldRate = none ∧ (m.chan 3).trainAt + 160000000 < m.clk.now ∧ up.chanTrains 3 = false ∧
      k.chanTrains 3 = true ∧ (k.chan 3).heldRate = some (4, 40) := by decide +kernel
theorem wit_hostLink : let m := up.onBoot fun b => { b with straps := { b.straps with portMode := true }, eq := [(1, true)] }
    m.awake = true ∧ m.hitch.role ≠ 2 ∧ m.boot.straps.portMode = true ∧ Tbl.get false 1 m.boot.eq = true ∧ Tbl.get false 0 m.boot.eq = false ∧
      up.boot.straps.portMode = false := by decide +kernel

theorem wit_perstAssert : let f := fun (m : Mach) => (((((m.advance 1).updBar0 0 fun b => { b with nssro := false }).onBoot fun b =>
        { b with link := Tbl.put false 0 false b.link, eq := Tbl.put false 0 false b.eq }).onGrid fun g =>
          { g with linkUp := Tbl.put false 0 false g.linkUp }).linkFree State.reset.cfg)
    (f upQ).inService = true ∧ (f upQ).power.dumping = false ∧ (f (upPhase 3)).awake = true ∧ (f (upPhase 3)).inService = false ∧
      (f (upPhase 3)).power.dumping = false ∧ (f (upTrip false)).power.dumping = true ∧ (f (upTrip false)).power.dumpDoneF = false ∧
      (f (upTrip true)).power.dumpDoneF = true ∧ (f (upTrip true)).awake = true ∧ (f Mach.reset).awake = false := by decide +kernel
theorem wit_nvmSubsystemReset : up.barUp 0 = true ∧ up.inService = true ∧ up.power.dumping = false ∧ Mach.reset.barUp 0 = false ∧
    (upTrip true).barUp 0 = true ∧ (upTrip true).power.dumpDoneF = true ∧ (upTrip false).barUp 0 = true ∧ (upTrip false).power.dumping = true ∧
      (upPhase 3).barUp 0 = true ∧ (upPhase 3).inService = false := by decide +kernel
theorem wit_perst1Assert : let m := (up.onBoot fun b => { b with straps := { b.straps with portMode := true } }).advance 1
    m.awake = true ∧ m.boot.straps.portMode = true ∧ (up.advance 1).boot.straps.portMode = false := by decide +kernel

theorem wit_controllerEnable : up.barTakes 1 0 = false ∧ up.barTakes 0 0 = true ∧ (up.bar0 0).en = false ∧ ccOk 0x460000 = true ∧ ccOk 0x460010 = false ∧
    ((up.updBar0 0 fun b => { b with cc := 1 }).bar0 0).en = true := by
  decide +kernel
theorem wit_controllerReset : let m := (upQ.updBar0 0 fun b => { b with cc := 1 }).advance 1
    m.barUp 0 = true ∧ (m.bar0 0).en = true ∧ m.inService = true ∧ (up.bar0 0).en = false ∧ m.barTakes 0 0 = true ∧ (upPhase 4).inService = false := by
  decide +kernel

theorem wit_timeBaseWrite : let m := up.advance 192000000000
    m.awake = true ∧ m.clk.basesLoaded = true ∧ m.clk.lastEntryAt + 192000000000 ≤ m.clk.now ∧ (Mach.reset.advance 1).awake = false := by decide +kernel
def occ1 : Occ := { code := 0x0500, mag := 3, src := 2, edge := 0 }
def upOcc (owed : Nat) : Mach := up.onYbk fun y => { y with mode := 0, queue := [occ1], slots := [0x0E00], dropOwed := Tbl.put 0 1 owed [] }
theorem wit_occurrenceApply : ((upOcc 0).advance 0).nextOcc = some occ1 ∧ (up.advance 0).nextOcc = none ∧
    let n := (upOcc 0).onYbk fun y => { y with queue := y.queue.erase occ1 }
    n.startBook = false ∧ n.ybk.slots.contains occ1.code = false ∧ n.ybk.slots.contains 0x0E00 = true ∧ occ1.src ≠ 0 ∧
      Tbl.get 0 (occ1.src - 1) (n.applyOcc occ1).ybk.dropOwed = 0 ∧
      (n.onYbk fun y => { y with mode := 1 }).startBook = true ∧ (n.onYbk fun y => { y with slots := [0x0500] }).ybk.slots.contains occ1.code = true := by
  decide +kernel
theorem wit_occurrenceDrops : let n := (upOcc 4).onYbk fun y => { y with queue := y.queue.erase occ1, slots := [] }
    ((upOcc 4).advance 0).nextOcc = some occ1 ∧ n.startBook = false ∧ n.ybk.slots.contains occ1.code = false ∧ n.ybk.slots.contains 0x0E00 = false ∧
      0 < Tbl.get 0 (occ1.src - 1) (n.applyOcc occ1).ybk.dropOwed := by decide +kernel
theorem wit_persistIntervalEnd : let m := (upOcc 0).onYbk fun y => { y with recs := [(0x0500, { Rec.init with pending := true })] }
    ((m.advance 1).ybkRec 0x0500).pending = true ∧ (m.advance 1).mayPersist 0x0500 = true ∧ (up.ybkRec 0x0500).pending = false := by decide +kernel
theorem wit_journalUnit : let m := ((up.onYbk fun y => { y with mode := 0, images := [(0x0500, Rec.init)] }).advance 3200000000).journalPrune
    let k := m.onHub fun h => { h with fenced := [(0, true), (1, true)] }
    m.ybk.images ≠ [] ∧ m.ybk.copies = [] ∧ m.ybk.imagesAt + 1000 ≤ m.powMs ∧ m.journalDies ≠ [] ∧ k.journalDies = [] ∧
      (up.advance 1).journalPrune.ybk.images = [] := by decide +kernel

theorem wit_step : ({ State.reset with pending := [Instr.kUpdate] } : State).pending = [Instr.kUpdate] := by decide +kernel

theorem wit_emptyQueue : State.reset.pending = [] ∧ State.reset.m.awake = false ∧ up.awake = true := by decide +kernel

theorem wit_legal : State.reset.cfg.Legal := by constructor <;> simp [State.reset, Cfg.reset, Tbl.Legal, Tbl.wf, Tbl.wfFrom]

theorem wit_standalone : up.hitch.role = 0 := by decide +kernel

def upSteal : Mach := up.setTine 1 { Tine.init with l2 := [tMedia, tMedia] }
theorem wit_stolen : ((nextOf (exec (.steal 0 4) (st upSteal))).map fun t => (t.m.tine 0).running) = some (some (tMedia.leave 4)) ∧
    (upSteal.tine 0).running = none := by decide +kernel

theorem wit_postFrame : upQ.plots.bmeOff.contains 0 = false := by decide +kernel

end Sys2Proof.Tests
end

/-! # Writes of CC in BAR0: enable, controller reset and shutdown (15 R620, R621; 04 R200, R202) -/

namespace Sys2Proof.Machine

/-! ## CONTROLLER_ENABLE (15 R621) -/

section
variable (s : State) (port p : Nat) (cc aqa : Word) (asq acq : Nat)

theorem exec_controllerEnable_eq :
    exec (.controllerEnable port p cc aqa asq acq) s = execControllerEnable port p cc aqa asq acq s := rfl

/-- BAR0 of the plot after the write of the enable: no reserved bit is kept (15 R620). -/
def Mach.writeEnable (p : Nat) (cc aqa : Word) (asq acq : Nat) (m : Mach) : Mach :=
  m.updBar0 p fun b =>
    { b with cc := (cc &&& ccMask) ||| 1, aqa := aqa &&& aqaMask, asq := asq / 4096 * 4096, acq := acq / 4096 * 4096 }

variable {s port p cc aqa asq acq}

theorem controllerEnable_ignored (h : s.m.barTakes port p = false ∨ (s.m.bar0 p).en = true) :
    exec (.controllerEnable port p cc aqa asq acq) s = .next s := by
  rw [exec_controllerEnable_eq, execControllerEnable, State.on, if_pos (by simpa using h)]

theorem controllerEnable_supported (ht : s.m.barTakes port p = true) (he : (s.m.bar0 p).en = false) (hc : ccOk cc = true) :
    exec (.controllerEnable port p cc aqa asq acq) s = .next (s.withM
      (((s.m.writeEnable p cc aqa asq acq).adminQueues p).updBar0 p fun b => { b with rdy := s.m.inService })) := by
  rw [exec_controllerEnable_eq, execControllerEnable, State.on, if_neg (by simp [ht, he]), if_neg (by simp [hc])]
  rfl

theorem controllerEnable_unsupported (ht : s.m.barTakes port p = true) (he : (s.m.bar0 p).en = false) (hc : ccOk cc = false) :
    exec (.controllerEnable port p cc aqa asq acq) s = .next (s.withM
      ((s.m.writeEnable p cc aqa asq acq).updBar0 p fun b => { b with rdy := false, cfs := true })) := by
  rw [exec_controllerEnable_eq, execControllerEnable, State.on, if_neg (by simp [ht, he]), if_pos (by simp [hc])]
  rfl

end

/-! ## CONTROLLER_RESET (04 R200) -/

section
variable (s : State) (m : Mach) (at_ : Nat)

theorem exec_controllerReset_eq : exec (.controllerReset at_) s = execControllerReset at_ s := rfl

/-- The reset clears the fatal status after everything else of its domain; its own event leaves it clear (01 R64). -/
@[simp] theorem Mach.controllerReset_fatal : m.controllerReset.hub.fatal = false := by
  simp only [Mach.controllerReset, Mach.record_hub_fatal, Mach.onHeat_hub, Mach.onHub_hub]

/-- The reset leaves no command in flight, committed or not (04 R200). -/
@[simp] theorem Mach.controllerReset_inflight : m.controllerReset.front.inflight = [] := by
  simp only [Mach.controllerReset, Mach.record_front, Mach.onHeat_front, Mach.onHub_front, Mach.onFront_front]

@[simp] theorem Mach.controllerReset_locks : m.controllerReset.front.locks = [] := by
  simp only [Mach.controllerReset, Mach.record_front, Mach.onHeat_front, Mach.onHub_front, Mach.onFront_front]

variable {s at_}

theorem controllerReset_ignored (h : (s.m.advance at_).barUp 0 = false ∨ ((s.m.advance at_).bar0 0).en = false) :
    exec (.controllerReset at_) s = .next (s.withM (s.m.advance at_)) := by
  rw [exec_controllerReset_eq, execControllerReset, State.on, if_pos (by simpa using h)]
  rfl

theorem controllerReset_taken (hu : (s.m.advance at_).barUp 0 = true) (he : ((s.m.advance at_).bar0 0).en = true) :
    exec (.controllerReset at_) s = .next (s.withM (s.m.advance at_).controllerReset) := by
  rw [exec_controllerReset_eq, execControllerReset, State.on, if_neg (by simp [hu, he])]
  rfl

end

/-! ## SHUTDOWN_NORMAL and SHUTDOWN_ABRUPT (04 R202) -/

section
variable (s : State) (port p at_ : Nat)

theorem exec_shutdownNormal_eq : exec (.shutdownNormal port p at_) s = execShutdownNormal port p at_ s := rfl
theorem exec_shutdownAbrupt_eq : exec (.shutdownAbrupt port p at_) s = execShutdownAbrupt port p at_ s := rfl

variable {s port p at_}

theorem shutdownNormal_ignored (h : (s.m.advance at_).barTakes port p = false ∨ (s.m.advance at_).inService = false) :
    exec (.shutdownNormal port p at_) s = .next (s.withM (s.m.advance at_)) := by
  rw [exec_shutdownNormal_eq, execShutdownNormal, State.on, if_pos (by simpa using h)]
  rfl

theorem shutdownAbrupt_ignored (h : (s.m.advance at_).barTakes port p = false ∨ (s.m.advance at_).inService = false) :
    exec (.shutdownAbrupt port p at_) s = .next (s.withM (s.m.advance at_)) := by
  rw [exec_shutdownAbrupt_eq, execShutdownAbrupt, State.on, if_pos (by simpa using h)]
  rfl

theorem shutdownNormal_taken (ht : (s.m.advance at_).barTakes port p = true) (hs : (s.m.advance at_).inService = true) :
    exec (.shutdownNormal port p at_) s = .next (s.withM ((s.m.advance at_).shutdown p 1)) := by
  rw [exec_shutdownNormal_eq, execShutdownNormal, State.on, if_neg (by simp [ht, hs])]
  rfl

theorem shutdownAbrupt_taken (ht : (s.m.advance at_).barTakes port p = true) (hs : (s.m.advance at_).inService = true) :
    exec (.shutdownAbrupt port p at_) s = .next (s.withM
      (((s.m.advance at_).discardWhere fun c => c.plot == p).shutdown p 2)) := by
  rw [exec_shutdownAbrupt_eq, execShutdownAbrupt, State.on, if_neg (by simp [ht, hs])]
  rfl

end

/-- Settles O44: each command is ignored where its guard fails, and otherwise ends in the state of its own lemma above; what
the controller reset clears is read off its last updates. -/
theorem enableAndShutdownCommandsComplete : Obligations.EnableAndShutdownCommandsComplete := by
  refine ⟨fun s port p cc aqa asq acq => ?enable, fun s at_ => ?reset, fun s port p at_ => ?shutdown⟩
  case enable =>
    exact ⟨controllerEnable_ignored, fun ht he =>
      ⟨controllerEnable_supported ht he, controllerEnable_unsupported ht he⟩⟩
  case reset =>
    exact ⟨controllerReset_ignored, fun hu he =>
      ⟨controllerReset_taken hu he, Mach.controllerReset_fatal _, Mach.controllerReset_inflight _, Mach.controllerReset_locks _⟩⟩
  case shutdown =>
    exact ⟨fun h => ⟨shutdownNormal_ignored h, shutdownAbrupt_ignored h⟩, fun ht hs =>
      ⟨shutdownNormal_taken ht hs, shutdownAbrupt_taken ht hs⟩⟩

end Sys2Proof.Machine

/-! # The posting of completions (01 R32, R33; 04 R202, R204) -/

namespace Sys2Proof.Machine

theorem State.on_eq_withM (s : State) (f : Cfg → Mach → Mach) : s.on f = s.withM (f s.cfg s.m) := rfl

/-! ## What keeps the completions written to host memory

`Front.out` holds them. Every operation that a posting uses, but for the write of the completion itself, keeps them. -/

section
variable (m : Mach)

@[simp] theorem Mach.updCmd_out (n : Nat) (f : Cmd → Cmd) : (m.updCmd n f).front.out = m.front.out := rfl
@[simp] theorem Mach.updSq_out (p q : Nat) (f : Sq → Sq) : (m.updSq p q f).front.out = m.front.out := rfl
@[simp] theorem Mach.updCq_out (p q : Nat) (f : Cq → Cq) : (m.updCq p q f).front.out = m.front.out := rfl
@[simp] theorem Mach.updBar0_out (p : Nat) (f : Bar0 → Bar0) : (m.updBar0 p f).front.out = m.front.out := rfl
@[simp] theorem Mach.finish_out (n : Nat) (st : Status) (w : Word) : (m.finish n st w).front.out = m.front.out := rfl
@[simp] theorem Mach.succeed_out (n : Nat) : (m.succeed n).front.out = m.front.out := rfl
@[simp] theorem Mach.failWith_out (n : Nat) (st : Status) : (m.failWith n st).front.out = m.front.out := rfl
@[simp] theorem Mach.releaseLocks_out (n : Nat) : (m.releaseLocks n).front.out = m.front.out := rfl
@[simp] theorem Mach.unstage_front (n : Nat) : (m.unstage n).front = m.front := rfl
@[simp] theorem Mach.dropWork_front (n : Nat) : (m.dropWork n).front = m.front := rfl
@[simp] theorem Mach.cancelFwd_front (f : Fwd) (r : Nat) : (m.cancelFwd f r).front = m.front := rfl
@[simp] theorem Mach.saveHub_front (k : Nat) : (m.saveHub k).front = m.front := rfl
@[simp] theorem Mach.dumpOpen_front (l : List Nat) : (m.dumpOpen l).front = m.front := rfl

@[simp] theorem Mach.descClose_front (g : Nat) (x : Desc) (code index : Nat) : (m.descClose g x code index).front = m.front := by
  simp only [Mach.descClose, apply_ite Mach.front, Mach.record_front, Mach.hubInt_front, Mach.updGroup_front, ite_self]

@[simp] theorem Mach.squashDescs_front (n : Nat) : (m.squashDescs n).front = m.front := by
  unfold Mach.squashDescs
  split
  · rfl
  · refine foldl_keeps Mach.front _ (fun b e => ?_) _ _
    rw [Mach.updGroup_front]
    exact foldl_keeps Mach.front _ (fun b d => Mach.descClose_front b ..) _ _

@[simp] theorem Mach.failAdmission_out (c : Cmd) : (m.failAdmission c).front.out = m.front.out := by
  unfold Mach.failAdmission
  split
  · rfl
  · rw [Mach.updZone_front]
    exact foldl_keeps (fun b : Mach => b.front.out) _ (fun b k => by simp) _ _

@[simp] theorem Mach.unmark_out (c : Cmd) : (m.unmark c).front.out = m.front.out := by
  unfold Mach.unmark
  split
  · rfl
  · split <;> rfl

@[simp] theorem Mach.squash_out (n : Nat) (st : Option Status) : (m.squash n st).front.out = m.front.out := by
  unfold Mach.squash
  split
  · rfl
  · split
    · rfl
    · cases st <;> split <;> simp [apply_ite (fun b : Mach => b.front.out)]

@[simp] theorem Mach.discardWhere_out (p : Cmd → Bool) : (m.discardWhere p).front.out = m.front.out := by
  have hs := foldl_keeps (fun b : Mach => b.front.out) (fun b (c : Cmd) => b.squash c.stamp none)
    (fun b c => b.squash_out c.stamp none) (m.front.inflight.filter p) m
  refine Eq.trans ?_ hs
  exact foldl_keeps (fun b : Mach => b.front.out) (fun b (c : Cmd) => if b.liveDescs c.stamp then b else b.releaseLocks c.stamp)
    (fun b c => by split <;> rfl) (m.front.inflight.filter p) _

@[simp] theorem Mach.failFreeze_out (p : Nat) : (m.failFreeze p).front.out = m.front.out := by
  unfold Mach.failFreeze
  split <;> rfl

@[simp] theorem Mach.plotError_out (p cause : Nat) : (m.plotError p cause).front.out = m.front.out := by
  simp [Mach.plotError, apply_ite Mach.front, apply_ite Front.out]

@[simp] theorem Mach.enterFatal_out (bit : Nat) : (m.enterFatal bit).front.out = m.front.out := by
  simp [Mach.enterFatal, apply_ite Mach.front, apply_ite Front.out]

@[simp] theorem Mach.raise_out (p : Nat) (q : Cq) : (m.raise p q).front.out = m.front.out := by
  simp [Mach.raise, apply_ite Mach.front, apply_ite Front.out]

@[simp] theorem Mach.noteTight_front (c : Cmd) : (m.noteTight c).front = m.front := by
  unfold Mach.noteTight
  split
  · rfl
  · simp [apply_ite Mach.front]

@[simp] theorem Mach.tryDeleteSq_out (p q : Nat) : (m.tryDeleteSq p q).front.out = m.front.out := by
  simp only [Mach.tryDeleteSq]
  split
  · split <;> simp
  · rfl

@[simp] theorem Mach.shutdownStep_out (p : Nat) : (m.shutdownStep p).front.out = m.front.out := by
  simp [Mach.shutdownStep, apply_ite Mach.front, apply_ite Front.out]

/-! ## The completion that is written -/

/-- The completion of a command as the sequencer writes it (01 R32). -/
def Mach.cplOf (c : Cmd) (m : Mach) : Cpl :=
  { stamp := c.stamp, plot := c.plot, sq := c.sq, cq := c.cq, cid := c.sqe.cid, status := c.status, dw0 := c.dw0, dw1 := c.dw1,
    sqhd := (m.sq c.plot c.sq).head, phase := (m.cq c.plot c.cq).phase, data := c.outData, blocks := c.outBlocks }

theorem Mach.postCpl_out (c : Cmd) : (m.postCpl c).front.out = m.front.out ++ [m.cplOf c] := by
  simp [Mach.postCpl, Mach.cplOf]

end

/-! ## COMPLETION_POST -/

section
variable (s : State) (plot qid at_ : Nat) (sramUe : Bool)

theorem exec_completionPost_eq :
    exec (.completionPost plot qid sramUe at_) s = execCompletionPost plot qid sramUe at_ s := rfl

/-- The command whose completion is the next one of a submission queue, once it has finished (01 R32). -/
def Mach.nextToPost (plot qid : Nat) (m : Mach) : Option Cmd :=
  m.front.inflight.find? fun c => c.plot == plot && c.sq == qid && c.seq == (m.sq plot qid).posted && c.stage == .finished

theorem Mach.nextToPost_some {m : Mach} {plot qid : Nat} {c : Cmd} (h : m.nextToPost plot qid = some c) :
    c ∈ m.front.inflight ∧ c.plot = plot ∧ c.sq = qid ∧ c.seq = (m.sq plot qid).posted ∧ c.stage = .finished := by
  have hp := List.find?_some h
  simp only [Bool.and_eq_true, beq_iff_eq] at hp
  obtain ⟨⟨⟨hplot, hsq⟩, hseq⟩, hstage⟩ := hp
  exact ⟨List.mem_of_find?_eq_some h, hplot, hsq, hseq, hstage⟩

variable {s plot qid at_ sramUe}

/-- What COMPLETION_POST can do to the completions written: nothing, or the posting of the queue's next command. -/
theorem completionPost_out {t : State} (h : exec (.completionPost plot qid sramUe at_) s = .next t) :
    t.m.front.out = s.m.front.out ∨
    ∃ c, s.m.nextToPost plot qid = some c ∧ t.m.front.out = s.m.front.out ++ [s.m.cplOf c] := by
  rw [exec_completionPost_eq, execCompletionPost] at h
  injection h with h
  subst h
  simp only [State.on_m]
  split
  · exact .inl (Mach.enterFatal_out ..)
  split
  · exact .inl rfl
  split
  · exact .inl rfl
  next c hc =>
    split
    · exact .inl (Mach.plotError_out ..)
    split
    · exact .inr ⟨c, hc, Mach.postCpl_out ..⟩
    · exact .inl rfl

end

/-- Settles O6: of the cases of a posting only the write of the completion adds to `Front.out`, and its command is the one that the
search for the queue's next number found. -/
theorem postingFollowsSequenceOrder : Obligations.PostingFollowsSequenceOrder := by
  intro s t plot qid at_ sramUe h
  obtain hkept | ⟨c, hc, hout⟩ := completionPost_out h
  · exact .inl hkept
  · obtain ⟨hmem, hplot, hsq, hseq, hstage⟩ := Mach.nextToPost_some hc
    exact .inr ⟨c, hmem, _, hout, hplot, hsq, hseq, hstage, rfl, hplot, hsq, rfl, rfl, rfl, rfl⟩

end Sys2Proof.Machine

/-! # Tines: taking, promotion, steals and the end of a task (01 R15 to R28) -/

namespace Sys2Proof.Machine

/-! ## Age promotion (01 R17, R20) -/

section

/-- The task has waited in its lane longer than the lane's bound (01 R17). -/
def Task.overAge (now : Nat) (k : Task) : Bool := decide (k.since + ageBound k.lane * Config.edgesPerUs < now)

/-- Tasks in the order in which they passed their age bounds. -/
def ageSort (l : List Task) : List Task := l.foldl (fun acc k => ageInsert k acc) []

/-- The tasks of lanes 1 to 3 that a promotion moves, in the order in which they go to lane 0. -/
def Tine.risen (now : Nat) (x : Tine) : List Task := ageSort ((x.l1 ++ x.l2 ++ x.l3).filter (Task.overAge now))

theorem Tine.promote_eq (now : Nat) (x : Tine) :
    x.promote now = { x with l0 := x.l0 ++ (x.risen now).map (fun k => { k with lane := 0 }),
                             l1 := x.l1.filter (fun k => !k.overAge now), l2 := x.l2.filter (fun k => !k.overAge now),
                             l3 := x.l3.filter (fun k => !k.overAge now) } := rfl

theorem ageInsert_perm (k : Task) : ∀ l : List Task, (ageInsert k l).Perm (k :: l)
  | [] => .refl _
  | x :: t => by
    unfold ageInsert
    split
    · exact .refl _
    · exact ((ageInsert_perm k t).cons x).trans (.swap k x t)

theorem foldl_ageInsert_perm : ∀ l acc : List Task, (l.foldl (fun acc k => ageInsert k acc) acc).Perm (l ++ acc)
  | [], _ => .refl _
  | k :: l, acc =>
    (foldl_ageInsert_perm l (ageInsert k acc)).trans (((ageInsert_perm k acc).append_left l).trans List.perm_middle)

theorem ageSort_perm (l : List Task) : (ageSort l).Perm l := by
  simpa [ageSort] using foldl_ageInsert_perm l []

theorem Tine.mem_risen {now : Nat} {x : Tine} {k : Task} :
    k ∈ x.risen now ↔ k ∈ x.l1 ++ x.l2 ++ x.l3 ∧ k.overAge now = true := by
  rw [Tine.risen, (ageSort_perm _).mem_iff, List.mem_filter]

end

/-- Settles O55: what a promotion moves is a permutation of the over-age tasks, each with lane 0 in place of its own. -/
theorem promotedTasksKeepTheirClass : Obligations.PromotedTasksKeepTheirClass := by
  intro x now
  refine ⟨⟨(x.risen now).map fun k => { k with lane := 0 }, ?lane0, ?count, ?which, ?kept⟩, ?lanes⟩
  case lane0 => rw [Tine.promote_eq]
  case count => rw [List.length_map]; exact (ageSort_perm _).length_eq
  case which =>
    intro k
    simp only [List.mem_map, Tine.mem_risen, and_assoc, eq_comm (a := k)]
    rfl
  case kept =>
    intro k hk
    obtain ⟨j, hj, rfl⟩ := List.mem_map.mp hk
    exact ⟨j, (Tine.mem_risen.mp hj).1, rfl, rfl, rfl, rfl⟩
  case lanes => exact ⟨rfl, rfl, rfl, rfl, rfl⟩

/-! ## A task that starts runs -/

section

/-- A value other than the default is read back, whatever the form of the table. -/
theorem Tbl.get_put_of_ne {α : Type} [DecidableEq α] {d v : α} (hv : v ≠ d) (k : Nat) :
    ∀ t : Tbl α, Tbl.get d k (Tbl.put d k v t) = v
  | [] => by simp [Tbl.put, Tbl.get, hv]
  | (k', w) :: t => by
    unfold Tbl.put
    by_cases hlt : k < k'
    · simp [hlt, hv, Tbl.get]
    · by_cases heq : k = k'
      · simp [heq, hv, Tbl.get]
      · simp [hlt, heq, Tbl.get, Tbl.get_put_of_ne hv k t]

variable (m : Mach) (t : Nat) (k : Task)

theorem Mach.tine_startTask :
    (m.startTask t k).tine t = { m.tine t with running := some (k.leave m.clk.now), startAt := m.clk.now, startQ := m.clk.tineQ } :=
  Tbl.get_put_of_ne (fun h => by simpa [Tine.init] using congrArg Tine.running h) t m.tines

@[simp] theorem Mach.startTask_running : ((m.startTask t k).tine t).running = some (k.leave m.clk.now) := by
  rw [Mach.tine_startTask]

@[simp] theorem Mach.takeTail_running (v l : Nat) : ((m.takeTail t v l k).tine t).running = some (k.leave m.clk.now) :=
  Mach.startTask_running ..

end

/-! ## STEAL (01 R24 to R27) -/

section
variable (s : State) (tine at_ : Nat)

theorem exec_steal_eq : exec (.steal tine at_) s = execSteal tine at_ s := rfl

theorem Tine.stealLane_mem {x : Tine} {ok : Task → Bool} {l : Nat} {k : Task} (h : x.stealLane ok = some (l, k)) :
    k ∈ x.lane l := by
  obtain ⟨i, -, hi⟩ := List.exists_of_findSome?_eq_some h
  split at hi
  next j hj =>
    split at hi
    · obtain ⟨rfl, rfl⟩ : i = l ∧ j = k := by simpa using hi
      exact List.mem_of_getLast? hj
    · cases hi
  next => cases hi

theorem Mach.stealFrom_mem {m : Mach} {thief v l : Nat} {k : Task} (h : m.stealFrom thief = some (v, l, k)) :
    k ∈ (m.tine v).lane l := by
  obtain ⟨i, -, hi⟩ := List.exists_of_findSome?_eq_some h
  split at hi
  · cases hi
  · obtain ⟨⟨a, b⟩, hab, he⟩ := Option.map_eq_some_iff.mp hi
    obtain ⟨rfl, rfl, rfl⟩ : i = v ∧ a = l ∧ b = k := by simpa using he
    exact Tine.stealLane_mem hab

/-- What a steal can make of the machine: nothing, the take of a task that lies in a lane, or the start of the task that the dispatcher has
held longest. -/
def Mach.StealGives (thief : Nat) (m n : Mach) : Prop :=
  n = m ∨ (∃ v l k, k ∈ (m.tine v).lane l ∧ n = m.takeTail thief v l k) ∨
    ∃ k rest, m.disp = k :: rest ∧ n = ({ m with disp := rest } : Mach).startTask thief (k.enter m.clk.now)

theorem Mach.serveSteal_gives {queue : List Instr} {thief v l : Nat} {k : Task} {m : Mach} (hk : k ∈ (m.tine v).lane l) :
    m.StealGives thief (m.serveSteal queue thief v l k) := by
  unfold Mach.serveSteal
  split
  · exact .inl rfl
  · exact .inr (.inl ⟨v, l, k, hk, rfl⟩)

theorem Mach.serveSteal_takes {queue : List Instr} {thief v l : Nat} {k : Task} {m : Mach}
    (hs : (m.tine v).stolenAt ≠ m.clk.now + 1) (hr : queue.any (m.rival thief v l) = false) :
    m.serveSteal queue thief v l k = m.takeTail thief v l k := by
  rw [Mach.serveSteal, if_neg (by simp [hs, hr])]

variable {s tine at_}

theorem steal_gives {t : State} (h : exec (.steal tine at_) s = .next t) :
    ∃ n, (s.m.advanceOn .tine at_).StealGives tine n ∧ t = s.withM n := by
  rw [exec_steal_eq, execSteal, State.on_eq_withM] at h
  injection h with h
  refine ⟨_, ?_, h.symm⟩
  dsimp only
  split
  · exact .inl rfl
  split
  next v l k hv => exact Mach.serveSteal_gives (Mach.stealFrom_mem hv)
  next =>
    split
    next k rest hd => exact .inr (.inr ⟨k, rest, hd, rfl⟩)
    next =>
      split
      · exact .inl rfl
      next v _ =>
        split
        next l k hk => exact Mach.serveSteal_gives (Tine.stealLane_mem hk)
        next => exact .inl rfl

end

/-- Settles O56: where nothing was taken the thief still runs nothing; the two other outcomes start the task that they name. -/
theorem stolenTaskIsUnchanged : Obligations.StolenTaskIsUnchanged := by
  intro s t tine at_ k h hidle hrun m
  obtain ⟨n, hn, rfl⟩ := steal_gives h
  obtain rfl | ⟨v, l, j, hj, rfl⟩ | ⟨j, rest, hd, rfl⟩ := hn
  case inl =>
    rw [show ((s.withM (s.m.advanceOn .tine at_)).m.tine tine).running = none from hidle] at hrun
    cases hrun
  case inr.inl =>
    have hk : some (j.leave m.clk.now) = some k := (Mach.takeTail_running ..).symm.trans hrun
    exact ⟨.inl ⟨v, l, j, hj, (Option.some.inj hk).symm⟩, rfl, rfl⟩
  case inr.inr =>
    have hk : some ((j.enter m.clk.now).leave m.clk.now) = some k := (Mach.startTask_running ..).symm.trans hrun
    have hmem : j ∈ s.m.disp := by rw [show s.m.disp = j :: rest from hd]; exact List.mem_cons_self
    exact ⟨.inr ⟨j, hmem, (Option.some.inj hk).symm⟩, rfl, rfl⟩

/-! ## Where the commands of tines act -/

section
variable (s : State) (tine at_ : Nat) (sramUe : Bool)

theorem exec_takeTask_eq : exec (.takeTask tine sramUe at_) s = execTakeTask tine sramUe at_ s := rfl
theorem exec_agePromotion_eq : exec (.agePromotion at_) s = execAgePromotion at_ s := rfl

variable {s tine at_}

theorem takeTask_starts {l : Nat} {k : Task} {rest : List Task} :
    let m := (s.m.advanceOn .tine at_).offerRetries
    tine < m.nTines → m.tinesRun = true → m.tineOk tine = true → (m.tine tine).running = none →
    (m.tine tine).topLane = some l → (m.tine tine).lane l = k :: rest →
    exec (.takeTask tine false at_) s =
      .next (s.withM ((m.setTine tine ((m.tine tine).setLane l rest)).startTask tine k)) := by
  intro m hlt hruns hok hidle htop hlane
  rw [exec_takeTask_eq, execTakeTask, State.on_eq_withM, if_neg (by simp), if_neg (by simp [m, hlt, hruns, hok, hidle])]
  simp only [m, htop, hlane]

theorem takeTask_fences :
    let m := (s.m.advanceOn .tine at_).offerRetries
    tine < m.nTines → m.awake = true →
    exec (.takeTask tine true at_) s = .next (s.withM (m.fenceStart (tineAcre tine) 2)) := by
  intro m hlt hawake
  rw [exec_takeTask_eq, execTakeTask, State.on_eq_withM, if_pos (by simp [m, hlt, hawake])]

section
variable (h : (s.m.advanceOn .tine at_).mayThieve tine = true)
include h

theorem steal_takes_found {v l : Nat} {k : Task} (hfrom : (s.m.advanceOn .tine at_).stealFrom tine = some (v, l, k))
    (hs : ((s.m.advanceOn .tine at_).tine v).stolenAt ≠ (s.m.advanceOn .tine at_).clk.now + 1)
    (hr : s.pending.any ((s.m.advanceOn .tine at_).rival tine v l) = false) :
    exec (.steal tine at_) s = .next (s.withM ((s.m.advanceOn .tine at_).takeTail tine v l k)) := by
  rw [exec_steal_eq, execSteal, State.on_eq_withM, if_neg (by simp [h])]
  simp only [hfrom, Mach.serveSteal_takes hs hr]

theorem steal_takes_held {k : Task} {rest : List Task} (hfrom : (s.m.advanceOn .tine at_).stealFrom tine = none)
    (hd : (s.m.advanceOn .tine at_).disp = k :: rest) :
    exec (.steal tine at_) s = .next (s.withM
      (({ s.m.advanceOn .tine at_ with disp := rest } : Mach).startTask tine (k.enter (s.m.advanceOn .tine at_).clk.now))) := by
  rw [exec_steal_eq, execSteal, State.on_eq_withM, if_neg (by simp [h])]
  simp only [hfrom, hd]

theorem steal_takes_mostLoaded {v l : Nat} {k : Task} (hfrom : (s.m.advanceOn .tine at_).stealFrom tine = none)
    (hd : (s.m.advanceOn .tine at_).disp = []) (hmost : (s.m.advanceOn .tine at_).mostLoaded = some v)
    (hlane : ((s.m.advanceOn .tine at_).tine v).stealLane (fun k => k.kind = .frontEnd) = some (l, k))
    (hs : ((s.m.advanceOn .tine at_).tine v).stolenAt ≠ (s.m.advanceOn .tine at_).clk.now + 1)
    (hr : s.pending.any ((s.m.advanceOn .tine at_).rival tine v l) = false) :
    exec (.steal tine at_) s = .next (s.withM ((s.m.advanceOn .tine at_).takeTail tine v l k)) := by
  rw [exec_steal_eq, execSteal, State.on_eq_withM, if_neg (by simp [h])]
  simp only [hfrom, hd, hmost, hlane, Mach.serveSteal_takes hs hr]

end

end

/-! ## TASK_END (01 R15) -/

section
variable (s : State) (tine stamp : Nat) (k : Task)

theorem exec_taskEnd_eq : exec (.taskEnd tine) s = execTaskEnd tine s := rfl

theorem ite_next {c : Prop} [Decidable c] {a b : Host.Outcome State Fault Refusal} (ha : ∃ t, a = .next t) (hb : ∃ t, b = .next t) :
    ∃ t, (if c then a else b) = .next t := by
  split
  · exact ha
  · exact hb

theorem execSetFeaturesFurrowGrid_next : ∃ t, execSetFeaturesFurrowGrid stamp s = .next t := by
  unfold execSetFeaturesFurrowGrid
  split <;> exact ⟨_, rfl⟩

theorem State.endFeature_next (fid : Nat) : ∃ t, s.endFeature stamp fid = .next t := by
  unfold State.endFeature
  split
  case h_4 => exact execSetFeaturesFurrowGrid_next s stamp
  all_goals exact ⟨_, rfl⟩

theorem State.endLog_next (lid : Nat) : ∃ t, s.endLog stamp lid = .next t := by
  unfold State.endLog
  split <;> exact ⟨_, rfl⟩

theorem State.endCommit_next (action : Nat) : ∃ t, s.endCommit stamp action = .next t := by
  unfold State.endCommit
  split <;> exact ⟨_, rfl⟩

theorem State.endHitch_next (action : Nat) : ∃ t, s.endHitch stamp action = .next t := by
  unfold State.endHitch
  split <;> exact ⟨_, rfl⟩

/-- Every row of an admin command answers a next state. The cases set apart choose a row by a field of the command. -/
theorem State.endAdmin_next (c : Cmd) : ∃ t, s.endAdmin c = .next t := by
  unfold State.endAdmin
  split
  case h_3 => exact s.endLog_next ..
  case h_8 => exact s.endFeature_next ..
  case h_12 => exact s.endCommit_next ..
  case h_22 => exact s.endHitch_next ..
  case h_11 | h_15 | h_19 | h_21 => exact ite_next ⟨_, rfl⟩ ⟨_, rfl⟩
  all_goals exact ⟨_, rfl⟩

theorem Mach.freeTine_med (m : Mach) : (m.freeTine tine k).med = m.med := by
  unfold Mach.freeTine
  split
  · simp [apply_ite Mach.med]
  · rfl

theorem Mach.freeTine_ladder? (m : Mach) (id : Nat) : (m.freeTine tine k).ladder? id = m.ladder? id := by
  rw [Mach.ladder?, Mach.freeTine_med, Mach.ladder?]

/-- The tine may end its task: it is one of the part's, it runs, and it is healthy. -/
def Mach.mayEnd (tine : Nat) (m : Mach) : Prop := tine < m.nTines ∧ m.tinesRun = true ∧ m.tineOk tine = true

variable {s tine k}

theorem Mach.mayEnd.guard {m : Mach} (h : m.mayEnd tine) :
    ¬(!decide (tine < m.nTines) || !m.tinesRun || !m.tineOk tine) = true := by
  obtain ⟨hlt, hruns, hok⟩ := h
  simp [hlt, hruns, hok]

section
variable (h : s.m.mayEnd tine) (hrun : (s.m.tine tine).running = some k)
include h hrun

theorem taskEnd_media (hk : k.kind = .media) :
    exec (.taskEnd tine) s = .next (s.withM ((s.m.freeTine tine k).postWant k.req)) := by
  rw [exec_taskEnd_eq, execTaskEnd, if_neg h.guard]
  simp only [hrun, hk]
  rfl

theorem taskEnd_io {c : Cmd} (hk : k.kind = .frontEnd) (hc : (s.m.freeTine tine k).cmd? k.stamp = some c) (hq : c.sq ≠ 0) :
    exec (.taskEnd tine) s = .next (s.withM
      ((s.m.freeTine tine k).ioRow s.cfg c.stamp (s.m.freeTine tine k).clk.now fun _ => true)) := by
  rw [exec_taskEnd_eq, execTaskEnd, if_neg h.guard]
  simp only [hrun, hk, State.on_m, hc, if_neg hq]
  rfl

theorem taskEnd_admin {c : Cmd} (hk : k.kind = .frontEnd) (hc : (s.m.freeTine tine k).cmd? k.stamp = some c) (hq : c.sq = 0) :
    exec (.taskEnd tine) s = (s.withM (s.m.freeTine tine k)).endAdmin c := by
  rw [exec_taskEnd_eq, execTaskEnd, if_neg h.guard]
  simp only [hrun, hk, State.on_m, hc, if_pos hq]
  rfl

theorem taskEnd_zone (hk : k.kind = .zone) :
    let f := s.m.freeTine tine k
    exec (.taskEnd tine) s = .next (s.withM
      (if k.stamp ≠ 0 then (f.zoneEnd s.cfg k.stamp).controlWrite k.scope
       else if k.req ≠ 0 then (f.eraseDone k.die (k.req - 1)).controlWrite k.scope
       else f.hubWrite)) := by
  rw [exec_taskEnd_eq, execTaskEnd, if_neg h.guard]
  simp only [hrun, hk]
  rfl

theorem taskEnd_fold {key : Nat × Nat × Nat × Nat} (hk : k.kind = .codec) (hu : k.unit_ = some key) :
    exec (.taskEnd tine) s = .next (s.withM (((s.m.freeTine tine k).foldDram key).foldDone key)) := by
  rw [exec_taskEnd_eq, execTaskEnd, if_neg h.guard]
  simp only [hrun, hk, hu]
  rfl

theorem taskEnd_rung {l : Ladder} (hk : k.kind = .codec) (hu : k.unit_ = none) (hl : s.m.ladder? k.req = some l)
    (hres : l.res.isSome = true) :
    exec (.taskEnd tine) s = .next (s.withM ((s.m.freeTine tine k).codecEnd s.cfg k.req)) := by
  rw [exec_taskEnd_eq, execTaskEnd, if_neg h.guard]
  simp only [hrun, hk, hu, State.on_m, Mach.freeTine_ladder?, hl, if_pos hres]
  rfl

end

end

/-- Settles O3: one lemma for each way in which a command of a tine acts. -/
theorem tineCommandsComplete : Obligations.TineCommandsComplete := by
  refine ⟨fun s tine at_ l k rest => takeTask_starts, fun s tine at_ => takeTask_fences, fun s at_ => rfl,
    fun s tine at_ v l k h hfrom hs hr => steal_takes_found h hfrom hs hr,
    fun s tine at_ k rest h hfrom hd => steal_takes_held h hfrom hd,
    fun s tine at_ v l k h hfrom hd hmost hlane hs hr => steal_takes_mostLoaded h hfrom hd hmost hlane hs hr,
    fun s tine k hlt hruns hok hrun => ?ends⟩
  have h : s.m.mayEnd tine := ⟨hlt, hruns, hok⟩
  refine ⟨taskEnd_media h hrun, fun c => taskEnd_io h hrun, fun c hk hc hq => ?admin, taskEnd_zone h hrun,
    fun key => taskEnd_fold h hrun, fun l => taskEnd_rung h hrun⟩
  case admin =>
    have he := taskEnd_admin h hrun hk hc hq
    exact ⟨he, he ▸ State.endAdmin_next ..⟩

end Sys2Proof.Machine

/-! # Faults of tines and acres, and what is fatal (01 R41 to R70) -/

namespace Sys2Proof.Machine

section
variable (s : State)

theorem exec_taskWatchdog_eq (tine at_ : Nat) : exec (.taskWatchdog tine at_) s = execTaskWatchdog tine at_ s := rfl
theorem exec_tineFault_eq (tine code : Nat) : exec (.tineFault tine code) s = execTineFault tine code s := rfl
theorem exec_salvageDone_eq (acre : Nat) (lost : List (Nat × Nat × Nat × Nat)) (ran : Bool) :
    exec (.salvageDone acre lost ran) s = execSalvageDone acre lost ran s := rfl
theorem exec_acreLinkFailure_eq (acre : Nat) (salvageable : Bool) :
    exec (.acreLinkFailure acre salvageable) s = execAcreLinkFailure acre salvageable s := rfl
theorem exec_acreSupplyOrClockFault_eq (acre : Nat) :
    exec (.acreSupplyOrClockFault acre) s = execAcreSupplyOrClockFault acre s := rfl
theorem exec_crossbarFailure_eq : exec .crossbarFailure s = execCrossbarFailure s := rfl
theorem exec_mcoreWatchdog_eq (core at_ : Nat) : exec (.mcoreWatchdog core at_) s = execMcoreWatchdog core at_ s := rfl
theorem exec_lateArrival_eq (late : Nat) : exec (.lateArrival late) s = .next (s.withM (s.m.record 0x0120 late 0)) := rfl

variable {s}

/-! ## Tines (01 R41) -/

theorem taskWatchdog_faults {tine at_ : Nat} :
    let m := s.m.advanceOn .tine at_
    tine < m.nTines → m.tineOk tine = true → m.taskOverdue tine = true →
    exec (.taskWatchdog tine at_) s = .next (s.withM (m.tineFault tine 1)) := by
  intro m hlt hok hover
  rw [exec_taskWatchdog_eq, execTaskWatchdog, State.on_eq_withM, if_pos (by simp [m, hlt, hok, hover])]

theorem tineFault_faults {tine code : Nat} (hlt : tine < s.m.nTines) (hok : s.m.tineOk tine = true) (h1 : 1 ≤ code) (h5 : code ≤ 5) :
    exec (.tineFault tine code) s = .next (s.withM (s.m.tineFault tine code)) := by
  rw [exec_tineFault_eq, execTineFault, State.on_eq_withM, if_pos (by simp [hlt, hok, h1, h5])]

/-! ## Acres (01 R53, R54) -/

section
variable {acre : Nat}

theorem salvageDone_ends {lost : List (Nat × Nat × Nat × Nat)} (ran : Bool) (h : s.m.fencingA acre = true) :
    exec (.salvageDone acre lost ran) s = .next (s.withM
      (s.m.salvageEnds s.cfg acre (if ran then lost ++ s.m.hub.salvLost else s.m.unsalvaged acre) ran)) := by
  rw [exec_salvageDone_eq, execSalvageDone, State.on_eq_withM, if_neg (by simp [h])]

variable (hawake : s.m.awake = true) (hup : s.m.acreUp acre = true)
include hawake hup

theorem acreLinkFailure_fences (salvageable : Bool) :
    let m := s.m.fenceStart acre 3
    exec (.acreLinkFailure acre salvageable) s = .next (s.withM
      (if salvageable then m else m.salvageEnds s.cfg acre (m.unsalvaged acre) false)) := by
  rw [exec_acreLinkFailure_eq, execAcreLinkFailure, State.on_eq_withM, if_neg (by simp [hawake, hup])]

theorem acreSupplyOrClockFault_fences :
    exec (.acreSupplyOrClockFault acre) s = .next (s.withM (s.m.fenceStart acre 5)) := by
  rw [exec_acreSupplyOrClockFault_eq, execAcreSupplyOrClockFault, State.on_eq_withM, if_neg (by simp [hawake, hup])]

end

/-! ## The crossbar and the management cores (01 R61, R62) -/

theorem crossbarFailure_fatal (hawake : s.m.awake = true) : exec .crossbarFailure s = .next (s.withM (s.m.enterFatal 5)) := by
  rw [exec_crossbarFailure_eq, execCrossbarFailure, State.on_eq_withM, if_pos hawake]

theorem mcoreWatchdog_restarts {core at_ : Nat} :
    let m := s.m.advance at_
    core < 4 → m.awake = true →
    let n := (m.onHub fun h => { h with mcoreAt := [m.clk.now], restarts := h.restarts + 1 }).record 0x0150 core 0
    exec (.mcoreWatchdog core at_) s = .next (s.withM
      (if m.hub.mcoreAt.any (fun t => decide (m.clk.now - t ≤ 60 * Config.edgesPerSec)) then n.enterFatal 1 else n)) := by
  intro m hcore hawake n
  rw [exec_mcoreWatchdog_eq, execMcoreWatchdog, State.on_eq_withM, if_neg (by simp [m, hawake, hcore])]

end

/-- Settles O4: one lemma for each fault. -/
theorem tineAndAcreFaultsComplete : Obligations.TineAndAcreFaultsComplete := by
  refine ⟨?watchdog, ?fault, ?salvage, ?link, ?linkLost, ?supply, ?crossbar, ?core, ?late⟩
  case watchdog => exact fun _ _ _ => taskWatchdog_faults
  case fault => exact fun _ _ _ => tineFault_faults
  case salvage => exact fun _ _ _ h => ⟨salvageDone_ends true h, salvageDone_ends false h⟩
  case link => exact fun _ _ hawake hup => acreLinkFailure_fences hawake hup true
  case linkLost => exact fun _ _ hawake hup => by rw [acreLinkFailure_fences hawake hup, if_neg Bool.false_ne_true]
  case supply => exact fun _ _ => acreSupplyOrClockFault_fences
  case crossbar => exact fun _ => crossbarFailure_fatal
  case core => exact fun _ _ _ => mcoreWatchdog_restarts
  case late => exact exec_lateArrival_eq

/-- Settles O54: the hub's own occurrences are never dropped. -/
theorem lateArrivalCompletesNothing : Obligations.LateArrivalCompletesNothing := fun s late => by
  rw [exec_lateArrival_eq, Mach.record_hub]

end Sys2Proof.Machine

/-! # Ends of commands, doorbells and events of the hub (01 R32, R36; 04 R175, R176, R191; 15 R622, R640) -/

namespace Sys2Proof.Machine

section
variable (s : State)

theorem exec_commandFinished_eq (stamp : Nat) : exec (.commandFinished stamp) s = execCommandFinished stamp s := rfl
theorem exec_sqTailDoorbell_eq (port plot qid value : Nat) (be : BitVec 4) :
    exec (.sqTailDoorbell port plot qid value be) s = execSqTailDoorbell port plot qid value be s := rfl
theorem exec_cqHeadDoorbell_eq (port plot qid value : Nat) (be : BitVec 4) :
    exec (.cqHeadDoorbell port plot qid value be) s = execCqHeadDoorbell port plot qid value be s := rfl
theorem exec_vendorEventPost_eq : exec .vendorEventPost s = execVendorEventPost s := rfl

theorem Mach.countRead_recv? (plot bytes stamp : Nat) (m : Mach) : (m.countRead plot bytes).recv? stamp = m.recv? stamp := rfl

variable {s}

/-! ## COMMAND_FINISHED (01 R36, 04 R191) -/

section
variable {stamp : Nat}

theorem commandFinished_host {c : Cmd} (hc : s.m.cmd? stamp = some c) (hdone : c.stage = .done)
    (hr : (s.m.recv? stamp).isSome = false) :
    let n := if c.status = Status.ok ∧ c.sq ≠ 0 ∧ c.sqe.opc = 0x02 then s.m.countRead c.plot (4096 * c.sqe.nlb) else s.m
    let m := ((n.releaseLocks stamp).updCmd stamp fun k => { k with stage := .finished }).updSq c.plot c.sq
      fun x => { x with flushStamp := if x.flushStamp = stamp then 0 else x.flushStamp }
    exec (.commandFinished stamp) s = .next (s.withM
      (if (m.plot c.plot).st = .freezing ∧ c.caught = false then m.updPlot c.plot fun p => { p with frzDone := p.frzDone + 1 }
       else m)) := by
  have hr' : s.m.recv? stamp = none := by simpa using hr
  have hcount : (c.stage = .done ∧ c.status = Status.ok ∧ c.sq ≠ 0 ∧ c.sqe.opc = 0x02 ∧ (s.m.recv? stamp).isNone) ↔
      (c.status = Status.ok ∧ c.sq ≠ 0 ∧ c.sqe.opc = 0x02) := by simp [hdone, hr']
  rw [exec_commandFinished_eq, execCommandFinished, State.on_eq_withM, hc]
  simp only [hcount]
  rw [if_neg (by simp [hdone]), if_neg (by split <;> simp [Mach.countRead_recv?, hr'])]

theorem commandFinished_worker {c : Cmd} (hc : s.m.cmd? stamp = some c) (hdone : c.stage = .done)
    (hr : (s.m.recv? stamp).isSome = true) :
    exec (.commandFinished stamp) s = .next (s.withM (s.m.workerDone c)) := by
  rw [exec_commandFinished_eq, execCommandFinished, State.on_eq_withM, hc]
  have hcount : ¬(c.stage = .done ∧ c.status = Status.ok ∧ c.sq ≠ 0 ∧ c.sqe.opc = 0x02 ∧ (s.m.recv? stamp).isNone) :=
    fun ⟨_, _, _, _, hnone⟩ => by simp [Option.isNone_iff_eq_none.mp hnone] at hr
  simp only [if_neg hcount]
  rw [if_neg (by simp [hdone]), if_pos hr]

theorem commandFinished_outOfOrder (hc : s.m.cmd? stamp = none) (hawake : s.m.awake = true) (hrole : s.m.hitch.role ≠ 2)
    (hout : stamp = 0 ∨ s.m.front.nextStamp ≤ stamp ∨ s.m.front.out.any (fun x => x.stamp == stamp) = true) :
    exec (.commandFinished stamp) s = .next (s.withM (s.m.enterFatal 3)) := by
  rw [exec_commandFinished_eq, execCommandFinished, State.on_eq_withM, hc]
  dsimp only
  rw [if_pos (by simpa [hawake, hrole, or_assoc] using hout)]

end

/-! ## COMPLETION_POST (01 R32, R62; 04 R175; 09 R431) -/

section
variable {plot qid at_ : Nat}

/-- A queue's completion may be posted: nothing is fatal, the plot's completions are posted, and the queue exists. -/
def Mach.postsFor (plot qid : Nat) (m : Mach) : Prop :=
  m.hub.fatal = false ∧ ((m.plot plot).st = .ready ∨ (m.plot plot).st = .freezing ∨ (m.plot plot).st = .frozen) ∧
    (m.sq plot qid).size ≠ 0

theorem Mach.postsFor.guard {m : Mach} (h : m.postsFor plot qid) :
    ¬(m.hub.fatal || !((m.plot plot).st == .ready || (m.plot plot).st == .freezing || (m.plot plot).st == .frozen) ||
      decide ((m.sq plot qid).size = 0)) = true := by
  obtain ⟨hfatal, hst, hsize⟩ := h
  obtain hst | hst | hst := hst <;> simp [hfatal, hst, hsize]

theorem completionPost_next {c : Cmd} (h : (s.m.advance at_).postsFor plot qid) (hc : (s.m.advance at_).nextToPost plot qid = some c) :
    let m := s.m.advance at_
    exec (.completionPost plot qid false at_) s = .next (s.withM
      (if m.plots.bmeOff.contains plot then m.plotError plot 4
       else if (m.cq plot c.cq).hasRoom then (m.advance (m.sq plot qid).nextPost).postCpl c
       else m)) := by
  rw [Mach.nextToPost] at hc
  rw [exec_completionPost_eq, execCompletionPost, State.on_eq_withM, if_neg (by simp),
    if_neg h.guard, hc]

theorem completionPost_sramUe (hawake : (s.m.advance at_).awake = true) :
    exec (.completionPost plot qid true at_) s = .next (s.withM ((s.m.advance at_).enterFatal 0)) := by
  rw [exec_completionPost_eq, execCompletionPost, State.on_eq_withM, if_pos (by simp [hawake])]

end

/-! ## Doorbells (15 R622) -/

/-- The stall of a completion queue ends once it has room (04 R175). -/
def Cq.endStall (q : Cq) : Cq := { q with fullAt := if q.hasRoom then none else q.fullAt }

/-- The event of a stall that ends with a write of the head (04 R175). -/
def Mach.noteStallEnd (q : Cq) (m : Mach) : Mach :=
  match q.fullAt with
  | some t => if q.hasRoom then m.record 0x0405 (m.usSince t) 0 else m
  | none => m

section
variable {q : Cq} {t : Nat} (m : Mach)

theorem Cq.endStall_of_room (h : q.hasRoom = true) : q.endStall = { q with fullAt := none } := by rw [Cq.endStall, if_pos h]
theorem Cq.endStall_of_full (h : q.hasRoom = false) : q.endStall = q := by rw [Cq.endStall, if_neg (by simp [h])]
theorem Cq.endStall_of_none (h : q.fullAt = none) : q.endStall = q := by
  rw [Cq.endStall, h, ite_self, ← h]

theorem Mach.noteStallEnd_of_none (h : q.fullAt = none) : m.noteStallEnd q = m := by rw [Mach.noteStallEnd, h]
theorem Mach.noteStallEnd_of_room (h : q.fullAt = some t) (hr : q.hasRoom = true) :
    m.noteStallEnd q = m.record 0x0405 (m.usSince t) 0 := by simp [Mach.noteStallEnd, h, hr]
theorem Mach.noteStallEnd_of_full (hr : q.hasRoom = false) : m.noteStallEnd q = m := by
  rw [Mach.noteStallEnd]
  split
  · rw [if_neg (by simp [hr])]
  · rfl

end

section
variable {port plot qid value : Nat} {be : BitVec 4} (htakes : s.m.barTakes port plot = true) (hserves : s.m.inService = true) (hq : qid ≤ 512)
include htakes hserves hq

theorem sqTailDoorbell_rings :
    exec (.sqTailDoorbell port plot qid value be) s = .next (s.withM
      (if be = 15 ∧ (s.m.sq plot qid).size ≠ 0 ∧ value < (s.m.sq plot qid).size then
        (s.m.updSq plot qid fun q => { q with tail := value }).doorbell
      else s.m.badDoorbell plot)) := by
  rw [exec_sqTailDoorbell_eq, execSqTailDoorbell, State.on_eq_withM, if_neg (by simp [htakes, hserves, hq])]

theorem cqHeadDoorbell_bad (hbad : ¬(be = 15 ∧ (s.m.cq plot qid).size ≠ 0 ∧ value < (s.m.cq plot qid).size)) :
    exec (.cqHeadDoorbell port plot qid value be) s = .next (s.withM (s.m.badDoorbell plot)) := by
  rw [exec_cqHeadDoorbell_eq, execCqHeadDoorbell, State.on_eq_withM, if_neg (by simp [htakes, hserves, hq]), if_neg hbad]

theorem cqHeadDoorbell_taken (hbe : be = 15) (hsize : (s.m.cq plot qid).size ≠ 0) (hvalue : value < (s.m.cq plot qid).size) :
    let q : Cq := { s.m.cq plot qid with head := value }
    exec (.cqHeadDoorbell port plot qid value be) s =
      .next (s.withM ((s.m.noteStallEnd q).updCq plot qid fun _ => q.endStall).doorbell) := by
  rw [exec_cqHeadDoorbell_eq, execCqHeadDoorbell, State.on_eq_withM, if_neg (by simp [htakes, hserves, hq]), if_pos ⟨hbe, hsize, hvalue⟩]
  rfl

end

/-! ## VENDOR_EVENT_POST (15 R640) -/

theorem vendorEventPost_posts {a : Cmd} (ha : s.m.heldAer 0 = some a) (hset : s.m.hub.intSts &&& s.cfg.intEn ≠ 0)
    (hmask : s.m.maskedType 0 7 = false) (hfatal : s.m.hub.fatal = false) :
    exec .vendorEventPost s = .next (s.withM (s.m.postEvent
      { plot := 0, type := 7, info := lowBit (s.m.hub.intSts &&& s.cfg.intEn), lid := 0xC0 } a)) := by
  rw [exec_vendorEventPost_eq, execVendorEventPost, State.on_eq_withM, ha]
  dsimp only
  rw [if_pos ⟨hset, hmask, hfatal⟩]

end

/-- Settles O5: one lemma for each way in which these commands act. -/
theorem completionAndDoorbellCommandsComplete : Obligations.CompletionAndDoorbellCommandsComplete := by
  refine ⟨?host, ?worker, ?order, ?post, ?sramUe, ?tail, ?head, ?event⟩
  case host => exact fun _ _ _ hc hdone hr => commandFinished_host hc hdone hr
  case worker => exact fun _ _ _ hc hdone hr => commandFinished_worker hc hdone hr
  case order => exact fun _ _ hc hawake hrole hout => commandFinished_outOfOrder hc hawake hrole hout
  case post =>
    intro s plot qid at_ c m hfatal hst hsize hc
    have hpost := completionPost_next ⟨hfatal, hst, hsize⟩ hc
    exact ⟨fun hbme => by rw [hpost, if_pos hbme], fun hbme hroom => by rw [hpost, if_neg (Bool.eq_false_iff.mp hbme), if_pos hroom]⟩
  case sramUe => exact fun _ _ _ _ hawake => completionPost_sramUe hawake
  case tail =>
    intro s port plot qid value be htakes hserves hq
    have hring := sqTailDoorbell_rings (value := value) (be := be) htakes hserves hq
    exact ⟨fun hok => by rw [hring, if_pos hok], fun hbad => by rw [hring, if_neg hbad]⟩
  case head =>
    intro s port plot qid value be htakes hserves hq
    refine ⟨fun hbe hsize hvalue => ?_, cqHeadDoorbell_bad htakes hserves hq⟩
    have hring := cqHeadDoorbell_taken htakes hserves hq hbe hsize hvalue
    refine ⟨fun hfull => ?_, fun t hfull hroom => ?_, fun t _ hroom => ?_⟩
    · rw [hring, Mach.noteStallEnd_of_none _ hfull, Cq.endStall_of_none hfull]
    · rw [hring, Mach.noteStallEnd_of_room _ hfull hroom, Cq.endStall_of_room hroom]
    · rw [hring, Mach.noteStallEnd_of_full _ hroom, Cq.endStall_of_full hroom]
  case event => exact fun _ _ ha hset hmask hfatal => vendorEventPost_posts ha hset hmask hfatal

end Sys2Proof.Machine

/-! # Buffer requests and frees (07 R367 to R375; 01 R53, R56) -/

namespace Sys2Proof.Machine

section
variable (s : State) (acre pool index : Nat) (internal sramUe : Bool) (req size at_ : Nat)

theorem exec_bufferRequest_eq :
    exec (.bufferRequest acre internal req size sramUe at_) s = execBufferRequest acre internal req size sramUe at_ s := rfl
theorem exec_bufferFree_eq :
    exec (.bufferFree acre pool index internal req at_) s = execBufferFree acre pool index internal req at_ s := rfl

variable {s acre pool index internal req size at_}

/-! ## A request (07 R369) -/

/-- The wait of a requester that the walk sends to a pool's queue (07 R370). -/
def Mach.waitFor (a first owner : Nat) (w : Nat × Bool) (m : Mach) : Mach :=
  m.freshId.2.onStg fun g =>
    { g with waits := g.waits ++ [{ id := m.freshId.1, acre := a, pool := w.1, first := first, owner := owner, quota := w.2,
                                    since := m.clk.now }] }

section
variable {m : Mach} {a owner : Nat} (ha : m.poolAcre acre = some a) (hsize : size ≠ 0) (hfits : poolFor size < 5)
include ha hsize hfits

theorem Mach.bufferRequest_takes {k : Nat}
    (hwalk : m.poolWalk a owner (poolFor size) ((List.range 5).drop (poolFor size)) = .inl k) :
    m.bufferRequest acre owner size =
      if k = poolFor size then (m.takeBuf a k owner).2 else (m.takeBuf a k owner).2.record 0x070B k (a + 1) := by
  rw [Mach.bufferRequest, ha]
  dsimp only
  rw [if_neg (by omega), Mach.serveBuf, hwalk]

theorem Mach.bufferRequest_waits {w : Nat × Bool}
    (hwalk : m.poolWalk a owner (poolFor size) ((List.range 5).drop (poolFor size)) = .inr w) :
    m.bufferRequest acre owner size = m.waitFor a (poolFor size) owner w := by
  rw [Mach.bufferRequest, ha]
  dsimp only
  rw [if_neg (by omega), Mach.serveBuf, hwalk]
  rfl

end

theorem bufferRequest_fences (hawake : (s.m.advance at_).awake = true) (hup : (s.m.advance at_).acreUp acre = true)
    (hacre : acre < (s.m.advance at_).nAcres) :
    exec (.bufferRequest acre internal req size true at_) s = .next (s.withM ((s.m.advance at_).fenceStart acre 2)) := by
  rw [exec_bufferRequest_eq, execBufferRequest, State.on_eq_withM, if_pos (by simp [hawake, hup, hacre])]

theorem bufferRequest_asks (hacre : acre < (s.m.advance at_).nAcres) (hreq : requesterOk internal req = true) :
    exec (.bufferRequest acre internal req size false at_) s =
      .next (s.withM ((s.m.advance at_).bufferRequest acre (requester internal req) size)) := by
  rw [exec_bufferRequest_eq, execBufferRequest, State.on_eq_withM, if_neg (by simp), if_pos (by simp [hacre, hreq])]

/-! ## A free (07 R370, R371, R375) -/

/-- The buffer is held by the owner. -/
def Mach.holdsBuf (a k i owner : Nat) (m : Mach) : Prop :=
  (Tbl.get Buf.init i (m.pool a k).bufs).held = true ∧ (Tbl.get Buf.init i (m.pool a k).bufs).owner = owner

theorem Mach.bufferFree_held {m : Mach} {a k i owner : Nat} (h : m.holdsBuf a k i owner) :
    m.bufferFree a k i owner = (m.releaseBuf a k i).serveWaits a k := by
  obtain ⟨hheld, howner⟩ := h
  rw [Mach.bufferFree, if_pos (by simp [hheld, howner])]

theorem sat16_succ (n : Nat) : sat 16 (n + 1) = if n + 1 < 65536 then n + 1 else 65535 := rfl

theorem Mach.bufferFree_refused {m : Mach} {a k i owner : Nat} (h : ¬m.holdsBuf a k i owner) :
    m.bufferFree a k i owner =
      ((m.onStg fun g => { g with dfCount := Tbl.upd 0 a (fun n => if n + 1 < 65536 then n + 1 else 65535) g.dfCount,
                                  dfPool := Tbl.put 0 a k g.dfPool,
                                  dfReq := Tbl.put 0 a owner g.dfReq }).hubInt 15).record 0x070D k (a + 1) := by
  rw [Mach.bufferFree, if_neg (by simpa [Mach.holdsBuf] using h)]
  simp only [sat16_succ]

theorem bufferFree_asks (hup : (s.m.advance at_).acreUp acre = true) (hpool : pool < 5)
    (hindex : index < ((s.m.advance at_).pool acre pool).count) (hreq : requesterOk internal req = true) :
    exec (.bufferFree acre pool index internal req at_) s =
      .next (s.withM ((s.m.advance at_).bufferFree acre pool index (requester internal req))) := by
  rw [exec_bufferFree_eq, execBufferFree, State.on_eq_withM, if_pos (by simp [hup, hpool, hindex, hreq])]

end

/-- Settles O21: a request that is heard is `Mach.bufferRequest` and a free `Mach.bufferFree`, each with one lemma for each of its outcomes. -/
theorem bufferCommandsComplete : Obligations.BufferCommandsComplete := by
  refine ⟨?fence, ?request, ?free⟩
  case fence => exact fun _ _ _ _ _ _ hawake hup hacre => bufferRequest_fences hawake hup hacre
  case request =>
    intro s acre a internal req size at_ m o hacre ha hreq hsize hfits
    exact ⟨fun k hwalk => by rw [bufferRequest_asks hacre hreq, Mach.bufferRequest_takes ha hsize hfits hwalk],
      fun w hwalk => by rw [bufferRequest_asks hacre hreq, Mach.bufferRequest_waits ha hsize hfits hwalk]; rfl⟩
  case free =>
    intro s acre pool index internal req at_ m o b hup hpool hindex hreq
    exact ⟨fun hheld => by rw [bufferFree_asks hup hpool hindex hreq, Mach.bufferFree_held hheld],
      fun hnot => by rw [bufferFree_asks hup hpool hindex hreq, Mach.bufferFree_refused hnot]⟩

end Sys2Proof.Machine

/-! # Channels, decodes, level sweeps, the gleaner and the controller's Finish (01 R15, R49; 03 R151, R165; 05 R232, R275; 06 R302) -/

namespace Sys2Proof.Machine

section
variable (s : State)

theorem exec_channelRetrainDone_eq (ch : Nat) (result : TrainEnd) (us : Nat) :
    exec (.channelRetrainDone ch result us) s = execChannelRetrainDone ch result us s := rfl
theorem exec_patternCheck_eq (ch : Nat) (matched : Bool) : exec (.patternCheck ch matched) s = execPatternCheck ch matched s := rfl
theorem exec_decodeDone_eq (id : Nat) (r : DecodeResult) : exec (.decodeDone id r) s = execDecodeDone id r s := rfl
theorem exec_levelSweep_eq (die block group : Nat) (bits : List Nat) (maxBits : Nat) :
    exec (.levelSweep die block group bits maxBits) s = execLevelSweep die block group bits maxBits s := rfl
theorem exec_gleanerRelocate_eq (nsid : Nat) : exec (.gleanerRelocate nsid) s = execGleanerRelocate nsid s := rfl
theorem exec_zoneFinishByController_eq (nsid zone : Nat) :
    exec (.zoneFinishByController nsid zone) s = execZoneFinishByController nsid zone s := rfl

variable {s}

/-! ## Channels (01 R49, 05 R232) -/

section
variable {ch : Nat}

/-- The channel is one of the part's, its acre is up, and the controller is in service. -/
def Mach.chanServes (ch : Nat) (m : Mach) : Prop := ch < m.nChans ∧ m.acreUp (chanAcre ch) = true ∧ m.inService = true

theorem Mach.chanServes.training {m : Mach} (h : m.chanServes ch) (ht : (m.chan ch).training = true) :
    ¬(!decide (ch < m.nChans) || !m.acreUp (chanAcre ch) || !m.inService || !(m.chan ch).training) = true := by
  obtain ⟨hlt, hup, hserves⟩ := h
  simp [hlt, hup, hserves, ht]

section
variable (us : Nat) (h : s.m.chanServes ch) (ht : (s.m.chan ch).training = true)
include h ht

theorem channelRetrainDone_passed :
    exec (.channelRetrainDone ch .passed us) s = .next (s.withM
      (((List.range 32).foldl (fun x b => x.updWd s.cfg (32 * chanAcre ch + b))
        ((s.m.record 0x0130 us (chanAcre ch + 1)).updChan ch fun x =>
          { x with training := false, inService := true, errPasses := [] })).chanResume ch)) := by
  rw [exec_channelRetrainDone_eq, execChannelRetrainDone, State.on_eq_withM, if_neg (h.training ht)]

theorem channelRetrainDone_lower {r : Nat × Nat} (hr : (s.m.chan ch).lower = some r) :
    exec (.channelRetrainDone ch .failed us) s = .next (s.withM
      (((s.m.record 0x0130 us (chanAcre ch + 1)).updChan ch fun x =>
        { x with mode := r.1, rate := r.2, inService := ({ x with mode := r.1, rate := r.2 } : Chan).lower.isSome }).record
          0x0131 (10 * r.2) (chanAcre ch + 1))) := by
  rw [exec_channelRetrainDone_eq, execChannelRetrainDone, State.on_eq_withM, if_neg (h.training ht)]
  dsimp only
  rw [hr]

theorem channelRetrainDone_fails (hr : (s.m.chan ch).lower = none) :
    exec (.channelRetrainDone ch .failed us) s = .next (s.withM
      ((s.m.record 0x0130 us (chanAcre ch + 1)).failChannel s.cfg ch)) := by
  rw [exec_channelRetrainDone_eq, execChannelRetrainDone, State.on_eq_withM, if_neg (h.training ht)]
  dsimp only
  rw [hr]

end

theorem patternCheck_checks (matched : Bool) (h : s.m.chanServes ch) (ht : (s.m.chan ch).training = false)
    (hdue : (s.m.chan ch).unchecked = true ∨ (s.m.chan ch).checkAt + 1000 ≤ s.m.grid.passes) :
    let m := s.m.updChan ch fun x => { x with checkAt := s.m.grid.passes, unchecked := false }
    exec (.patternCheck ch matched) s = .next (s.withM (if matched then m else m.ifError s.cfg ch 4)) := by
  obtain ⟨hlt, hup, hserves⟩ := h
  have hguard : ¬(!decide (ch < s.m.nChans) || !s.m.acreUp (chanAcre ch) || !s.m.inService || (s.m.chan ch).training ||
      !((s.m.chan ch).unchecked || decide ((s.m.chan ch).checkAt + 1000 ≤ s.m.grid.passes))) = true := by
    simpa [hlt, hup, hserves, ht] using or_iff_not_imp_left.mp hdue
  rw [exec_patternCheck_eq, execPatternCheck, State.on_eq_withM, if_neg hguard]

end

/-! ## DECODE_DONE (06 R302) -/

/-- The ladder after the result of its rung is known: the die is released where the page is wanted no more (06 R302). -/
def Mach.decoded (id : Nat) (r : DecodeResult) (l : Ladder) (m : Mach) : Mach :=
  let n := m.updLadder id fun l => { l with res := some r }
  if l.pageDone r then n.releaseDie l.die l.id else n

section
variable {id : Nat} {r : DecodeResult} {l : Ladder} (hl : s.m.ladder? id = some l) (hw : l.waiting = 0) (hc : s.m.codecWaits id = true)
include hl hw hc

theorem decodeDone_waits (ht : (s.m.decoded id r l).codecTine id = none) :
    exec (.decodeDone id r) s = .next (s.withM (s.m.decoded id r l)) := by
  rw [Mach.decoded] at ht
  rw [exec_decodeDone_eq, execDecodeDone, State.on_eq_withM, hl]
  dsimp only
  rw [if_neg (by simp [hw, hc]), ht]
  rfl

theorem decodeDone_hands {t : Nat} (ht : (s.m.decoded id r l).codecTine id = some t) :
    let m := s.m.decoded id r l
    exec (.decodeDone id r) s = .next (s.withM ((m.setTine t { m.tine t with running := none }).codecEnd s.cfg id)) := by
  rw [Mach.decoded] at ht
  rw [exec_decodeDone_eq, execDecodeDone, State.on_eq_withM, hl]
  dsimp only
  rw [if_neg (by simp [hw, hc]), ht]
  rfl

end

/-! ## ZONE_FINISH_BY_CONTROLLER (03 R151) -/

theorem zoneFinishByController_finishes {nsid zone : Nat} :
    let z := s.m.zone nsid zone
    z.bound = true → z.st.isActive = true → z.cols.any (fun c => c.carried) = true → s.m.zoneBusy nsid zone = false →
    s.m.acreUp (bedAcre z.bed) = true →
    exec (.zoneFinishByController nsid zone) s = .next (s.withM (s.m.finishZone nsid zone)) := by
  intro z hbound hactive hcarried hbusy hup
  have hguard : (z.bound && z.st.isActive && z.cols.any (fun c => c.carried) && !s.m.zoneBusy nsid zone && s.m.acreUp (bedAcre z.bed)) =
      true := by rw [hbound, hactive, hcarried, hbusy, hup]; rfl
  rw [exec_zoneFinishByController_eq, execZoneFinishByController, State.on_eq_withM, if_pos hguard]

end

/-- Settles O10: one lemma for each way in which these commands act. The sweep and the gleaner end with `exact`, which sees through the
match that the statement writes out again. -/
theorem mediaCommandsComplete : Obligations.MediaCommandsComplete := by
  refine ⟨?retrain, ?check, ?decode, ?sweep, ?glean, ?finish⟩
  case retrain =>
    intro s ch us m hlt hup hserves ht
    have h : s.m.chanServes ch := ⟨hlt, hup, hserves⟩
    exact ⟨channelRetrainDone_passed us h ht, fun r => channelRetrainDone_lower us h ht, channelRetrainDone_fails us h ht⟩
  case check =>
    intro s ch hlt hup hserves ht hdue m
    have h : s.m.chanServes ch := ⟨hlt, hup, hserves⟩
    exact ⟨by rw [patternCheck_checks false h ht hdue, if_neg Bool.false_ne_true], by rw [patternCheck_checks true h ht hdue, if_pos rfl]⟩
  case decode => exact fun s id r l hl hw hc => ⟨decodeDone_waits hl hw hc, fun t => decodeDone_hands hl hw hc⟩
  case sweep =>
    intro s die block group bits maxBits key cur new m n hread hgroup hblock
    have hguard : (s.m.med.sweepRead.contains key && decide (group < 8) && decide (block < 8192)) = true := by
      simp [hread, hgroup, hblock]
    have hact := exec_levelSweep_eq s die block group bits maxBits
    rw [execLevelSweep, State.on_eq_withM, if_pos hguard] at hact
    exact hact
  case glean =>
    intro s nsid b hexists hheadland hruns hb valid r m
    have hact := exec_gleanerRelocate_eq s nsid
    rw [execGleanerRelocate, State.on_eq_withM, if_neg (by simp [hexists, hheadland, hruns]), hb] at hact
    exact hact
  case finish => exact fun s nsid zone => zoneFinishByController_finishes

end Sys2Proof.Machine

/-! # The configuration stays legal (02 R89, R111; 04 R183; 05 R264; 07 R345, R357, R383; 08 R410; 15 R639) -/

namespace Sys2Proof.Machine

/-! ## Outcomes that keep the configuration legal -/

/-- The outcome is a next state that keeps the queue and, where it was legal, the configuration. -/
def AnswersKeeping (s : State) (o : Host.Outcome State Fault Refusal) : Prop := ∃ t, o = .next t ∧ State.Keeps s t

section
variable {s s' t : State} {o o' : Host.Outcome State Fault Refusal}

theorem AnswersKeeping.next (h : State.Keeps s t) : AnswersKeeping s (.next t) := ⟨t, rfl, h⟩
theorem AnswersKeeping.idle (s : State) : AnswersKeeping s (.next s) := .next (.refl s)
theorem AnswersKeeping.on (s : State) (f : Cfg → Mach → Mach) : AnswersKeeping s (.next (s.on f)) := .next (.on s f)

theorem AnswersKeeping.ite {c : Prop} [Decidable c] (h : AnswersKeeping s o) (k : AnswersKeeping s o') :
    AnswersKeeping s (if c then o else o') := by split <;> assumption

/-- What acts on a state that keeps `s` keeps `s`. -/
theorem AnswersKeeping.after (h : State.Keeps s s') : AnswersKeeping s' o → AnswersKeeping s o :=
  fun ⟨t, ho, k⟩ => ⟨t, ho, h.trans k⟩

end

/-- The values that a reset gives are in their ranges, whatever HUB_SCRATCH holds. -/
theorem Cfg.reset_legal (scratch : Tbl Word) : (Cfg.reset scratch).Legal where
  ptmInt := by simp [Cfg.reset]
  rdRes := by simp [Cfg.reset]
  bedP := ⟨rfl, nofun⟩
  fetch := by simp [Cfg.reset]
  intEn := by simp [Cfg.reset]
  minSlice := ⟨rfl, nofun⟩
  arpLog2 := ⟨rfl, nofun⟩
  age := ⟨rfl, nofun⟩
  rateTarget := ⟨rfl, nofun⟩
  intWt := ⟨rfl, nofun⟩
  dirtyCap := by simp [Cfg.reset]

/-! ## Rows that write the configuration or reset it -/

section
variable (s : State)

theorem execRcRegisterRead_keeps (w : BarWindow) (o : Nat) : AnswersKeeping s (execRcRegisterRead w o s) := by
  cases w <;> exact .on ..

theorem execRegisterWrite_keeps (w : BarWindow) (o : Nat) (v : Word) (be : BitVec 4) :
    AnswersKeeping s (execRegisterWrite w o v be s) := by
  cases w with
  | device => exact .next (.bar2Write ..)
  | bar0 => exact .on ..
  | bar4 => exact .on ..
  | config => exact .on ..

theorem execRegWr_keeps (o : Nat) (v : Word) : AnswersKeeping s (execRegWr o v s) :=
  .ite (.next (.bar2Write ..)) (.idle s)

theorem execSetFeaturesFurrowGrid_keeps (stamp : Nat) : AnswersKeeping s (execSetFeaturesFurrowGrid stamp s) := by
  unfold execSetFeaturesFurrowGrid
  split
  · exact .next (((State.Keeps.withMach ..).trans (.applyGrid ..)).trans (.withMach ..))
  · exact .on ..

theorem execDumpDone_keeps (at_ : Nat) : AnswersKeeping s (execDumpDone at_ s) :=
  .after (.on s fun _ m => m.advance at_) (.ite (.idle _) (.after (.on _ fun _ m => m.endDump)
    (.ite (.next ((State.Keeps.warmReset Cfg.reset_legal ..).trans (.on ..))) (.idle _))))

theorem execPowerfailDeassert_keeps (at_ : Nat) : AnswersKeeping s (execPowerfailDeassert at_ s) :=
  .after (.on s fun _ m => m.advance at_)
    (.ite (.idle _) (.ite (.on ..) (.ite (.next (.restart Cfg.reset_legal _)) (.idle _))))

theorem execTripRestart_keeps (at_ : Nat) : AnswersKeeping s (execTripRestart at_ s) :=
  .after (.on s fun _ m => m.advance at_)
    (.ite (.next ((State.Keeps.restart Cfg.reset_legal _).trans (.on ..))) (.idle _))

theorem execPerstAssert_keeps (at_ : Nat) : AnswersKeeping s (execPerstAssert at_ s) :=
  .next ((State.Keeps.on ..).trans (.outsideReset Cfg.reset_legal _))

theorem execNvmSubsystemReset_keeps (plot : Nat) (v : Word) : AnswersKeeping s (execNvmSubsystemReset plot v s) :=
  .ite (.next ((State.Keeps.on ..).trans (.outsideReset Cfg.reset_legal _))) (.idle s)

theorem execLossOfPower_keeps : AnswersKeeping s (execLossOfPower s) := .next ⟨rfl, fun _ => Cfg.reset_legal []⟩

theorem execStartupPhaseDone_keeps (i : PhaseInfo) (at_ : Nat) : AnswersKeeping s (execStartupPhaseDone i at_ s) :=
  .after (.on s fun _ m => m.advance at_) (.ite (.idle _) (.ite (.next (.phaseSeven ..)) (.on ..)))

theorem execSlotWriteDone_keeps (ok : Bool) : AnswersKeeping s (execSlotWriteDone ok s) := by
  unfold execSlotWriteDone
  split
  · exact .next (.ite ((State.Keeps.on ..).trans (.warmReset Cfg.reset_legal ..)) (.on ..))
  · exact .idle s

theorem execCmd_keeps (gen tag plot : Nat) (admin resense : Bool) (e : Sqe) (at_ : Nat) :
    AnswersKeeping s (execCmd gen tag plot admin resense e at_ s) :=
  .after (.on s fun _ m => m.advance at_) (.ite (.idle _) (.ite (.next (.takeCopy ..)) (.on ..)))

end

/-! ## The end of a task: the row of its command acts (01 R15) -/

section
variable (s : State) (stamp : Nat)

theorem State.endFeature_keeps (fid : Nat) : AnswersKeeping s (s.endFeature stamp fid) := by
  unfold State.endFeature
  split
  case h_4 => exact execSetFeaturesFurrowGrid_keeps s stamp
  all_goals exact .on ..

theorem State.endLog_keeps (lid : Nat) : AnswersKeeping s (s.endLog stamp lid) := by
  unfold State.endLog
  split <;> exact .on ..

theorem State.endCommit_keeps (action : Nat) : AnswersKeeping s (s.endCommit stamp action) := by
  unfold State.endCommit
  split <;> exact .on ..

theorem State.endHitch_keeps (action : Nat) : AnswersKeeping s (s.endHitch stamp action) := by
  unfold State.endHitch
  split <;> exact .on ..

/-- The rows that choose by more than the opcode stand first; the others act on the machine alone. -/
theorem State.endAdmin_keeps (c : Cmd) : AnswersKeeping s (s.endAdmin c) := by
  unfold State.endAdmin
  dsimp only
  split
  case h_3 => exact State.endLog_keeps ..
  case h_8 => exact State.endFeature_keeps ..
  case h_11 => exact .ite (.on ..) (.on ..)
  case h_12 => exact State.endCommit_keeps ..
  case h_13 => exact .idle s
  case h_15 => exact .ite (.on ..) (.on ..)
  case h_19 => exact .ite (.on ..) (.idle s)
  case h_21 => exact .ite (.on ..) (.on ..)
  case h_22 => exact State.endHitch_keeps ..
  all_goals exact .on ..

theorem execTaskEnd_keeps (tine : Nat) : AnswersKeeping s (execTaskEnd tine s) := by
  unfold execTaskEnd
  refine .ite (.idle s) ?_
  split
  · exact .idle s
  next k _ =>
    have freed : State.Keeps s (s.on fun _ m => m.freeTine tine k) := .on ..
    dsimp only
    split
    case h_1 => exact .after freed (.on ..)
    case h_2 =>
      split
      · exact .after freed (.on ..)
      · exact .ite (.after freed (.on ..)) (.idle s)
      · exact .next freed
    case h_3 => exact .after freed (.on ..)
    case h_4 =>
      split
      · exact .next freed
      · exact .ite (.after freed (State.endAdmin_keeps ..)) (.after freed (.on ..))

end

/-! ## Every command -/

/-- Every command answers a next state that keeps the queue and a legal configuration: the rows that write the configuration or reset
it have lemmas of their own, and the others act on the machine alone. -/
theorem exec_keeps (c : Instr) (s : State) : AnswersKeeping s (exec c s) := by
  cases c
  case taskEnd => exact execTaskEnd_keeps ..
  case rcRegisterRead => exact execRcRegisterRead_keeps ..
  case registerWrite => exact execRegisterWrite_keeps ..
  case regWr => exact execRegWr_keeps ..
  case setFeaturesFurrowGrid => exact execSetFeaturesFurrowGrid_keeps ..
  case dumpDone => exact execDumpDone_keeps ..
  case powerfailDeassert => exact execPowerfailDeassert_keeps ..
  case tripRestart => exact execTripRestart_keeps ..
  case perstAssert => exact execPerstAssert_keeps ..
  case nvmSubsystemReset => exact execNvmSubsystemReset_keeps ..
  case lossOfPower => exact execLossOfPower_keeps ..
  case startupPhaseDone => exact execStartupPhaseDone_keeps ..
  case slotWriteDone => exact execSlotWriteDone_keeps ..
  case cmd => exact execCmd_keeps ..
  case furCfgWrite => exact .next (.furCfgWrite ..)
  case furCtrlWrite => exact .next (.furCtrlWrite ..)
  case dramRateRequest => exact .next (.rateWrite ..)
  case pltCfgWrite => exact .next (.pltCfgWrite ..)
  case isoApply => exact .next (.isoCmdWrite ..)
  case hubCtrlWrite => exact .next (.hubCtrlWrite ..)
  case hubIntStsClear => exact .next (.intStsWrite ..)
  case hubIntSetWrite => exact .next (.intSetWrite ..)
  case hubLedCtrlWrite => exact .next (.ledWrite ..)
  case dirtyCfgWrite => exact .next (.dirtyCfgWrite ..)
  case mgdNandWpWrite => exact .next (.nandWpWrite ..)
  case mgdBootWpWrite => exact .next (.bootWpWrite ..)
  all_goals exact .on ..

/-- The next state of a command keeps the queue and a legal configuration. -/
theorem exec_next_keeps {c : Instr} {s t : State} (h : exec c s = .next t) : State.Keeps s t := by
  obtain ⟨t', ht', hk⟩ := exec_keeps c s
  cases ht'.symm.trans h
  exact hk

/-- Settles O49: the reset state's configuration is that of a reset with an empty HUB_SCRATCH. -/
theorem configLegalAtReset : Obligations.ConfigLegalAtReset := Cfg.reset_legal []

/-- Settles O50: an edge does not touch the configuration, and each command keeps it legal (`exec_keeps`). -/
theorem configLegalKept : Obligations.ConfigLegalKept := by
  intro s t hs ht
  unfold step at ht
  split at ht
  · cases ht
    exact hs
  · exact (exec_next_keeps ht).2 hs

end Sys2Proof.Machine

/-! # Grid time: boundaries, PTM dialogues and the correction factor (02 R73 to R103) -/

namespace Sys2Proof.Machine

section
variable (s : State)

theorem exec_furrowBoundary_eq (sramUe : List Nat) : exec (.furrowBoundary sramUe) s = execFurrowBoundary sramUe s := rfl
theorem exec_passBoundary_eq (diodes : List Int) : exec (.passBoundary diodes) s = execPassBoundary diodes s := rfl
theorem exec_tallyMinuteBoundary_eq : exec .tallyMinuteBoundary s = execTallyMinuteBoundary s := rfl
theorem exec_ptmResponse_eq (t1 t2 t3 t4 : Int) (malformed : Bool) (at_ : Nat) :
    exec (.ptmResponse t1 t2 t3 t4 malformed at_) s = execPtmResponse t1 t2 t3 t4 malformed at_ s := rfl
theorem exec_ptmTimeout_eq (at_ : Nat) : exec (.ptmTimeout at_) s = execPtmTimeout at_ s := rfl
theorem exec_ptmEnableChange_eq (port : Nat) (enable linkUp : Bool) :
    exec (.ptmEnableChange port enable linkUp) s = execPtmEnableChange port enable linkUp s := rfl
theorem exec_kUpdate_eq : exec .kUpdate s = execKUpdate s := rfl

variable {s}

/-! ## Boundaries -/

section
variable (hawake : s.m.awake = true)
include hawake

theorem furrowBoundary_acts (sramUe : List Nat) :
    let start := furrowStart (s.m.grid.furrow + 1)
    let b := s.m.gridTo start
    let e := b.edgeOf start
    let n := (b.advance (e + 16)).onGrid fun g =>
      { g with furrow := g.furrow + 1, ticks := g.ticks + 1, boundaryAt := e, actionAt := e + 16 }
    let m := (dedup sramUe).foldl (fun m a => m.fenceStart a 2) n
    exec (.furrowBoundary sramUe) s = .next (s.withM (if m.granting then m.boundaryGrants s.cfg else m)) := by
  rw [exec_furrowBoundary_eq, execFurrowBoundary, State.on_eq_withM, if_neg (by simp [hawake])]

theorem passBoundary_acts (diodes : List Int) :
    let m := (((s.m.gridTo (passStart (s.m.grid.pass + 1))).passEnergy).passDiodes diodes).passCounts
    let go := m.grid.st == .adopt && m.grid.adoptReady
    let n := if go then m.adopt else m
    exec (.passBoundary diodes) s = .next (s.withM
      ((((((n.passClock go).passPower).passBeds s.cfg).passBudget s.cfg).passDialogue s.cfg).sendTimes)) := by
  rw [exec_passBoundary_eq, execPassBoundary, State.on_eq_withM, if_neg (by simp [hawake])]

theorem tallyMinuteBoundary_acts :
    exec .tallyMinuteBoundary s = .next (s.withM
      (((s.m.gridTo (minuteStart (s.m.grid.minute + 1))).closeMinute).onGrid fun g => { g with minute := g.minute + 1 })) := by
  rw [exec_tallyMinuteBoundary_eq, execTallyMinuteBoundary, State.on_eq_withM, if_neg (by simp [hawake])]

end

/-! ## PTM dialogues (02 R78, R79) -/

section
variable {at_ sent : Nat} (hrole : s.m.hitch.role ≠ 2) (hsent : s.m.grid.awaiting = some sent)
include hrole hsent

theorem ptmResponse_inTime (t1 t2 t3 t4 : Int) (malformed : Bool)
    (h : (s.m.advance at_).clk.now - sent ≤ 100 * Config.edgesPerUs) :
    let m := s.m.advance at_
    exec (.ptmResponse t1 t2 t3 t4 malformed at_) s = .next (s.withM
      (if malformed then m.dialogueFails 1 else m.dialogueOk (((t2 - t1) + (t3 - t4)) / 2) t2)) := by
  rw [exec_ptmResponse_eq, execPtmResponse, State.on_eq_withM]
  simp [hrole, hsent, Nat.sub_eq_zero_of_le h]

theorem ptmResponse_late (t1 t2 t3 t4 : Int) (malformed : Bool)
    (h : 100 * Config.edgesPerUs < (s.m.advance at_).clk.now - sent) :
    let m := s.m.advance at_
    exec (.ptmResponse t1 t2 t3 t4 malformed at_) s = .next (s.withM
      (m.record 0x0120 ((m.clk.now - sent - 100 * Config.edgesPerUs) * 5 / 16) 0)) := by
  rw [exec_ptmResponse_eq, execPtmResponse, State.on_eq_withM]
  simp [hrole, hsent, Nat.sub_pos_of_lt h]

theorem ptmTimeout_fails (h : 100 * Config.edgesPerUs ≤ (s.m.advance at_).clk.now - sent) :
    exec (.ptmTimeout at_) s = .next (s.withM ((s.m.advance at_).dialogueFails 0)) := by
  rw [exec_ptmTimeout_eq, execPtmTimeout, State.on_eq_withM]
  simp [hrole, hsent, h]

end

theorem ptmEnableChange_notes {port : Nat} (enable linkUp : Bool) (hport : port < 2) :
    let m := s.m.onGrid fun g =>
      { g with ptmEn := Tbl.put false port enable g.ptmEn, linkUp := Tbl.put false port linkUp g.linkUp }
    exec (.ptmEnableChange port enable linkUp) s = .next (s.withM (if m.ptmOn s.cfg then m else m.toFree)) := by
  rw [exec_ptmEnableChange_eq, execPtmEnableChange, State.on_eq_withM, if_neg (by omega)]

/-! ## The correction factor (02 R103) -/

/-- K after the sums of 1,000 passes: one eighth of the distance of their ratio from 1, within 0.5 to 2.0. -/
def kNext (k charges measured : Nat) : Nat :=
  let moved : Int := (k : Int) + 4096 * ((measured : Int) - charges) / (8 * charges)
  if charges = 0 then k else if moved < 2048 then 2048 else if 8192 < moved then 8192 else moved.toNat

theorem kUpdate_idle (h : s.m.grid.kDue = none) : exec .kUpdate s = .next s := by
  rw [exec_kUpdate_eq, execKUpdate, State.on_eq_withM, Mach.onGrid, h]
  rfl

theorem kUpdate_moves {charges measured : Nat} (h : s.m.grid.kDue = some (charges, measured)) :
    exec .kUpdate s = .next (s.withM (s.m.onGrid fun g => { g with k := kNext g.k charges measured, kDue := none })) := by
  rw [exec_kUpdate_eq, execKUpdate, State.on_eq_withM, Mach.onGrid, h]
  rfl

section
variable {k charges measured : Nat}

theorem kNext_of_zero (h : charges = 0) : kNext k charges measured = k := if_pos h

theorem kStep_nonneg (h : charges ≤ measured) : 0 ≤ 4096 * ((measured : Int) - charges) / (8 * charges) :=
  Int.ediv_nonneg (by omega) (by omega)
theorem kStep_nonpos (h : measured ≤ charges) (hpos : charges ≠ 0) :
    4096 * ((measured : Int) - charges) / (8 * charges) ≤ 0 :=
  Int.ediv_nonpos_of_nonpos_of_neg (by omega) (by omega)

variable (hlow : 2048 ≤ k) (hhigh : k ≤ 8192)
include hlow hhigh

theorem kNext_range : 2048 ≤ kNext k charges measured ∧ kNext k charges measured ≤ 8192 := by
  unfold kNext
  generalize (_ / _ : Int) = step
  dsimp only
  split_ifs <;> omega

theorem le_kNext (h : charges ≤ measured) : k ≤ kNext k charges measured := by
  have hstep := kStep_nonneg h
  unfold kNext
  generalize (_ / _ : Int) = step at *
  dsimp only
  split_ifs <;> omega

theorem kNext_le (h : measured ≤ charges) : kNext k charges measured ≤ k := by
  rcases eq_or_ne charges 0 with hzero | hpos
  · exact (kNext_of_zero hzero).le
  · have hstep := kStep_nonpos h hpos
    unfold kNext
    generalize (_ / _ : Int) = step at *
    dsimp only
    split_ifs <;> omega

end

end

/-- Settles O7: one lemma for each way in which these commands act. -/
theorem gridCommandsComplete : Obligations.GridCommandsComplete := by
  refine ⟨?furrow, ?pass, ?minute, ?response, ?timeout, ?enable, ?k⟩
  case furrow => exact fun s sramUe hawake => furrowBoundary_acts hawake sramUe
  case pass => exact fun s diodes hawake => passBoundary_acts hawake diodes
  case minute => exact fun s hawake => tallyMinuteBoundary_acts hawake
  case response =>
    exact fun s t1 t2 t3 t4 malformed at_ sent hrole hsent =>
      ⟨ptmResponse_inTime hrole hsent t1 t2 t3 t4 malformed, ptmResponse_late hrole hsent t1 t2 t3 t4 malformed⟩
  case timeout => exact fun s at_ sent => ptmTimeout_fails
  case enable => exact fun s port enable linkUp => ptmEnableChange_notes enable linkUp
  case k => exact fun s => ⟨kUpdate_idle, fun charges measured => kUpdate_moves⟩

/-- Settles O8: without sums due the state stays, and with sums K becomes `kNext`, whose step before the clamp has the sign of the
measured energy less the charges. -/
theorem correctionFactorStaysInRange : Obligations.CorrectionFactorStaysInRange := by
  intro s t ht hlow hhigh
  cases hdue : s.m.grid.kDue with
  | none =>
    cases (kUpdate_idle hdue).symm.trans ht
    exact ⟨hlow, hhigh, hdue, fun _ => rfl, nofun⟩
  | some sums =>
    obtain ⟨charges, measured⟩ := sums
    cases (kUpdate_moves hdue).symm.trans ht
    have hrange := kNext_range (charges := charges) (measured := measured) hlow hhigh
    refine ⟨hrange.1, hrange.2, rfl, nofun, fun c p hcp => ?_⟩
    cases hcp
    exact ⟨le_kNext hlow hhigh, kNext_le hlow hhigh, kNext_of_zero⟩

end Sys2Proof.Machine

/-! # Dies: issue, polls, ready edges and time-outs (02 R97; 05 R232, R245 to R248, R270, R278) -/

namespace Sys2Proof.Machine

section
variable (s : State) (die at_ : Nat)

theorem exec_opIssue_eq : exec (.opIssue die at_) s = execOpIssue die at_ s := rfl
theorem exec_dieStatusPoll_eq (reply : StatusReply) : exec (.dieStatusPoll die reply at_) s = execDieStatusPoll die reply at_ s := rfl
theorem exec_dieReady_eq (failed mismatch : Bool) :
    exec (.dieReady die failed mismatch at_) s = execDieReady die failed mismatch at_ s := rfl
theorem exec_dieOpTimeout_eq : exec (.dieOpTimeout die at_) s = execDieOpTimeout die at_ s := rfl

variable {s die at_}

/-! ## Issue (02 R97; 05 R278) -/

/-- The state on the edge of an issue: that of the grant where there is one. -/
def Mach.atIssue (die at_ : Nat) (m : Mach) : Mach :=
  m.advance (if (m.die die).granted || (m.die die).suspGranted then Nat.max at_ (m.die die).issueAt else at_)

/-- The die takes operations: its acre is up, and its channel is not retrained. -/
def Mach.dieTakes (die : Nat) (m : Mach) : Prop :=
  m.acreUp (dieAcre die) = true ∧ die < m.nDies ∧ (m.chan (dieChan die)).training = false

theorem Mach.dieTakes.guard {m : Mach} (h : m.dieTakes die) :
    ¬(!m.acreUp (dieAcre die) || !decide (die < m.nDies) || (m.chan (dieChan die)).training) = true := by
  obtain ⟨hup, hlt, hquiet⟩ := h
  simp [hup, hlt, hquiet]

theorem Mach.guardUse_guarded {m : Mach} {sector : Nat} (h : m.guarded false sector = true) :
    m.guardUse false sector = (false, m.guardRefuse false sector) := if_pos h

theorem Mach.guardUse_open {m : Mach} {sector : Nat} (h : m.guarded false sector = false) :
    (m.guardUse false sector).1 = true := by
  unfold Mach.guardUse
  rw [if_neg (by simp [h])]
  dsimp only
  split <;> rfl

/-- What becomes of the granted operation of a die on its issue edge (02 R97; 05 R278). -/
def Mach.issueGranted (die : Nat) (r : SlotReq) (m : Mach) : Mach :=
  match r.purp with
  | .headland sector unit =>
    if r.op = .program ∨ r.op = .erase then
      let g := m.guardUse false sector
      if g.1 then g.2.issueOp die r
      else (g.2.updDie die fun d => { d with granted := false, op := none }).headWrite die r.block r.op unit
    else m.issueOp die r
  | _ => m.issueOp die r

section
variable {m : Mach} {r : SlotReq}

theorem Mach.issueGranted_other (h : ∀ sector unit, r.purp ≠ .headland sector unit) :
    m.issueGranted die r = m.issueOp die r := by
  unfold Mach.issueGranted
  split
  next sector unit hpurp => exact absurd hpurp (h sector unit)
  · rfl

variable {sector : Nat} {unit : Bool} (hpurp : r.purp = .headland sector unit)
include hpurp

theorem Mach.issueGranted_reads (hprog : r.op ≠ .program) (herase : r.op ≠ .erase) :
    m.issueGranted die r = m.issueOp die r := by
  simp only [Mach.issueGranted, hpurp]
  exact if_neg (by simp [hprog, herase])

theorem Mach.issueGranted_refused (hwrite : r.op = .program ∨ r.op = .erase) (hguard : m.guarded false sector = true) :
    m.issueGranted die r =
      ((m.guardRefuse false sector).updDie die fun d => { d with granted := false, op := none }).headWrite die r.block r.op unit := by
  simp only [Mach.issueGranted, hpurp]
  rw [if_pos hwrite, Mach.guardUse_guarded hguard, if_neg Bool.false_ne_true]

theorem Mach.issueGranted_inWindow (hwrite : r.op = .program ∨ r.op = .erase) (hguard : m.guarded false sector = false) :
    m.issueGranted die r = (m.guardUse false sector).2.issueOp die r := by
  simp only [Mach.issueGranted, hpurp]
  rw [if_pos hwrite, if_pos (Mach.guardUse_open hguard)]

end

section
variable (htakes : (s.m.atIssue die at_).dieTakes die)
include htakes

theorem opIssue_suspends (hsusp : (s.m.die die).suspGranted = true) :
    exec (.opIssue die at_) s = .next (s.withM ((s.m.atIssue die at_).suspendDie die (s.m.die die).issueAt)) := by
  have hguard := htakes.guard
  rw [Mach.atIssue] at hguard
  rw [exec_opIssue_eq, execOpIssue, State.on_eq_withM]
  dsimp only
  rw [if_neg hguard, if_pos hsusp]
  rfl

theorem opIssue_issues {r : SlotReq} (hsusp : (s.m.die die).suspGranted = false) (hgrant : (s.m.die die).granted = true)
    (hop : (s.m.die die).op = some r) :
    exec (.opIssue die at_) s = .next (s.withM ((s.m.atIssue die at_).issueGranted die r)) := by
  have hguard := htakes.guard
  rw [Mach.atIssue] at hguard
  rw [exec_opIssue_eq, execOpIssue, State.on_eq_withM]
  dsimp only
  rw [if_neg hguard, if_neg (by simp [hsusp]), if_neg (by simp [hgrant]), hop]
  rfl

end

/-! ## Status polls (05 R232, R245) -/

/-- The die after a poll on this edge. -/
def Mach.polled (die : Nat) (m : Mach) : Mach := m.updDie die fun d => { d with polledAt := some m.clk.now }

section
variable {reply : StatusReply} (hruns : (s.m.advance at_).dieRuns die = true) (hfalls : (s.m.advance at_).pollFalls die = true)
include hruns hfalls

/-- A poll on a poll edge is noted, and judged by its reply. -/
theorem dieStatusPoll_judges : let n := (s.m.advance at_).polled die
    exec (.dieStatusPoll die reply at_) s = .next (s.withM
      (if reply.reserved || (reply.ready && reply.busy) then n.ifError s.cfg (dieChan die) 1
       else if !reply.ready then n
       else if n.opLate die then n.lateReady die else (n.dieReady die reply.failed).beginClosing)) := by
  rw [exec_dieStatusPoll_eq, execDieStatusPoll, State.on_eq_withM]
  dsimp only
  rw [if_neg (by simp [hruns]), if_neg (by simp [hfalls])]
  rfl

theorem dieStatusPoll_bad (h : reply.reserved = true ∨ (reply.ready = true ∧ reply.busy = true)) :
    exec (.dieStatusPoll die reply at_) s = .next (s.withM (((s.m.advance at_).polled die).ifError s.cfg (dieChan die) 1)) := by
  rw [dieStatusPoll_judges hruns hfalls, if_pos (by simpa using h)]

theorem dieStatusPoll_busy (hres : reply.reserved = false) (hready : reply.ready = false) :
    exec (.dieStatusPoll die reply at_) s = .next (s.withM ((s.m.advance at_).polled die)) := by
  rw [dieStatusPoll_judges hruns hfalls, if_neg (by simp [hres, hready]), if_pos (by simp [hready])]

theorem dieStatusPoll_ready (hres : reply.reserved = false) (hready : reply.ready = true) (hbusy : reply.busy = false) :
    let n := (s.m.advance at_).polled die
    exec (.dieStatusPoll die reply at_) s = .next (s.withM
      (if n.opLate die then n.lateReady die else (n.dieReady die reply.failed).beginClosing)) := by
  rw [dieStatusPoll_judges hruns hfalls, if_neg (by simp [hres, hbusy]), if_neg (by simp [hready])]

end

/-! ## Ready edges (05 R245) and time-outs (05 R247, R248, R270; 01 R51) -/

/-- A unit whose program is lost is to be programmed again. -/
def Mach.unissue (r : SlotReq) (m : Mach) : Mach :=
  match r.purp with
  | .unit nsid zi row col => m.updUnit nsid zi row col fun u => { u with issued := false }
  | _ => m

/-- A time-out is counted, and a recovery reset is asked for (05 R247). -/
def Mach.recover (die : Nat) (r : SlotReq) (m : Mach) : Mach :=
  (m.updDie die fun d =>
    { d with timeouts := d.timeouts + 1, timedOut := some r, timedAt := m.clk.now, op := none, suspGranted := false }).post
      (mkReq die .reset (.recovery r.op) r.block 0 0)

/-- A read-around whose input timed out is abandoned (05 R270). -/
def Mach.letInputGo (r : SlotReq) (m : Mach) : Mach :=
  match r.purp with
  | .host _ id => m.aroundLate id
  | _ => m

section
variable {m : Mach} {r : SlotReq}

theorem Mach.unissue_unit {nsid zi row col : Nat} (h : r.purp = .unit nsid zi row col) :
    m.unissue r = m.updUnit nsid zi row col fun u => { u with issued := false } := by
  simp only [Mach.unissue, h]

theorem Mach.unissue_other (h : ∀ nsid zi row col, r.purp ≠ .unit nsid zi row col) : m.unissue r = m := by
  unfold Mach.unissue
  split
  next nsid zi row col hpurp => exact absurd hpurp (h nsid zi row col)
  · rfl

theorem Mach.letInputGo_host {stamp id : Nat} (h : r.purp = .host stamp id) : m.letInputGo r = m.aroundLate id := by
  simp only [Mach.letInputGo, h]

theorem Mach.letInputGo_other (h : ∀ stamp id, r.purp ≠ .host stamp id) : m.letInputGo r = m := by
  unfold Mach.letInputGo
  split
  next stamp id hpurp => exact absurd hpurp (h stamp id)
  · rfl

end

section
variable {r : SlotReq} (hruns : (s.m.advance at_).dieRuns die = true) (hop : ((s.m.advance at_).die die).op = some r)
include hruns hop

theorem dieReady_ends (failed mismatch : Bool) :
    let m := s.m.advance at_
    let n := m.advance (m.clk.now + m.toPoll die r)
    let f := if mismatch = true ∧ (r.op = .setFeatures ∨ r.op = .getFeatures) then n.ifError s.cfg (dieChan die) 2 else n
    exec (.dieReady die failed mismatch at_) s =
      .next (s.withM (if n.opLate die then n.lateReady die else (f.dieReady die failed).beginClosing)) := by
  rw [exec_dieReady_eq, execDieReady, State.on_eq_withM]
  dsimp only
  rw [hop]
  dsimp only
  rw [if_neg (by simp [hruns])]
  simp only [Bool.and_eq_true, Bool.or_eq_true, beq_iff_eq]

section
variable (hlate : (s.m.advance at_).timeoutEdges die r ≤ (s.m.advance at_).ranEdges ((s.m.advance at_).die die))
include hlate

/-- A time-out that has come: of a recovery reset or the third in a row, or one that asks for a recovery reset. -/
theorem dieOpTimeout_acts : let m := s.m.advance at_
    exec (.dieOpTimeout die at_) s = .next (s.withM
      (if r.op = .reset then (m.record 0x0501 0 (dieAcre die + 1)).markFailed s.cfg die
       else if 3 ≤ (m.die die).timeouts + 1 then ((m.unissue r).record 0x0501 0 (dieAcre die + 1)).markFailed s.cfg die
       else (m.recover die r).letInputGo r)) := by
  rw [exec_dieOpTimeout_eq, execDieOpTimeout, State.on_eq_withM]
  dsimp only
  rw [hop]
  dsimp only
  rw [if_neg (by simp [hruns, hlate])]
  rfl

theorem dieOpTimeout_ofReset (hreset : r.op = .reset) :
    exec (.dieOpTimeout die at_) s = .next (s.withM (((s.m.advance at_).record 0x0501 0 (dieAcre die + 1)).markFailed s.cfg die)) := by
  rw [dieOpTimeout_acts hruns hop hlate, if_pos hreset]

theorem dieOpTimeout_third (hother : r.op ≠ .reset) (hthird : 2 ≤ ((s.m.advance at_).die die).timeouts) :
    exec (.dieOpTimeout die at_) s = .next (s.withM
      ((((s.m.advance at_).unissue r).record 0x0501 0 (dieAcre die + 1)).markFailed s.cfg die)) := by
  rw [dieOpTimeout_acts hruns hop hlate, if_neg hother, if_pos (by omega)]

theorem dieOpTimeout_recovers (hother : r.op ≠ .reset) (hfew : ((s.m.advance at_).die die).timeouts < 2) :
    exec (.dieOpTimeout die at_) s = .next (s.withM (((s.m.advance at_).recover die r).letInputGo r)) := by
  rw [dieOpTimeout_acts hruns hop hlate, if_neg hother, if_neg (by omega)]

end

end

end

/-- Settles O9: one lemma for each way in which these commands act, and one for each purpose that decides what an issue or a time-out does. -/
theorem dieCommandsComplete : Obligations.DieCommandsComplete := by
  refine ⟨?issue, ?poll, ?ready, ?timeout⟩
  case issue =>
    intro s die at_ d m hup hlt hquiet
    have htakes : (s.m.atIssue die at_).dieTakes die := ⟨hup, hlt, hquiet⟩
    refine ⟨opIssue_suspends htakes, fun r hsusp hgrant hop => ?_⟩
    have hissue := opIssue_issues htakes hsusp hgrant hop
    exact ⟨fun h => Mach.issueGranted_other h ▸ hissue, fun sector unit hpurp =>
      ⟨fun hprog herase => Mach.issueGranted_reads hpurp hprog herase ▸ hissue, fun hwrite =>
        ⟨fun hg => Mach.issueGranted_refused hpurp hwrite hg ▸ hissue, fun hg => Mach.issueGranted_inWindow hpurp hwrite hg ▸ hissue⟩⟩⟩
  case poll =>
    exact fun s die at_ reply hruns hfalls =>
      ⟨dieStatusPoll_bad hruns hfalls, dieStatusPoll_busy hruns hfalls, dieStatusPoll_ready hruns hfalls⟩
  case ready => exact fun s die at_ failed mismatch r hruns hop => dieReady_ends hruns hop failed mismatch
  case timeout =>
    intro s die at_ r m rec_ n hruns hop hlate
    refine ⟨dieOpTimeout_ofReset hruns hop hlate, fun hother hthird => ?_, fun hother hfew => ?_⟩
    · have hmark := dieOpTimeout_third hruns hop hlate hother hthird
      exact ⟨fun nsid zi row col h => Mach.unissue_unit h ▸ hmark, fun h => by rwa [Mach.unissue_other h] at hmark⟩
    · have hrecover := dieOpTimeout_recovers hruns hop hlate hother hfew
      exact ⟨fun stamp id h => Mach.letInputGo_host h ▸ hrecover, fun h => by rwa [Mach.letInputGo_other h] at hrecover⟩

end Sys2Proof.Machine

/-! # Writes of FUR_CFG, FUR_CTRL, HUB_CTRL, HUB_LED_CTRL and DRM_RATE_REQ (02 R89, R111; 15 R634, R641; 07 R355 to R357) -/

namespace Sys2Proof.Machine

section
variable (s : State) (v : Word) (be : BitVec 4)

theorem exec_furCfgWrite_eq : exec (.furCfgWrite v be) s = .next (s.furCfgWrite v be) := rfl
theorem exec_furCtrlWrite_eq (acre bed : Nat) : exec (.furCtrlWrite acre bed v be) s = .next (s.furCtrlWrite acre bed v be) := rfl
theorem exec_hubCtrlWrite_eq : exec (.hubCtrlWrite v be) s = .next (s.hubCtrlWrite v be) := rfl
theorem exec_hubLedCtrlWrite_eq : exec (.hubLedCtrlWrite v be) s = .next (s.ledWrite v be) := rfl
theorem exec_dramRateRequest_eq (acre : Nat) : exec (.dramRateRequest acre v be) s = .next (s.rateWrite acre v be) := rfl

variable {s v}

/-- A write that reaches its block with all byte enables, on a register that the guard does not hold, has the register's own effect
(15 R625, R627, R635). -/
theorem State.barWrite_full {addr : Nat} {reach guarded : Bool} {f : State → State} (hup : s.m.deviceUp = true) (hreach : reach = true)
    (hguard : guarded = false ∨ s.cfg.wrGuard = false) : s.barWrite addr reach guarded 15 f = f s := by
  unfold State.barWrite
  rw [if_neg (by simp [hup]), if_neg (by simp [hreach]), if_neg (by simp), if_neg (by simpa [or_iff_not_imp_left] using hguard)]

section
variable {ptmInt rdRes : Nat} {port use : Bool}

theorem furCfgOk_iff : furCfgOk ptmInt rdRes = true ↔ 1 ≤ ptmInt ∧ ptmInt ≤ 64 ∧ rdRes ≤ 50 := by
  simp [furCfgOk, and_assoc]

theorem State.setFurCfg_outOfRange (h : ¬(1 ≤ ptmInt ∧ ptmInt ≤ 64 ∧ rdRes ≤ 50)) : s.setFurCfg ptmInt rdRes port use = s :=
  if_pos (by rwa [← Bool.not_eq_true, furCfgOk_iff])

theorem State.setFurCfg_cfg (h : 1 ≤ ptmInt ∧ ptmInt ≤ 64 ∧ rdRes ≤ 50) :
    (s.setFurCfg ptmInt rdRes port use).cfg = { s.cfg with ptmInt := ptmInt, rdRes := rdRes, ptmPort := port, ptmUse := use } := by
  rw [State.setFurCfg, if_neg (by simp [furCfgOk_iff.mpr h])]

end

section
variable (hup : s.m.deviceUp = true)
include hup

theorem State.hubCtrlWrite_unlocked (hlock : s.cfg.hubLock = false) :
    s.hubCtrlWrite v 15 = { s with cfg := { s.cfg with hubLock := v.getLsbD 31, wrGuard := v.getLsbD 0 } } := by
  rw [State.hubCtrlWrite, State.barWrite_full hup rfl (.inl rfl)]
  simp [hlock]

/-- Under LOCK only a changed WR_GUARD is a dropped write (15 R632, R634). -/
theorem State.hubCtrlWrite_locked (hlock : s.cfg.hubLock = true) :
    s.hubCtrlWrite v 15 = if v.getLsbD 0 = s.cfg.wrGuard then s else s.withM (s.m.wrDrop 4 0x04) := by
  rw [State.hubCtrlWrite, State.barWrite_full hup rfl (.inl rfl)]
  have hcfg : ({ s.cfg with hubLock := true } : Cfg) = s.cfg := by rw [← hlock]
  simp only [hlock, Bool.true_or, Bool.true_and, if_true, hcfg, bne_iff_ne, ne_eq, ite_not]
  split <;> rfl

theorem State.ledWrite_full : s.ledWrite v 15 = { s with cfg := { s.cfg with led := v.setWidth 2 } } :=
  State.barWrite_full hup rfl (.inl rfl)

variable (hguard : s.cfg.wrGuard = false)
include hguard

theorem State.furCfgWrite_full :
    s.furCfgWrite v 15 = s.setFurCfg (Word.bits v 23 16) (Word.bits v 15 8) (v.getLsbD 1) (v.getLsbD 0) :=
  State.barWrite_full hup rfl (.inr hguard)

variable {acre : Nat} (hacre : acre < 4) (hreach : s.m.reachable acre = true)
include hacre hreach

theorem State.furCtrlWrite_full {bed : Nat} (hbed : bed < 32) :
    s.furCtrlWrite acre bed v 15 = s.setBedP (32 * acre + bed) (Word.bits v 4 0) := by
  rw [State.furCtrlWrite, if_pos ⟨hbed, hacre⟩, State.barWrite_full hup hreach (.inr hguard)]

theorem State.rateWrite_full :
    s.rateWrite acre v 15 =
      if Word.bits v 9 0 ∈ dramRates then
        { s with cfg := { s.cfg with rateTarget := Tbl.put 0x370 acre (Word.bits v 9 0) s.cfg.rateTarget },
                 m := s.m.rateAsk acre (Word.bits v 9 0) }
      else s := by
  rw [State.rateWrite, if_neg (by omega), State.barWrite_full hup hreach (.inr hguard)]
  simp only [List.contains_iff_mem]

end

end

/-- Settles O11: a full write of each register has the register's own effect (`State.barWrite_full`). -/
theorem furrowAndHubConfigurationWrites : Obligations.FurrowAndHubConfigurationWrites := by
  refine ⟨?furCfg, ?furCtrl, ?hubCtrl, ?led, ?rate⟩
  case furCfg =>
    intro s v hup hguard
    rw [exec_furCfgWrite_eq, State.furCfgWrite_full hup hguard]
    exact ⟨fun h1 h64 h50 => ⟨_, rfl, rfl, State.setFurCfg_cfg ⟨h1, h64, h50⟩, (State.Keeps.setFurCfg ..).1⟩,
      fun h => by rw [State.setFurCfg_outOfRange h]⟩
  case furCtrl =>
    intro s acre bed v hup hguard hacre hbed hreach
    rw [exec_furCtrlWrite_eq, State.furCtrlWrite_full hup hguard hacre hreach hbed]
    rfl
  case hubCtrl =>
    intro s v hup
    rw [exec_hubCtrlWrite_eq]
    exact ⟨fun hlock => by rw [State.hubCtrlWrite_unlocked hup hlock], fun hlock => by rw [State.hubCtrlWrite_locked hup hlock]⟩
  case led =>
    intro s v hup
    rw [exec_hubLedCtrlWrite_eq, State.ledWrite_full hup]
  case rate =>
    intro s acre v hup hguard hacre hreach
    rw [exec_dramRateRequest_eq, State.rateWrite_full hup hguard hacre hreach]

end Sys2Proof.Machine

/-! # Namespace Management, Namespace Attachment and Format NVM (03 R124 to R129; 04 R184, R211 to R213; 09 R416, R426, R428) -/

namespace Sys2Proof.Machine

/-! ## The front-end task of an admin command -/

/-- The front-end task of the admin command `c`, of opcode `opc`, acts: every earlier admin command of its plot has acted (04 R184). -/
structure Mach.AdminActs (m : Mach) (stamp opc : Nat) (c : Cmd) : Prop where
  cmd : m.adminCmd stamp = some c
  turn : m.adminTurn c = true
  opcode : c.sqe.opc.toNat = opc

namespace Mach.AdminActs

section
variable {m : Mach} {stamp opc : Nat} {c : Cmd} (h : m.AdminActs stamp opc c)
include h

theorem adminIf_eq {p : Cmd → Bool} (hp : p c = true) (f : Cmd → Mach → Mach) : m.adminIf stamp opc p f = m.admin stamp opc f := by
  simp only [Mach.adminIf, h.cmd, hp, if_true]

/-- A command whose host buffer can be used, or that has none, has its effect. -/
theorem admin_acts (hbuf : bufferOps.contains opc = false ∨ c.sqe.buf = .prp ∨ c.sqe.buf = .sgl) (f : Cmd → Mach → Mach) :
    m.admin stamp opc f = (f c (m.dropTasks stamp)).actsOnce stamp := by
  simp only [Mach.admin, h.cmd]
  rw [if_neg (by simp [h.opcode, h.turn])]
  obtain hnone | hprp | hsgl := hbuf
  · simp only [hnone, Bool.not_false, if_true]
  · simp only [hprp, ite_self]
  · simp only [hsgl, ite_self]

/-- A malformed host buffer is a plot error, an unsupported descriptor fails the command (04 R211, 09 R431). -/
theorem admin_badBuffer (hop : bufferOps.contains opc = true) (hbuf : c.sqe.buf = .malformed ∨ c.sqe.buf = .sglUnsupported)
    (f : Cmd → Mach → Mach) :
    m.admin stamp opc f = if c.sqe.buf = .malformed then (m.dropTasks stamp).plotError c.plot 2
      else (m.dropTasks stamp).failWith stamp St.badSglSegment := by
  simp only [Mach.admin, h.cmd]
  rw [if_neg (by simp [h.opcode, h.turn]), if_neg (by simpa using hop)]
  obtain hmal | hsgl := hbuf
  · simp only [hmal, if_true]
  · simp only [hsgl, reduceCtorEq, if_false]

end

end Mach.AdminActs

/-! ## What each command does once its task has ended -/

/-- The effect of Namespace Management (create) (03 R124 to R128; 10 R466). -/
def Mach.createTask (stamp : Nat) (c : Cmd) (m : Mach) : Mach :=
  let i := c.sqe.nsid.toNat
  let n := i - 0xFFFFFF00
  if c.plot ≠ 0 then m.failWith stamp St.invalidOpcode
  else if Word.bits c.sqe.cdw10 3 0 ≠ 0 then m.failWith stamp St.invalidField
  else if m.hitch.role = 1 ∧ 0xFFFFFF01 ≤ i ∧ n ≤ 7 then
    (if (m.member n).st = 0 then m.failWith stamp St.invalidField
     else if (m.member n).st = 1 then m.forward c n
     else m.failWith stamp St.anaInaccessible)
  else match m.createNs c.sqe.data with
    | .inl st => m.failWith stamp st
    | .inr r => (r.2.updCmd stamp fun k => { k with committed := true }).finish stamp Status.ok (BitVec.ofNat 32 r.1)

/-- The effect of Namespace Management (delete) (03 R129). -/
def Mach.deleteTask (cfg : Cfg) (stamp : Nat) (c : Cmd) (m : Mach) : Mach :=
  let i := c.sqe.nsid.toNat
  if c.plot ≠ 0 then m.failWith stamp St.invalidOpcode
  else if m.remote i then m.toMember c
  else if c.sqe.nsid ≠ 0xFFFFFFFF ∧ ((m.ns i).exists_ = false ∨ m.deletedBefore c = true) then m.failWith stamp St.invalidNs
  else if (m.nsNamed c.sqe).any m.nsFrozen then m.failWith stamp St.ctrlListInvalid
  else
    (((m.nsNamed c.sqe).foldl (fun m k => m.updNs k fun n =>
      { n with deleting := if n.deleting = 0 then stamp else n.deleting }) m).setStage stamp .locked).pump cfg

/-- The effect of Namespace Attachment with a select field other than 0 (09 R428). -/
def Mach.detachTask (stamp : Nat) (c : Cmd) (m : Mach) : Mach :=
  if c.plot = 0 ∧ Word.bits c.sqe.cdw10 3 0 ≠ 1 then m.failWith stamp St.invalidField
  else m.attachment c Mach.detachStatus Mach.detachPlot

/-- The effect of Format NVM (04 R213). -/
def Mach.formatTask (cfg : Cfg) (stamp : Nat) (c : Cmd) (m : Mach) : Mach :=
  let i := c.sqe.nsid.toNat
  if c.plot = 0 then
    if Word.bits c.sqe.cdw10 11 9 ≠ 0 then m.failWith stamp St.invalidField
    else if m.remote i then m.toMember c
    else if c.sqe.nsid ≠ 0xFFFFFFFF ∧ ((m.ns i).exists_ = false ∨ m.deletedBefore c = true) then m.failWith stamp St.invalidNs
    else (m.setStage stamp .locked).pump cfg
  else m.failWith c.stamp St.invalidOpcode

section
variable {s : State} {stamp : Nat} {c : Cmd}

section
variable (h : s.m.AdminActs stamp 0x0D c)
include h

theorem namespaceCreate_runs (hsel : Word.bits c.sqe.cdw10 3 0 ≠ 1) :
    exec (.namespaceCreate stamp) s = .next (s.withM (s.m.admin stamp 0x0D (Mach.createTask stamp))) :=
  congrArg (fun x => Host.Outcome.next (s.withM x)) (h.adminIf_eq (by simpa using hsel) _)

theorem namespaceDelete_runs (hsel : Word.bits c.sqe.cdw10 3 0 = 1) :
    exec (.namespaceDelete stamp) s = .next (s.withM (s.m.admin stamp 0x0D (Mach.deleteTask s.cfg stamp))) :=
  congrArg (fun x => Host.Outcome.next (s.withM x)) (h.adminIf_eq (by simpa using hsel) _)

end

section
variable (h : s.m.AdminActs stamp 0x15 c)
include h

theorem namespaceAttach_runs (hsel : Word.bits c.sqe.cdw10 3 0 = 0) :
    exec (.namespaceAttach stamp) s =
      .next (s.withM (s.m.admin stamp 0x15 fun c m => m.attachment c Mach.attachStatus Mach.attachPlot)) :=
  congrArg (fun x => Host.Outcome.next (s.withM x)) (h.adminIf_eq (by simpa using hsel) _)

theorem namespaceDetach_runs (hsel : Word.bits c.sqe.cdw10 3 0 ≠ 0) :
    exec (.namespaceDetach stamp) s = .next (s.withM (s.m.admin stamp 0x15 (Mach.detachTask stamp))) :=
  congrArg (fun x => Host.Outcome.next (s.withM x)) (h.adminIf_eq (by simpa using hsel) _)

end

theorem formatNvm_runs : exec (.formatNvm stamp) s = .next (s.withM (s.m.admin stamp 0x80 (Mach.formatTask s.cfg stamp))) := rfl

end

/-! ## The cases of each effect -/

section
variable {m : Mach} {cfg : Cfg} {stamp : Nat} {c : Cmd}

theorem Mach.createTask_otherPlot (hplot : c.plot ≠ 0) : m.createTask stamp c = m.failWith stamp St.invalidOpcode := if_pos hplot

theorem Mach.deleteTask_otherPlot (hplot : c.plot ≠ 0) : m.deleteTask cfg stamp c = m.failWith stamp St.invalidOpcode := if_pos hplot

theorem Mach.formatTask_otherPlot (hplot : c.plot ≠ 0) : m.formatTask cfg stamp c = m.failWith c.stamp St.invalidOpcode := if_neg hplot

section
variable (hplot : c.plot = 0)
include hplot

theorem Mach.createTask_undefined (hsel : Word.bits c.sqe.cdw10 3 0 ≠ 0) : m.createTask stamp c = m.failWith stamp St.invalidField := by
  rw [Mach.createTask, if_neg (not_not.mpr hplot), if_pos hsel]

section
variable (hsel : Word.bits c.sqe.cdw10 3 0 = 0)
include hsel

section
variable (hmem : m.hitch.role = 1 ∧ 0xFFFFFF01 ≤ c.sqe.nsid.toNat ∧ c.sqe.nsid.toNat - 0xFFFFFF00 ≤ 7)
include hmem

theorem Mach.createTask_noMember (hst : (m.member (c.sqe.nsid.toNat - 0xFFFFFF00)).st = 0) :
    m.createTask stamp c = m.failWith stamp St.invalidField := by
  rw [Mach.createTask, if_neg (not_not.mpr hplot), if_neg (not_not.mpr hsel), if_pos hmem, if_pos hst]

theorem Mach.createTask_memberUp (hst : (m.member (c.sqe.nsid.toNat - 0xFFFFFF00)).st = 1) :
    m.createTask stamp c = m.forward c (c.sqe.nsid.toNat - 0xFFFFFF00) := by
  rw [Mach.createTask, if_neg (not_not.mpr hplot), if_neg (not_not.mpr hsel), if_pos hmem, if_neg (by omega), if_pos hst]

theorem Mach.createTask_memberDown (hst : 1 < (m.member (c.sqe.nsid.toNat - 0xFFFFFF00)).st) :
    m.createTask stamp c = m.failWith stamp St.anaInaccessible := by
  rw [Mach.createTask, if_neg (not_not.mpr hplot), if_neg (not_not.mpr hsel), if_pos hmem, if_neg (by omega), if_neg (by omega)]

end

section
variable (hown : ¬(m.hitch.role = 1 ∧ 0xFFFFFF01 ≤ c.sqe.nsid.toNat ∧ c.sqe.nsid.toNat - 0xFFFFFF00 ≤ 7))
include hown

theorem Mach.createTask_refused {st : Status} (hns : m.createNs c.sqe.data = .inl st) : m.createTask stamp c = m.failWith stamp st := by
  rw [Mach.createTask, if_neg (not_not.mpr hplot), if_neg (not_not.mpr hsel), if_neg hown, hns]

theorem Mach.createTask_makes {k : Nat} {x : Mach} (hns : m.createNs c.sqe.data = .inr (k, x)) :
    m.createTask stamp c =
      (x.updCmd stamp fun k => { k with committed := true }).finish stamp Status.ok (BitVec.ofNat 32 k) := by
  rw [Mach.createTask, if_neg (not_not.mpr hplot), if_neg (not_not.mpr hsel), if_neg hown, hns]

end

end

theorem Mach.deleteTask_remote (hrem : m.remote c.sqe.nsid.toNat = true) : m.deleteTask cfg stamp c = m.toMember c := by
  rw [Mach.deleteTask, if_neg (not_not.mpr hplot), if_pos hrem]

section
variable (hrem : m.remote c.sqe.nsid.toNat = false)
include hrem

theorem Mach.deleteTask_noNamespace
    (hgone : c.sqe.nsid ≠ 0xFFFFFFFF ∧ ((m.ns c.sqe.nsid.toNat).exists_ = false ∨ m.deletedBefore c = true)) :
    m.deleteTask cfg stamp c = m.failWith stamp St.invalidNs := by
  rw [Mach.deleteTask, if_neg (not_not.mpr hplot), if_neg (by simp [hrem]), if_pos hgone]

section
variable (hthere : ¬(c.sqe.nsid ≠ 0xFFFFFFFF ∧ ((m.ns c.sqe.nsid.toNat).exists_ = false ∨ m.deletedBefore c = true)))
include hthere

theorem Mach.deleteTask_frozen (hfrozen : (m.nsNamed c.sqe).any m.nsFrozen = true) :
    m.deleteTask cfg stamp c = m.failWith stamp St.ctrlListInvalid := by
  rw [Mach.deleteTask, if_neg (not_not.mpr hplot), if_neg (by simp [hrem]), if_neg hthere, if_pos hfrozen]

theorem Mach.deleteTask_marks (hfree : (m.nsNamed c.sqe).any m.nsFrozen = false) :
    m.deleteTask cfg stamp c =
      (((m.nsNamed c.sqe).foldl (fun m k => m.updNs k fun n =>
        { n with deleting := if n.deleting = 0 then stamp else n.deleting }) m).setStage stamp .locked).pump cfg := by
  rw [Mach.deleteTask, if_neg (not_not.mpr hplot), if_neg (by simp [hrem]), if_neg hthere, if_neg (by simp [hfree])]

end

end

theorem Mach.formatTask_undefined (hses : Word.bits c.sqe.cdw10 11 9 ≠ 0) :
    m.formatTask cfg stamp c = m.failWith stamp St.invalidField := by
  rw [Mach.formatTask, if_pos hplot, if_pos hses]

section
variable (hses : Word.bits c.sqe.cdw10 11 9 = 0)
include hses

theorem Mach.formatTask_remote (hrem : m.remote c.sqe.nsid.toNat = true) : m.formatTask cfg stamp c = m.toMember c := by
  rw [Mach.formatTask, if_pos hplot, if_neg (not_not.mpr hses), if_pos hrem]

variable (hrem : m.remote c.sqe.nsid.toNat = false)
include hrem

theorem Mach.formatTask_noNamespace
    (hgone : c.sqe.nsid ≠ 0xFFFFFFFF ∧ ((m.ns c.sqe.nsid.toNat).exists_ = false ∨ m.deletedBefore c = true)) :
    m.formatTask cfg stamp c = m.failWith stamp St.invalidNs := by
  rw [Mach.formatTask, if_pos hplot, if_neg (not_not.mpr hses), if_neg (by simp [hrem]), if_pos hgone]

theorem Mach.formatTask_locks
    (hthere : ¬(c.sqe.nsid ≠ 0xFFFFFFFF ∧ ((m.ns c.sqe.nsid.toNat).exists_ = false ∨ m.deletedBefore c = true))) :
    m.formatTask cfg stamp c = (m.setStage stamp .locked).pump cfg := by
  rw [Mach.formatTask, if_pos hplot, if_neg (not_not.mpr hses), if_neg (by simp [hrem]), if_neg hthere]

end

end

section
variable (st : Mach → Nat → Nat → Option Status) (f : Nat → Nat → Mach → Mach)

theorem Mach.attachment_otherPlot (hplot : c.plot ≠ 0) : m.attachment c st f = m.failWith c.stamp St.invalidOpcode := if_pos hplot

variable (hplot : c.plot = 0)
include hplot

theorem Mach.attachment_remote (hrem : m.remote c.sqe.nsid.toNat = true) : m.attachment c st f = m.toMember c := by
  rw [Mach.attachment, if_neg (not_not.mpr hplot), if_pos hrem]

variable (hrem : m.remote c.sqe.nsid.toNat = false)
include hrem

theorem Mach.attachment_noNamespace (hgone : (m.ns c.sqe.nsid.toNat).exists_ = false ∨ m.deletedBefore c = true) :
    m.attachment c st f = m.failWith c.stamp St.invalidNs := by
  rw [Mach.attachment, if_neg (not_not.mpr hplot), if_neg (by simp [hrem]), if_pos hgone]

variable (hthere : ¬((m.ns c.sqe.nsid.toNat).exists_ = false ∨ m.deletedBefore c = true))
include hthere

theorem Mach.attachment_badList (hlist : ctrlListOk c.sqe.data = false) :
    m.attachment c st f = m.failWith c.stamp St.ctrlListInvalid := by
  rw [Mach.attachment, if_neg (not_not.mpr hplot), if_neg (by simp [hrem]), if_neg hthere, if_pos (by simp [hlist])]

variable (hlist : ctrlListOk c.sqe.data = true)
include hlist

/-- One plot that cannot be attached or detached fails the whole command. -/
theorem Mach.attachment_refused {status : Status}
    (hone : (ctrlList c.sqe.data).findSome? (st m c.sqe.nsid.toNat) = some status) :
    m.attachment c st f = m.failWith c.stamp status := by
  rw [Mach.attachment, if_neg (not_not.mpr hplot), if_neg (by simp [hrem]), if_neg hthere, if_neg (by simp [hlist]), hone]

theorem Mach.attachment_all (hall : (ctrlList c.sqe.data).findSome? (st m c.sqe.nsid.toNat) = none) :
    m.attachment c st f =
      (((ctrlList c.sqe.data).foldl (fun m p => f c.sqe.nsid.toNat p m) m).updCmd c.stamp
        fun k => { k with committed := true }).succeed c.stamp := by
  rw [Mach.attachment, if_neg (not_not.mpr hplot), if_neg (by simp [hrem]), if_neg hthere, if_neg (by simp [hlist]), hall]

end

theorem Mach.detachTask_undefined (hplot : c.plot = 0) (hsel : Word.bits c.sqe.cdw10 3 0 ≠ 1) :
    m.detachTask stamp c = m.failWith stamp St.invalidField := if_pos ⟨hplot, hsel⟩

theorem Mach.detachTask_otherPlot (hplot : c.plot ≠ 0) : m.detachTask stamp c = m.failWith c.stamp St.invalidOpcode := by
  rw [Mach.detachTask, if_neg (fun h => hplot h.1), Mach.attachment_otherPlot _ _ hplot]

theorem Mach.detachTask_detaches (hsel : Word.bits c.sqe.cdw10 3 0 = 1) :
    m.detachTask stamp c = m.attachment c Mach.detachStatus Mach.detachPlot := if_neg fun h => h.2 hsel

end

/-! ## The commands -/

section
variable {s : State} {stamp : Nat} {c : Cmd}

section
variable {opc : Nat} (h : s.m.AdminActs stamp opc c) {i : Instr} {f : Cmd → Mach → Mach}
  (hruns : exec i s = .next (s.withM (s.m.admin stamp opc f)))
include h hruns

/-- The command that `i` ends has the effect that its row gives it. -/
theorem Mach.AdminActs.effect (hbuf : bufferOps.contains opc = false ∨ c.sqe.buf = .prp ∨ c.sqe.buf = .sgl) {x : Mach}
    (hf : f c (s.m.dropTasks stamp) = x) : exec i s = .next (s.withM (x.actsOnce stamp)) := by
  rw [hruns, h.admin_acts hbuf, hf]

theorem Mach.AdminActs.badBuffer (hop : bufferOps.contains opc = true) (hbuf : c.sqe.buf = .malformed ∨ c.sqe.buf = .sglUnsupported) :
    exec i s = .next (s.withM (if c.sqe.buf = .malformed then (s.m.dropTasks stamp).plotError c.plot 2
      else (s.m.dropTasks stamp).failWith stamp St.badSglSegment)) := by
  rw [hruns, h.admin_badBuffer hop hbuf]

end

end

/-- Settles O28: the task of each command has its effect (`Mach.AdminActs.effect`), and each branch of the effect is a lemma of its own. -/
theorem namespaceCommandsComplete : Obligations.NamespaceCommandsComplete := by
  refine ⟨?management, ?attachment, ?format⟩
  case management =>
    intro s stamp c hcmd hturn hopc m i n acts bad
    have h : s.m.AdminActs stamp 0x0D c := ⟨hcmd, hturn, congrArg BitVec.toNat hopc⟩
    have hcreate {x : Mach} (hsel : Word.bits c.sqe.cdw10 3 0 ≠ 1) (hbuf : c.sqe.buf = .prp ∨ c.sqe.buf = .sgl)
        (hx : m.createTask stamp c = x) : exec (.namespaceCreate stamp) s = acts x :=
      h.effect (namespaceCreate_runs h hsel) (.inr hbuf) hx
    have hdelete {x : Mach} (hsel : Word.bits c.sqe.cdw10 3 0 = 1) (hbuf : c.sqe.buf = .prp ∨ c.sqe.buf = .sgl)
        (hx : m.deleteTask s.cfg stamp c = x) : exec (.namespaceDelete stamp) s = acts x :=
      h.effect (namespaceDelete_runs h hsel) (.inr hbuf) hx
    refine ⟨fun hbad => ⟨fun hsel => h.badBuffer (namespaceCreate_runs h hsel) rfl hbad,
        fun hsel => h.badBuffer (namespaceDelete_runs h hsel) rfl hbad⟩,
      fun hbuf hplot => ⟨fun hsel => hcreate hsel hbuf (Mach.createTask_otherPlot hplot),
        fun hsel => hdelete hsel hbuf (Mach.deleteTask_otherPlot hplot)⟩,
      fun hbuf hplot => ⟨fun h0 h1 => hcreate h1 hbuf (Mach.createTask_undefined hplot h0), fun h0 hmem => ?member, fun h0 hown => ?own,
        fun h1 hrem => hdelete h1 hbuf (Mach.deleteTask_remote hplot hrem),
        fun h1 hrem hgone => hdelete h1 hbuf (Mach.deleteTask_noNamespace hplot hrem hgone),
        fun h1 hrem hthere => ⟨fun hfrozen => hdelete h1 hbuf (Mach.deleteTask_frozen hplot hrem hthere hfrozen),
          fun hfree => hdelete h1 hbuf (Mach.deleteTask_marks hplot hrem hthere hfree)⟩⟩⟩
    case member =>
      have hsel : Word.bits c.sqe.cdw10 3 0 ≠ 1 := by omega
      exact ⟨fun hst => hcreate hsel hbuf (Mach.createTask_noMember hplot h0 hmem hst),
        fun hst => hcreate hsel hbuf (Mach.createTask_memberUp hplot h0 hmem hst),
        fun hst => hcreate hsel hbuf (Mach.createTask_memberDown hplot h0 hmem hst)⟩
    case own =>
      have hsel : Word.bits c.sqe.cdw10 3 0 ≠ 1 := by omega
      exact ⟨fun st hns => hcreate hsel hbuf (Mach.createTask_refused hplot h0 hown hns),
        fun k x hns => hcreate hsel hbuf (Mach.createTask_makes hplot h0 hown hns)⟩
  case attachment =>
    intro s stamp c hcmd hturn hopc m i l sel gone acts bad
    have h : s.m.AdminActs stamp 0x15 c := ⟨hcmd, hturn, congrArg BitVec.toNat hopc⟩
    have hattach {x : Mach} (hsel : sel = 0) (hbuf : c.sqe.buf = .prp ∨ c.sqe.buf = .sgl)
        (hx : m.attachment c Mach.attachStatus Mach.attachPlot = x) : exec (.namespaceAttach stamp) s = acts x :=
      h.effect (namespaceAttach_runs h hsel) (.inr hbuf) hx
    have hother {x : Mach} (hsel : sel ≠ 0) (hbuf : c.sqe.buf = .prp ∨ c.sqe.buf = .sgl)
        (hx : m.detachTask stamp c = x) : exec (.namespaceDetach stamp) s = acts x :=
      h.effect (namespaceDetach_runs h hsel) (.inr hbuf) hx
    have hdetach {x : Mach} (hsel : sel = 1) (hbuf : c.sqe.buf = .prp ∨ c.sqe.buf = .sgl)
        (hx : m.attachment c Mach.detachStatus Mach.detachPlot = x) : exec (.namespaceDetach stamp) s = acts x :=
      hother (by omega) hbuf ((Mach.detachTask_detaches hsel).trans hx)
    refine ⟨fun hbad => ⟨fun hsel => h.badBuffer (namespaceAttach_runs h hsel) rfl hbad,
        fun hsel => h.badBuffer (namespaceDetach_runs h hsel) rfl hbad⟩,
      fun hbuf hplot => ⟨fun hsel => hattach hsel hbuf (Mach.attachment_otherPlot _ _ hplot),
        fun hsel => hother hsel hbuf (Mach.detachTask_otherPlot hplot)⟩,
      fun hbuf hplot => ⟨fun h0 h1 => hother h0 hbuf (Mach.detachTask_undefined hplot h1),
        fun hrem => ?remote, fun hrem hgone => ?gone, fun hrem hthere hlist => ?badList, fun hrem hthere hlist => ?listed⟩⟩
    case remote =>
      exact ⟨fun hsel => hattach hsel hbuf (Mach.attachment_remote _ _ hplot hrem),
        fun hsel => hdetach hsel hbuf (Mach.attachment_remote _ _ hplot hrem)⟩
    case gone =>
      exact ⟨fun hsel => hattach hsel hbuf (Mach.attachment_noNamespace _ _ hplot hrem hgone),
        fun hsel => hdetach hsel hbuf (Mach.attachment_noNamespace _ _ hplot hrem hgone)⟩
    case badList =>
      exact ⟨fun hsel => hattach hsel hbuf (Mach.attachment_badList _ _ hplot hrem hthere hlist),
        fun hsel => hdetach hsel hbuf (Mach.attachment_badList _ _ hplot hrem hthere hlist)⟩
    case listed =>
      exact ⟨fun st hsel hone => hattach hsel hbuf (Mach.attachment_refused _ _ hplot hrem hthere hlist hone),
        fun hsel hall => hattach hsel hbuf (Mach.attachment_all _ _ hplot hrem hthere hlist hall),
        fun st hsel hone => hdetach hsel hbuf (Mach.attachment_refused _ _ hplot hrem hthere hlist hone),
        fun hsel hall => hdetach hsel hbuf (Mach.attachment_all _ _ hplot hrem hthere hlist hall)⟩
  case format =>
    intro s stamp c hcmd hturn hopc m i gone acts
    have h : s.m.AdminActs stamp 0x80 c := ⟨hcmd, hturn, congrArg BitVec.toNat hopc⟩
    have hformat {x : Mach} (hx : m.formatTask s.cfg stamp c = x) : exec (.formatNvm stamp) s = acts x :=
      h.effect formatNvm_runs (.inl rfl) hx
    exact ⟨fun hplot => hformat (Mach.formatTask_otherPlot hplot), fun hplot hses => hformat (Mach.formatTask_undefined hplot hses),
      fun hplot hses hrem => hformat (Mach.formatTask_remote hplot hses hrem),
      fun hplot hses hrem hgone => hformat (Mach.formatTask_noNamespace hplot hses hrem hgone),
      fun hplot hses hrem hthere => hformat (Mach.formatTask_locks hplot hses hrem hthere)⟩

end Sys2Proof.Machine

/-! # Fetch of a submission queue's entry (04 R179 to R183, R198; 01 R31) -/

namespace Sys2Proof.Machine

/-! ## What a submission queue holds after a write to one -/

section
variable {m : Mach} {p q p' q' : Nat} {f : Sq → Sq}

theorem Mach.updSq_sqs_wf (hwf : Tbl.wf Sq.init m.front.sqs = true) : Tbl.wf Sq.init (m.updSq p q f).front.sqs = true :=
  Tbl.upd_wf Sq.init (qkey p q) f m.front.sqs hwf

theorem Mach.updSq_sq_self (hwf : Tbl.wf Sq.init m.front.sqs = true) : (m.updSq p q f).sq p q = f (m.sq p q) :=
  Tbl.get_put_self Sq.init (qkey p q) (f (m.sq p q)) 0 m.front.sqs hwf

theorem Mach.updSq_sq_of_ne (hwf : Tbl.wf Sq.init m.front.sqs = true) (hne : qkey p' q' ≠ qkey p q) :
    (m.updSq p q f).sq p' q' = m.sq p' q' :=
  Tbl.get_put_ne Sq.init (qkey p q) (qkey p' q') (f (m.sq p q)) hne 0 m.front.sqs hwf

end

/-! ## What a placed task leaves alone -/

section
variable (m : Mach) (k : Task)

@[simp] theorem Mach.place_clk : (m.place k).clk = m.clk := by rw [Mach.place_only]
@[simp] theorem Mach.place_front : (m.place k).front = m.front := by rw [Mach.place_only]
@[simp] theorem Mach.place_med : (m.place k).med = m.med := by rw [Mach.place_only]
@[simp] theorem Mach.place_stg : (m.place k).stg = m.stg := by rw [Mach.place_only]

end

/-! ## The launch of a fetched command -/

section
variable (m : Mach) (c : Cmd)

/-- What a Flush covers is set when it is fetched; every other field of a command stays (04 R197). -/
theorem Mach.flushMark_only : m.flushMark c = { c with cover := (m.flushMark c).cover, flushKib := (m.flushMark c).flushKib } := by
  unfold Mach.flushMark
  split <;> rfl

@[simp] theorem Mach.flushMark_plot : (m.flushMark c).plot = c.plot := by rw [m.flushMark_only c]
@[simp] theorem Mach.flushMark_sq : (m.flushMark c).sq = c.sq := by rw [m.flushMark_only c]
@[simp] theorem Mach.flushMark_stamp : (m.flushMark c).stamp = c.stamp := by rw [m.flushMark_only c]
@[simp] theorem Mach.flushMark_isFlush : (m.flushMark c).isFlush = c.isFlush := by rw [m.flushMark_only c, Cmd.isFlush, Cmd.isFlush]

/-- A Flush that is fetched while the volatile cache is on holds its queue (04 R198). -/
def Mach.holdFlush (c : Cmd) (m : Mach) : Mach :=
  if c.isFlush && m.power.vwc then m.updSq c.plot c.sq fun q => { q with flushStamp := c.stamp } else m

theorem Mach.holdFlush_only : m.holdFlush c = { m with front := { m.front with sqs := (m.holdFlush c).front.sqs } } := by
  unfold Mach.holdFlush
  split <;> rfl

/-- The front-end task of a command (01 R16, R17). -/
def Mach.frontTask (c : Cmd) (m : Mach) : Task :=
  { mkTask .frontEnd (m.frontLane (c.sq = 0) c.sqe).1 (m.frontLane (c.sq = 0) c.sqe).2 with stamp := c.stamp }

theorem Mach.launch_eq : m.launch c =
    ((m.holdFlush (m.flushMark c)).onFront fun f => { f with inflight := f.inflight ++ [m.flushMark c] }).place
      ((m.holdFlush (m.flushMark c)).frontTask (m.flushMark c)) := rfl

@[simp] theorem Mach.launch_clk : (m.launch c).clk = m.clk := by rw [Mach.launch_eq, Mach.place_clk, Mach.onFront_clk, Mach.holdFlush_only]
@[simp] theorem Mach.launch_med : (m.launch c).med = m.med := by rw [Mach.launch_eq, Mach.place_med, Mach.onFront_med, Mach.holdFlush_only]
@[simp] theorem Mach.launch_stg : (m.launch c).stg = m.stg := by rw [Mach.launch_eq, Mach.place_stg, Mach.onFront_stg, Mach.holdFlush_only]

theorem Mach.launch_front : (m.launch c).front =
    { m.front with sqs := (m.holdFlush (m.flushMark c)).front.sqs, inflight := m.front.inflight ++ [m.flushMark c] } := by
  rw [Mach.launch_eq, Mach.place_front, Mach.onFront_front, Mach.holdFlush_only]

theorem Mach.launch_sq (p q : Nat) : (m.launch c).sq p q = (m.holdFlush (m.flushMark c)).sq p q := by
  rw [Mach.sq, Mach.launch_front]
  rfl

variable {m c} (hwf : Tbl.wf Sq.init m.front.sqs = true)
include hwf

theorem Mach.holdFlush_sq_self : (m.holdFlush c).sq c.plot c.sq =
    { m.sq c.plot c.sq with flushStamp := if c.isFlush && m.power.vwc then c.stamp else (m.sq c.plot c.sq).flushStamp } := by
  unfold Mach.holdFlush
  split
  · rw [Mach.updSq_sq_self hwf]
  · rfl

theorem Mach.holdFlush_sq_of_ne {p q : Nat} (hne : qkey p q ≠ qkey c.plot c.sq) : (m.holdFlush c).sq p q = m.sq p q := by
  unfold Mach.holdFlush
  split
  · exact Mach.updSq_sq_of_ne hwf hne
  · rfl

end

/-! ## One fetched entry -/

section
variable (m : Mach) (p q : Nat) (e : Sqe)

/-- The command of the next entry of a queue (04 R182, 01 R31). -/
def Mach.entryCmd (p q : Nat) (e : Sqe) (m : Mach) : Cmd :=
  newCmd m.front.nextStamp p q (m.sq p q).cq (m.sq p q).nextSeq m.clk.now e

/-- The identifier of the entry is in use on its queue (04 R177). -/
def Mach.idClash (p q : Nat) (e : Sqe) (m : Mach) : Bool :=
  m.front.inflight.any fun k => k.plot == p && k.sq == q && k.sqe.cid == e.cid

/-- A queue with its head and its next sequence number moved on by one entry. -/
def Sq.takeNext (x : Sq) : Sq := { x with head := (x.head + 1) % x.size, nextSeq := x.nextSeq + 1 }

/-- An entry taken: its queue and the next stamp move on. -/
def Mach.takeEntry (p q : Nat) (m : Mach) : Mach :=
  (m.updSq p q Sq.takeNext).onFront fun f => { f with nextStamp := f.nextStamp + 1 }

section
variable {m p q} (hwf : Tbl.wf Sq.init m.front.sqs = true)
include hwf

theorem Mach.takeEntry_sqs_wf : Tbl.wf Sq.init (m.takeEntry p q).front.sqs = true := Mach.updSq_sqs_wf (f := Sq.takeNext) hwf

theorem Mach.takeEntry_sq_self : (m.takeEntry p q).sq p q = (m.sq p q).takeNext := Mach.updSq_sq_self (f := Sq.takeNext) hwf

theorem Mach.takeEntry_sq_of_ne {p' q' : Nat} (hne : qkey p' q' ≠ qkey p q) : (m.takeEntry p q).sq p' q' = m.sq p' q' :=
  Mach.updSq_sq_of_ne (f := Sq.takeNext) hwf hne

end

theorem Mach.refuseEntry_idle {m : Mach} (h : m.power.entering = none) (cause : Nat) : m.refuseEntry cause = m := by
  rw [Mach.refuseEntry, h]

variable {m} (h : m.power.entering = none)
include h

theorem Mach.fetchOne_eq : m.fetchOne p q e =
    if m.idClash p q e then
      ((m.takeEntry p q).onFront fun f =>
        { f with inflight := f.inflight ++ [{ m.entryCmd p q e with stage := .done, status := St.idConflict }] }).record 0x0408 p 0
    else (m.takeEntry p q).launch (m.entryCmd p q e) := by
  have hidle : (m.takeEntry p q).refuseEntry 3 = m.takeEntry p q := Mach.refuseEntry_idle (m := m.takeEntry p q) h 3
  rw [← hidle]
  rfl

variable {p q e}

theorem Mach.fetchOne_clash (hc : m.idClash p q e = true) : m.fetchOne p q e =
    ((m.takeEntry p q).onFront fun f =>
      { f with inflight := f.inflight ++ [{ m.entryCmd p q e with stage := .done, status := St.idConflict }] }).record 0x0408 p 0 := by
  rw [Mach.fetchOne_eq p q e h, if_pos hc]

theorem Mach.fetchOne_launch (hc : m.idClash p q e = false) :
    m.fetchOne p q e = (m.takeEntry p q).launch (m.entryCmd p q e) := by
  rw [Mach.fetchOne_eq p q e h, if_neg (by simp [hc])]

/-- Whether the command is launched or refused for its identifier, it goes last in flight with the queue's next numbers. -/
theorem Mach.fetchOne_inflight : ∃ c : Cmd, (m.fetchOne p q e).front.inflight = m.front.inflight ++ [c] ∧ c.stamp = m.front.nextStamp ∧
    c.seq = (m.sq p q).nextSeq ∧ c.plot = p ∧ c.sq = q ∧ c.cq = (m.sq p q).cq ∧ c.sqe = e := by
  cases hc : m.idClash p q e
  case true =>
    rw [Mach.fetchOne_clash h hc, Mach.record_front]
    exact ⟨_, rfl, rfl, rfl, rfl, rfl, rfl, rfl⟩
  case false =>
    rw [Mach.fetchOne_launch h hc, Mach.launch_front, Mach.flushMark_only]
    exact ⟨_, rfl, rfl, rfl, rfl, rfl, rfl, rfl⟩

theorem Mach.fetchOne_frame : (m.fetchOne p q e).front.nextStamp = m.front.nextStamp + 1 ∧ (m.fetchOne p q e).clk = m.clk ∧
    (m.fetchOne p q e).med = m.med ∧ (m.fetchOne p q e).stg = m.stg ∧ (m.fetchOne p q e).front.out = m.front.out := by
  cases hc : m.idClash p q e
  case true =>
    rw [Mach.fetchOne_clash h hc, Mach.record_front, Mach.record_clk, Mach.record_med, Mach.record_stg]
    exact ⟨rfl, rfl, rfl, rfl, rfl⟩
  case false =>
    rw [Mach.fetchOne_launch h hc, Mach.launch_front, Mach.launch_clk, Mach.launch_med, Mach.launch_stg]
    exact ⟨rfl, rfl, rfl, rfl, rfl⟩

variable (hwf : Tbl.wf Sq.init m.front.sqs = true)
include hwf

theorem Mach.fetchOne_sq_self : (m.fetchOne p q e).sq p q =
    { (m.sq p q).takeNext with
      flushStamp := if ((m.entryCmd p q e).isFlush && m.power.vwc) = true ∧ m.idClash p q e = false then m.front.nextStamp
        else (m.sq p q).flushStamp } := by
  have htake := Mach.takeEntry_sq_self (p := p) (q := q) hwf
  cases hc : m.idClash p q e
  case true =>
    rw [Mach.fetchOne_clash h hc, Mach.sq, Mach.record_front, if_neg (by simp)]
    exact htake
  case false =>
    have hhold := Mach.holdFlush_sq_self (c := (m.takeEntry p q).flushMark (m.entryCmd p q e))
      (Mach.takeEntry_sqs_wf (p := p) (q := q) hwf)
    rw [Mach.flushMark_plot, Mach.flushMark_sq, Mach.flushMark_stamp, Mach.flushMark_isFlush] at hhold
    rw [Mach.fetchOne_launch h hc, Mach.launch_sq]
    refine hhold.trans ?_
    rw [show (m.takeEntry p q).sq (m.entryCmd p q e).plot (m.entryCmd p q e).sq = _ from htake]
    simp only [and_true]
    rfl

theorem Mach.fetchOne_sq_of_ne {p' q' : Nat} (hne : qkey p' q' ≠ qkey p q) : (m.fetchOne p q e).sq p' q' = m.sq p' q' := by
  have htake := Mach.takeEntry_sq_of_ne hwf hne
  cases hc : m.idClash p q e
  case true =>
    rw [Mach.fetchOne_clash h hc, Mach.sq, Mach.record_front]
    exact htake
  case false =>
    rw [Mach.fetchOne_launch h hc, Mach.launch_sq, Mach.holdFlush_sq_of_ne (Mach.takeEntry_sqs_wf hwf), htake]
    rwa [Mach.flushMark_plot, Mach.flushMark_sq]

end

/-- Settles O2: the command in flight, the queue's numbers and what a fetch leaves alone are a lemma each, for a command that is launched
and for one whose identifier is in use. -/
theorem fetchTakesNextNumbers : Obligations.FetchTakesNextNumbers := by
  intro m p q e h t clash flush hold
  obtain ⟨hstamp, hclk, hmed, hstg, hout⟩ := Mach.fetchOne_frame (p := p) (q := q) (e := e) h
  exact ⟨Mach.fetchOne_inflight h, hstamp,
    fun hwf => ⟨Mach.fetchOne_sq_self h hwf, fun p' q' hne => Mach.fetchOne_sq_of_ne h hwf hne⟩, hclk, hmed, hstg, hout⟩

/-! ## HUB_FETCH_CFG (04 R183) -/

section
variable (s : State) (v : Word)

theorem exec_registerWrite_device_eq (o : Nat) (be : BitVec 4) :
    exec (.registerWrite .device o v be) s = .next (s.bar2Write o v be) := rfl

theorem Mach.hubReg_fetchCfg (m : Mach) (c : Cfg) : m.hubReg c 0x364 = some (fields [(c.admMax, 8), (c.burst, 0)]) := by
  rw [Mach.hubReg, if_neg (by decide), if_pos (by decide)]
  rfl

/-- HUB_FETCH_CFG is a guarded register of the hub block with no row of its own. -/
theorem State.bar2Write_fetchCfg (be : BitVec 4) :
    s.bar2Write 0x364 v be = s.barWrite 0x364 true true be (State.hubWrite 0x364 v) := by
  have hreg : (s.m.placeReg s.cfg (.hub 0x364)).isSome = true := by rw [Mach.placeReg, Mach.hubReg_fetchCfg]; rfl
  rw [State.bar2Write, if_neg (by decide), show placeOf (0x364 / 4 * 4) = .hub 0x364 from rfl]
  simp only [hreg, if_true]
  rfl

theorem Word.bits_lt (hi lo : Nat) : Word.bits v hi lo < 2 ^ (hi + 1 - lo) := Nat.mod_lt _ (Nat.two_pow_pos _)

end

/-- Settles O14: the write is of a register of the hub block, which keeps the values in range and leaves out a write with another
(`State.hubWrite`). -/
theorem fetchCfgFollowsItsRule : Obligations.FetchCfgFollowsItsRule := by
  refine ⟨fun s v hup hguard => ?write, fun v => ?width, Mach.hubReg_fetchCfg, fun _ => ⟨rfl, rfl⟩⟩
  case write =>
    rw [exec_registerWrite_device_eq, State.bar2Write_fetchCfg, State.barWrite_full hup rfl (.inr hguard)]
    rfl
  case width => exact Nat.le_of_lt_succ (Word.bits_lt v 15 8)

/-! ## IO_FETCH and ADMIN_FETCH (04 R179 to R181) -/

section
variable {s : State}

theorem exec_ioFetch_eq (entries : List Sqe) : exec (.ioFetch entries) s = execIoFetch entries s := rfl
theorem exec_adminFetch_eq (entry : Sqe) : exec (.adminFetch entry) s = execAdminFetch entry s := rfl

theorem ioFetch_visits (entries : List Sqe) {p : Nat} (hready : s.m.adminReady s.cfg = false)
    (hnext : nextPlot s.m.front.lastIo (s.m.ioFetchable.map (fun k => k / 1024)) = some p) :
    let credit := Tbl.get 0 p s.m.front.credit + (s.m.plot p).quota.fetchW
    let m := Mach.visit s.cfg p credit entries
      (s.m.onFront fun f => { f with lastIo := p, credit := Tbl.put 0 p credit f.credit })
    exec (.ioFetch entries) s = .next (s.withM
      (if m.ioFetchable.any (fun k => k / 1024 == p) then m
       else m.onFront fun f => { f with credit := Tbl.put 0 p 0 f.credit })) := by
  rw [exec_ioFetch_eq, execIoFetch, State.on_eq_withM, if_neg (by simp [hready])]
  simp only [hnext]

theorem adminFetch_fetches (entry : Sqe) {p : Nat} (hroom : s.m.adminCount < s.cfg.admMax)
    (hnext : nextPlot s.m.front.lastAdm s.m.admFetchable = some p) :
    exec (.adminFetch entry) s = .next (s.withM ((s.m.onFront fun f => { f with lastAdm := p }).fetchOne p 0 entry)) := by
  rw [exec_adminFetch_eq, execAdminFetch, State.on_eq_withM, if_neg (by omega)]
  simp only [hnext]

end

/-- Settles O1: where a queue is fetchable, each command takes the branch of its search for the next plot that finds one. -/
theorem fetchCommandsComplete : Obligations.FetchCommandsComplete :=
  ⟨fun _ entries _ => ioFetch_visits entries, fun _ entry _ => adminFetch_fetches entry⟩

end Sys2Proof.Machine

/-! # Admin commands on queues, events, aborts and self-tests (04 R171 to R174, R204 to R214; 14 R609) -/

namespace Sys2Proof.Machine

/-! ## ABORT (04 R206 to R210) -/

section
variable {s : State} {stamp : Nat}

/-- The effect of an admin command that brings the clock forward first. -/
theorem Mach.AdminActs.effectAt {n : Mach} {opc : Nat} {c : Cmd} (h : n.AdminActs stamp opc c) {i : Instr} {f : Cmd → Mach → Mach}
    (hruns : exec i s = .next (s.withM (n.admin stamp opc f)))
    (hbuf : bufferOps.contains opc = false ∨ c.sqe.buf = .prp ∨ c.sqe.buf = .sgl) {x : Mach} (hf : f c (n.dropTasks stamp) = x) :
    exec i s = .next (s.withM (x.actsOnce stamp)) := by
  rw [hruns, h.admin_acts hbuf, hf]

/-- The effect of an Abort (04 R206 to R210; 10 R477). -/
def Mach.abortTask (stamp : Nat) (c : Cmd) (m : Mach) : Mach :=
  if 16 ≤ m.abortsBefore c then m.failWith stamp St.abortLimit
  else match m.abortTarget c with
    | none => m.abortEnds c false
    | some k =>
      match m.fwd? k.stamp with
      | some f => (m.cancelFwd f 0).setStage stamp .media
      | none => (m.squash k.stamp (some St.abortRequested)).abortEnds c true

section
variable {m : Mach} {c : Cmd}

theorem Mach.abortTask_limit (h : 16 ≤ m.abortsBefore c) : m.abortTask stamp c = m.failWith stamp St.abortLimit := if_pos h

variable (hroom : m.abortsBefore c < 16)
include hroom

theorem Mach.abortTask_missed (hnone : m.abortTarget c = none) : m.abortTask stamp c =
    (m.finish c.stamp Status.ok 1).record 0x0401 (Word.bits c.sqe.cdw10 31 16) 0 := by
  rw [Mach.abortTask, if_neg (Nat.not_le_of_lt hroom), hnone]
  rfl

theorem Mach.abortTask_forwarded {k : Cmd} {f : Fwd} (hk : m.abortTarget c = some k) (hf : m.fwd? k.stamp = some f) :
    m.abortTask stamp c = (m.cancelFwd f 0).setStage stamp .media := by
  rw [Mach.abortTask, if_neg (Nat.not_le_of_lt hroom), hk]
  simp only [hf]

theorem Mach.abortTask_caught {k : Cmd} (hk : m.abortTarget c = some k) (hf : m.fwd? k.stamp = none) :
    m.abortTask stamp c = ((m.squash k.stamp (some St.abortRequested)).finish c.stamp Status.ok 0).record 0x0400
      ((m.squash k.stamp (some St.abortRequested)).usSince c.fetchedAt) 0 := by
  rw [Mach.abortTask, if_neg (Nat.not_le_of_lt hroom), hk]
  simp only [hf]
  rfl

end

end

/-! ## DEVICE_SELF_TEST_END and INVALID_COMMAND_OPCODE (14 R609; 04 R212, R214) -/

section
variable {s : State} {stamp : Nat}

theorem exec_deviceSelfTestEnd_eq : exec .deviceSelfTestEnd s = .next (s.withM s.m.endSelfTest) := rfl
theorem exec_invalidCommandOpcode_eq : exec (.invalidCommandOpcode stamp) s = execInvalidCommandOpcode stamp s := rfl

theorem Mach.endSelfTest_idle {m : Mach} (h : m.hub.selfTest = 0) : m.endSelfTest = m := if_pos h

/-- A self-test that ends gives the images back to the journal (14 R609). -/
theorem Mach.endSelfTest_running {m : Mach} (h : m.hub.selfTest ≠ 0) : m.endSelfTest =
    (m.onHub fun h => { h with selfTest := 0 }).onYbk fun y => { y with mode := if y.mode = 2 then 0 else y.mode } := if_neg h

theorem invalidCommandOpcode_fails {c : Cmd} (hcmd : s.m.cmd? stamp = some c) (hfetched : c.stage = .fetched) (hop : c.opcodeOk = false) :
    exec (.invalidCommandOpcode stamp) s = .next (s.withM ((s.m.dropTasks stamp).failWith stamp St.invalidOpcode)) := by
  rw [exec_invalidCommandOpcode_eq, execInvalidCommandOpcode, State.on_eq_withM]
  simp only [hcmd, if_pos (And.intro hfetched hop)]

end

/-- Settles O25: the row of each command has its effect (`Mach.AdminActs.effect`), and each clause is a branch of it. -/
theorem queueAdminCommandsComplete : Obligations.QueueAdminCommandsComplete := by
  refine ⟨fun s stamp c hcmd hturn => ?rows, fun s stamp at_ c hcmd hopc => ?abort, fun s => ⟨fun h => ?idle, fun h => ?ends⟩,
    fun s stamp c => invalidCommandOpcode_fails⟩
  case rows =>
    intro m acts q
    refine ⟨fun hopc => ?createSq, fun hopc => ?createCq, fun hopc => ?deleteSq, fun hopc => ?deleteCq, fun hopc => ?event,
      fun hopc => ?selfTest⟩
    case createSq =>
      have h : s.m.AdminActs stamp 0x01 c := ⟨hcmd, hturn, congrArg BitVec.toNat hopc⟩
      exact ⟨fun st hst => h.effect rfl (.inl rfl) (by rw [hst]), fun hok => h.effect rfl (.inl rfl) (by rw [hok])⟩
    case createCq =>
      have h : s.m.AdminActs stamp 0x05 c := ⟨hcmd, hturn, congrArg BitVec.toNat hopc⟩
      exact ⟨fun st hst => h.effect rfl (.inl rfl) (by rw [hst]), fun hok => h.effect rfl (.inl rfl) (by rw [hok])⟩
    case deleteSq =>
      have h : s.m.AdminActs stamp 0x00 c := ⟨hcmd, hturn, congrArg BitVec.toNat hopc⟩
      exact ⟨fun hq => h.effect rfl (.inl rfl) (if_neg hq), fun hq => h.effect rfl (.inl rfl) (if_pos hq)⟩
    case deleteCq =>
      have h : s.m.AdminActs stamp 0x04 c := ⟨hcmd, hturn, congrArg BitVec.toNat hopc⟩
      exact ⟨fun hq => h.effect rfl (.inl rfl) (if_pos hq), fun hq =>
        ⟨fun hused => h.effect rfl (.inl rfl) ((if_neg hq).trans (if_pos hused)),
          fun hfree => h.effect rfl (.inl rfl) ((if_neg hq).trans (if_neg (by rw [hfree]; exact Bool.false_ne_true)))⟩⟩
    case event =>
      have h : s.m.AdminActs stamp 0x0C c := ⟨hcmd, hturn, congrArg BitVec.toNat hopc⟩
      exact ⟨fun hfull => h.effect rfl (.inl rfl) (if_pos hfull), fun hroom => h.effect rfl (.inl rfl) (if_neg (Nat.not_le_of_lt hroom))⟩
    case selfTest =>
      have h : s.m.AdminActs stamp 0x14 c := ⟨hcmd, hturn, congrArg BitVec.toNat hopc⟩
      intro stc
      exact ⟨fun hplot => h.effect rfl (.inl rfl) (if_neg hplot),
        fun hplot hend => h.effect rfl (.inl rfl) ((if_pos hplot).trans (if_pos hend)),
        fun hplot hend h1 h2 => h.effect rfl (.inl rfl) ((if_pos hplot).trans ((if_neg hend).trans (if_pos ⟨h1, h2⟩))),
        fun hplot hcode hruns => h.effect rfl (.inl rfl)
          ((if_pos hplot).trans ((if_neg (by omega)).trans ((if_neg (by omega)).trans (if_pos hruns)))),
        fun hplot hcode hidle => h.effect rfl (.inl rfl)
          ((if_pos hplot).trans ((if_neg (by omega)).trans ((if_neg (by omega)).trans (if_neg (not_not.mpr hidle)))))⟩
  case abort =>
    intro m acts
    have h : (s.m.advance at_).AdminActs stamp 0x08 c := ⟨hcmd, by rw [Mach.adminTurn, hopc]; rfl, congrArg BitVec.toNat hopc⟩
    have acting {x : Mach} (hx : m.abortTask stamp c = x) : exec (.abort stamp at_) s = acts x := h.effectAt rfl (.inl rfl) hx
    exact ⟨fun hlimit => acting (Mach.abortTask_limit hlimit), fun hroom hnone => acting (Mach.abortTask_missed hroom hnone),
      fun k f hroom hk hf => acting (Mach.abortTask_forwarded hroom hk hf), fun k hroom hk hf => acting (Mach.abortTask_caught hroom hk hf)⟩
  case idle =>
    rw [exec_deviceSelfTestEnd_eq, Mach.endSelfTest_idle h]
    rfl
  case ends => rw [exec_deviceSelfTestEnd_eq, Mach.endSelfTest_running h]

end Sys2Proof.Machine

/-! # Identify, Get Log Page and Get Features (04 R211, R212, R217 to R222; 02 R115; 03 R167) -/

namespace Sys2Proof.Machine

/-! ## Commands whose row is chosen by a field of the entry -/

section
variable {s : State} {stamp opc : Nat} {c : Cmd} (h : s.m.AdminActs stamp opc c) {i : Instr} {p : Cmd → Bool} {f : Cmd → Mach → Mach}
  (hruns : exec i s = .next (s.withM (s.m.adminIf stamp opc p f))) (hp : p c = true)
include h hruns hp

theorem Mach.AdminActs.effectIf (hbuf : bufferOps.contains opc = false ∨ c.sqe.buf = .prp ∨ c.sqe.buf = .sgl) {x : Mach}
    (hf : f c (s.m.dropTasks stamp) = x) : exec i s = .next (s.withM (x.actsOnce stamp)) :=
  h.effect (hruns.trans (by rw [h.adminIf_eq hp])) hbuf hf

theorem Mach.AdminActs.badBufferIf (hop : bufferOps.contains opc = true) (hbuf : c.sqe.buf = .malformed ∨ c.sqe.buf = .sglUnsupported) :
    exec i s = .next (s.withM (if c.sqe.buf = .malformed then (s.m.dropTasks stamp).plotError c.plot 2
      else (s.m.dropTasks stamp).failWith stamp St.badSglSegment)) :=
  h.badBuffer (hruns.trans (by rw [h.adminIf_eq hp])) hop hbuf

end

/-! ## What a command returns to the host -/

section
variable {m : Mach} {c : Cmd} (data : List Byte)

theorem Mach.replyIn_fits {n : Nat} (h : c.replyStatus n = none) : m.replyIn c n data = m.reply c.stamp data := by
  rw [Mach.replyIn, h]

theorem Mach.replyIn_refused {n : Nat} {st : Status} (h : c.replyStatus n = some st) : m.replyIn c n data = m.failWith c.stamp st := by
  rw [Mach.replyIn, h]

theorem Mach.logReply_fits (hoff : c.sqe.logOff % 4 = 0) (hlen : c.replyStatus c.sqe.logLen = none) :
    m.logReply c data = (m.reply c.stamp data).logRead c := by
  rw [Mach.logReply, if_neg (not_not.mpr hoff), hlen]

end

/-! ## Vendor log pages (04 R212, R217 to R220) -/

section
variable {s : State} {stamp lid : Nat} {c : Cmd} (h : s.m.AdminActs stamp 0x02 c) {i : Instr} {f : Cmd → Mach → Mach}
  (hruns : exec i s = .next (s.withM (s.m.vendorLog stamp lid f))) (hlid : c.sqe.lid = lid)
include h hruns hlid

theorem vendorLog_badBuffer (hbuf : c.sqe.buf = .malformed ∨ c.sqe.buf = .sglUnsupported) :
    exec i s = .next (s.withM (if c.sqe.buf = .malformed then (s.m.dropTasks stamp).plotError c.plot 2
      else (s.m.dropTasks stamp).failWith stamp St.badSglSegment)) :=
  h.badBufferIf hruns (beq_of_eq hlid) rfl hbuf

variable (hbuf : c.sqe.buf = .prp ∨ c.sqe.buf = .sgl)
include hbuf

theorem vendorLog_acts (hplot : c.plot = 0) {x : Mach} (hf : f c (s.m.dropTasks stamp) = x) :
    exec i s = .next (s.withM (x.actsOnce stamp)) :=
  h.effectIf hruns (beq_of_eq hlid) (.inr hbuf) ((if_pos hplot).trans hf)

theorem vendorLog_otherPlot (hplot : c.plot ≠ 0) :
    exec i s = .next (s.withM (((s.m.dropTasks stamp).failWith stamp St.invalidLog).actsOnce stamp)) :=
  h.effectIf hruns (beq_of_eq hlid) (.inr hbuf) (if_neg hplot)

end

section
variable (s : State) (stamp : Nat)

/-- The effect of a read of the Yield Book (04 R217; 14 R613, R614). -/
def Mach.yieldBookPage (stamp : Nat) (c : Cmd) (m : Mach) : Mach :=
  if c.sqe.lsi = 0 then m.logReply c (m.ybkWindow c.sqe.logOff c.sqe.logLen)
  else if c.sqe.lsi ≤ 7 ∧ m.hitch.role = 1 ∧ (m.member c.sqe.lsi).st = 1 then
    m.logReply c (m.memberBook c.sqe.lsi c.sqe.logOff c.sqe.logLen)
  else m.failWith stamp St.invalidField

/-- The effect of a read of the tally log (04 R218, R219). -/
def Mach.tallyPage (stamp : Nat) (c : Cmd) (m : Mach) : Mach :=
  if 1023 < c.sqe.lsi ∧ c.sqe.lsi ≠ 0xFFFF then m.failWith stamp St.invalidField
  else m.logReply c (window (m.tallyLog c.sqe.lsi) c.sqe.logOff c.sqe.logLen)

theorem getLogYieldBook_runs :
    exec (.getLogYieldBook stamp) s = .next (s.withM (s.m.vendorLog stamp 0xC0 (Mach.yieldBookPage stamp))) := rfl
theorem getLogTally_runs : exec (.getLogTally stamp) s = .next (s.withM (s.m.vendorLog stamp 0xC1 (Mach.tallyPage stamp))) := rfl
theorem getLogGridStats_runs : exec (.getLogGridStats stamp) s = .next (s.withM (s.m.vendorLog stamp 0xC2
    fun c m => m.logReply c (window (m.gridLog s.cfg) c.sqe.logOff c.sqe.logLen))) := rfl
theorem getLogBedHealth_runs : exec (.getLogBedHealth stamp) s = .next (s.withM (s.m.vendorLog stamp 0xC3
    fun c m => m.logReply c (window m.healthLog c.sqe.logOff c.sqe.logLen))) := rfl
theorem getLogHitchStatus_runs : exec (.getLogHitchStatus stamp) s = .next (s.withM (s.m.vendorLog stamp 0xC4
    fun c m => m.logReply c (window m.hitchLog c.sqe.logOff c.sqe.logLen))) := rfl

end

/-! ## Get Features (04 R222) -/

/-- The effect of Get Features (02 R114; 04 R199, R222 to R224; 11 R497). -/
def Mach.getFeaturesTask (cfg : Cfg) (stamp : Nat) (c : Cmd) (m : Mach) : Mach :=
  if !m.featOk c.sqe.fid || decide (3 < c.sqe.sel) then m.failWith stamp St.invalidField
  else if c.sqe.sel = 3 then m.finish stamp Status.ok (BitVec.ofNat 32 (featCaps c.sqe.fid))
  else if m.featRemote c then m.toMember c
  else match m.getFeature cfg c with
    | .inl st => m.failWith stamp st
    | .inr r => (m.updCmd stamp fun k => { k with outData := r.2 }).finish stamp Status.ok (BitVec.ofNat 32 r.1)

theorem getFeatures_runs (s : State) (stamp : Nat) :
    exec (.getFeatures stamp) s = .next (s.withM (s.m.admin stamp 0x0A (Mach.getFeaturesTask s.cfg stamp))) := rfl

section
variable {m : Mach} {cfg : Cfg} {stamp : Nat} {c : Cmd}

theorem Mach.getFeaturesTask_unsupported (h : m.featOk c.sqe.fid = false ∨ 3 < c.sqe.sel) :
    m.getFeaturesTask cfg stamp c = m.failWith stamp St.invalidField := if_pos (by simpa using h)

variable (hok : m.featOk c.sqe.fid = true)
include hok

theorem Mach.getFeaturesTask_capabilities (hsel : c.sqe.sel = 3) :
    m.getFeaturesTask cfg stamp c = m.finish stamp Status.ok (BitVec.ofNat 32 (featCaps c.sqe.fid)) := by
  rw [Mach.getFeaturesTask, if_neg (by simp [hok, hsel]), if_pos hsel]

variable (hsel : c.sqe.sel < 3)
include hsel

theorem Mach.getFeaturesTask_remote (hrem : m.featRemote c = true) : m.getFeaturesTask cfg stamp c = m.toMember c := by
  rw [Mach.getFeaturesTask, if_neg (by simp [hok, hsel.le]), if_neg hsel.ne, if_pos hrem]

variable (hrem : m.featRemote c = false)
include hrem

theorem Mach.getFeaturesTask_fails {st : Status} (hget : m.getFeature cfg c = .inl st) :
    m.getFeaturesTask cfg stamp c = m.failWith stamp st := by
  rw [Mach.getFeaturesTask, if_neg (by simp [hok, hsel.le]), if_neg hsel.ne, if_neg (by simp [hrem]), hget]

theorem Mach.getFeaturesTask_returns {v : Nat} {data : List Byte} (hget : m.getFeature cfg c = .inr (v, data)) :
    m.getFeaturesTask cfg stamp c =
      (m.updCmd stamp fun k => { k with outData := data }).finish stamp Status.ok (BitVec.ofNat 32 v) := by
  rw [Mach.getFeaturesTask, if_neg (by simp [hok, hsel.le]), if_neg hsel.ne, if_neg (by simp [hrem]), hget]

end

/-- Settles O26: each row has its effect (`Mach.AdminActs.effect`), and each clause is a branch of it. -/
theorem dataAdminCommandsComplete : Obligations.DataAdminCommandsComplete := by
  refine ⟨fun s stamp c hcmd hturn => ?rows, fun m c data hoff hlen => Mach.logReply_fits data hoff hlen⟩
  intro m acts bad cns away ret
  refine ⟨fun hbad => ⟨fun hopc => ?badIdentify, fun hopc => ?badFeatures, fun hopc => ?badLog⟩,
    fun hbuf => ⟨fun hopc => ?identify, fun hopc => ?log, fun hopc => ?features⟩⟩
  case badIdentify =>
    have h : s.m.AdminActs stamp 0x06 c := ⟨hcmd, hturn, congrArg BitVec.toNat hopc⟩
    exact h.badBuffer rfl rfl hbad
  case badFeatures =>
    have h : s.m.AdminActs stamp 0x0A c := ⟨hcmd, hturn, congrArg BitVec.toNat hopc⟩
    exact h.badBuffer rfl rfl hbad
  case badLog =>
    have h : s.m.AdminActs stamp 0x02 c := ⟨hcmd, hturn, congrArg BitVec.toNat hopc⟩
    exact ⟨fun hlid => h.badBufferIf rfl (by rw [hlid]; rfl) rfl hbad,
      fun hlid => vendorLog_badBuffer h (getLogYieldBook_runs ..) hlid hbad, fun hlid => vendorLog_badBuffer h (getLogTally_runs ..) hlid hbad,
      fun hlid => vendorLog_badBuffer h (getLogGridStats_runs ..) hlid hbad, fun hlid => vendorLog_badBuffer h (getLogBedHealth_runs ..) hlid hbad,
      fun hlid => vendorLog_badBuffer h (getLogHitchStatus_runs ..) hlid hbad⟩
  case identify =>
    have h : s.m.AdminActs stamp 0x06 c := ⟨hcmd, hturn, congrArg BitVec.toNat hopc⟩
    exact ⟨fun haway => h.effect rfl (.inr hbuf) (if_pos haway),
      fun st hhere hdata => h.effect rfl (.inr hbuf) ((if_neg hhere).trans (by rw [hdata])),
      fun data hhere hdata =>
        ⟨fun hfits => h.effect rfl (.inr hbuf) ((if_neg hhere).trans (by rw [hdata]; exact Mach.replyIn_fits data hfits)),
          fun st hst => h.effect rfl (.inr hbuf) ((if_neg hhere).trans (by rw [hdata]; exact Mach.replyIn_refused data hst))⟩⟩
  case log =>
    have h : s.m.AdminActs stamp 0x02 c := ⟨hcmd, hturn, congrArg BitVec.toNat hopc⟩
    refine ⟨fun st hlid hlog => h.effectIf rfl (by rw [hlid]; rfl) (.inr hbuf) (by rw [hlog]),
      fun l hlid hlog => h.effectIf rfl (by rw [hlid]; rfl) (.inr hbuf) (by rw [hlog]), fun hplot => ?own, fun hplot => ?other⟩
    case own =>
      exact ⟨fun hlid hlsi => vendorLog_acts h (getLogYieldBook_runs ..) hlid hbuf hplot (if_pos hlsi),
        fun hlid hlsi hmax hrole hup =>
          vendorLog_acts h (getLogYieldBook_runs ..) hlid hbuf hplot ((if_neg hlsi).trans (if_pos ⟨hmax, hrole, hup⟩)),
        fun hlid hlsi hno => vendorLog_acts h (getLogYieldBook_runs ..) hlid hbuf hplot ((if_neg hlsi).trans (if_neg hno)),
        fun hlid hlsi => vendorLog_acts h (getLogTally_runs ..) hlid hbuf hplot (if_neg (by omega)),
        fun hlid hlsi => vendorLog_acts h (getLogTally_runs ..) hlid hbuf hplot (if_pos (by omega)),
        fun hlid => vendorLog_acts h (getLogGridStats_runs ..) hlid hbuf hplot rfl,
        fun hlid => vendorLog_acts h (getLogBedHealth_runs ..) hlid hbuf hplot rfl,
        fun hlid => vendorLog_acts h (getLogHitchStatus_runs ..) hlid hbuf hplot rfl⟩
    case other =>
      exact ⟨fun hlid => vendorLog_otherPlot h (getLogYieldBook_runs ..) hlid hbuf hplot,
        fun hlid => vendorLog_otherPlot h (getLogTally_runs ..) hlid hbuf hplot,
        fun hlid => vendorLog_otherPlot h (getLogGridStats_runs ..) hlid hbuf hplot,
        fun hlid => vendorLog_otherPlot h (getLogBedHealth_runs ..) hlid hbuf hplot,
        fun hlid => vendorLog_otherPlot h (getLogHitchStatus_runs ..) hlid hbuf hplot⟩
  case features =>
    have h : s.m.AdminActs stamp 0x0A c := ⟨hcmd, hturn, congrArg BitVec.toNat hopc⟩
    have acting {x : Mach} (hx : m.getFeaturesTask s.cfg stamp c = x) : exec (.getFeatures stamp) s = acts x :=
      h.effect (getFeatures_runs ..) (.inr hbuf) hx
    exact ⟨fun hno => acting (Mach.getFeaturesTask_unsupported hno),
      fun hok hsel => acting (Mach.getFeaturesTask_capabilities hok hsel),
      fun hok hsel hrem => acting (Mach.getFeaturesTask_remote hok hsel hrem),
      fun st hok hsel hrem hget => acting (Mach.getFeaturesTask_fails hok hsel hrem hget),
      fun v data hok hsel hrem hget => acting (Mach.getFeaturesTask_returns hok hsel hrem hget)⟩

end Sys2Proof.Machine

/-! # Set Features (04 R199, R222 to R224; 02 R113; 03 R149, R150; 11 R497 to R507) -/

namespace Sys2Proof.Machine

/-! ## Set Features of one feature -/

section
variable {s : State} {stamp fid : Nat} {c : Cmd} (h : s.m.AdminActs stamp 0x09 c) {i : Instr} {f : Cmd → Mach → Mach}
  (hruns : exec i s = .next (s.withM (s.m.setFeat stamp fid f))) (hfid : c.sqe.fid = fid)
include h hruns hfid

theorem setFeat_badBuffer (hbuf : c.sqe.buf = .malformed ∨ c.sqe.buf = .sglUnsupported) :
    exec i s = .next (s.withM (if c.sqe.buf = .malformed then (s.m.dropTasks stamp).plotError c.plot 2
      else (s.m.dropTasks stamp).failWith stamp St.badSglSegment)) :=
  h.badBufferIf hruns (beq_of_eq hfid) rfl hbuf

theorem setFeat_acts (hbuf : c.sqe.buf = .prp ∨ c.sqe.buf = .sgl) {x : Mach} (hf : f c (s.m.dropTasks stamp) = x) :
    exec i s = .next (s.withM (x.actsOnce stamp)) :=
  h.effectIf hruns (beq_of_eq hfid) (.inr hbuf) hf

end

section
variable {m : Mach} {c : Cmd} (f : Mach → Mach)

theorem Mach.only0_plot0 (h : c.plot = 0) : m.only0 c f = f m := if_pos h
theorem Mach.only0_otherPlot (h : c.plot ≠ 0) : m.only0 c f = m.failWith c.stamp St.invalidField := if_neg h
theorem Mach.unsaved_save (h : c.sqe.save = true) : m.unsaved c f = m.failWith c.stamp featNotSaveable := if_pos h
theorem Mach.unsaved_noSave (h : c.sqe.save = false) : m.unsaved c f = f m := if_neg (by simp [h])

end

/-! ## What each feature does -/

/-- Set Features 0x02 with SV clear, of plot 0 (11 R497 to R499). -/
def Mach.setPowerState (stamp : Nat) (c : Cmd) (m : Mach) : Mach :=
  if 4 < powerStateOf c.sqe ∨ Word.bits c.sqe.cdw11 7 5 ≠ 0 then m.failWith stamp St.invalidField
  else if powerStateOf c.sqe < 3 then (m.onPower fun p => { p with want := some (powerStateOf c.sqe) }).succeed stamp
  else if !m.mayIdle then m.succeed stamp
  else (m.onPower fun p =>
    { p with entering := some (powerStateOf c.sqe), entryCmd := stamp, closing := false }).setStage stamp .media

/-- Set Features 0x0C with SV clear, of plot 0 (11 R497, R504). -/
def Mach.setApst (stamp : Nat) (c : Cmd) (m : Mach) : Mach :=
  if ((apstEntries c.sqe.data).take 5).any (fun t => decide (t.2 ≠ 0) && !(t.1 == 3 || t.1 == 4)) then
    m.failWith stamp St.invalidField
  else
    (m.onPower fun p =>
      { p with apst := c.sqe.cdw11.getLsbD 0, apstIdle := (apstEntries c.sqe.data).take 5 }).succeed stamp

/-- Set Features 0x06 (04 R199). -/
def Mach.setVwc (stamp : Nat) (c : Cmd) (m : Mach) : Mach :=
  if m.power.vwc && c.sqe.cdw11.getLsbD 0 then m.unsaved c (fun m => m.succeed stamp) else m.failWith stamp St.invalidField

/-- Set Features 0xC1 (03 R149). -/
def Mach.setPlacement (stamp : Nat) (c : Cmd) (m : Mach) : Mach :=
  let i := c.sqe.nsid.toNat
  if m.remote i then m.toMember c
  else match m.nsStatus c with
    | some st => m.failWith stamp st
    | none =>
      if !extOk c.sqe.data (m.nsBeds (m.ns i)) || decide (leAt c.sqe.data 24 8 ≠ 0) then m.failWith stamp St.invalidField
      else
        let e := Ext.parse c.sqe.data
        let m := m.updNs i fun n => { n with dflt := e, dfltSaved := if c.sqe.save then e else n.dfltSaved }
        (if c.sqe.save then m.saveHub 0x10 else m).succeed stamp

/-- Set Features 0xC5 (03 R150). -/
def Mach.setUnwrittenRead (stamp : Nat) (c : Cmd) (m : Mach) : Mach :=
  let i := c.sqe.nsid.toNat
  let v := Word.bits c.sqe.cdw11 1 0
  if m.remote i then m.toMember c
  else match m.nsStatus c with
    | some st => m.failWith stamp st
    | none =>
      if 2 ≤ v then m.failWith stamp St.invalidField
      else
        let m := m.updNs i fun n => { n with unwritten := v, unwrittenSaved := if c.sqe.save then v else n.unwrittenSaved }
        (if c.sqe.save then m.saveHub 0x10 else m).succeed stamp

/-- Set Features 0xC2 of plot 0 (04 R222). -/
def Mach.setQuotas (stamp : Nat) (c : Cmd) (m : Mach) : Mach :=
  let t := Word.bits c.sqe.cdw11 15 0
  let q := quotaOf c.sqe.data
  if 1024 ≤ t ∨ quotaOk q = false ∨ q.active < q.open_ ∨ q.qpairs < m.qpairs t ∨ m.quotasFit t q = false then
    m.failWith stamp St.invalidField
  else ((m.setQuota t q c.sqe.save).copyAll c.sqe).succeed stamp

/-- A structure of feature 0xC3 is within its ranges (11 R507). -/
def Mach.ladderOk (m : Mach) (d : List Byte) : Bool :=
  decide (10 ≤ leAt d 0 2) && decide (leAt d 0 2 ≤ 120) && decide (leAt d 0 2 ≤ m.power.decl.bMax) && decide (85 ≤ leAt d 2 1) &&
    decide (leAt d 2 1 ≤ 125) && decide (1 ≤ leAt d 3 1) && decide (leAt d 3 1 ≤ 8) && decide (50 ≤ leAt d 4 1) &&
    decide (leAt d 4 1 ≤ 90) && decide (1 ≤ leAt d 5 1) && decide (leAt d 5 1 ≤ 10)

/-- Set Features 0xC3 of plot 0 (04 R223). -/
def Mach.setThrottle (stamp : Nat) (c : Cmd) (m : Mach) : Mach :=
  if m.ladderOk c.sqe.data then ((m.setLadder c.sqe.data c.sqe.save).copySaved c.sqe).succeed stamp
  else m.failWith stamp St.invalidField

/-- Set Features 0xC4 of plot 0 (04 R224). -/
def Mach.setRate (stamp : Nat) (c : Cmd) (m : Mach) : Mach :=
  let code := Word.bits c.sqe.cdw11 15 0
  let v := Word.bits c.sqe.cdw12 15 0
  if 3600 < v ∨ (code ≠ 0xFFFF ∧ m.ybk.slots.contains code = false) then m.failWith stamp St.invalidField
  else ((m.setYbkRate code v c.sqe.save).copySaved c.sqe).succeed stamp

/-- Set Features of a standard feature with no row of its own, and of one that is not supported (00 R13). -/
def Mach.setOther (stamp : Nat) (c : Cmd) (m : Mach) : Mach :=
  if !m.featOk c.sqe.fid then m.failWith stamp St.invalidField else m.unsaved c (fun m => m.setStd c)

section
variable (s : State) (stamp : Nat)

theorem setFeatures_runs : exec (.setFeatures stamp) s =
    .next (s.withM (s.m.adminIf stamp 0x09 (fun c => !ownRow.contains c.sqe.fid) (Mach.setOther stamp))) := rfl
theorem setFeaturesPowerMgmt_runs : exec (.setFeaturesPowerMgmt stamp) s =
    .next (s.withM (s.m.setFeat stamp 0x02 fun c m => m.only0 c fun m => m.unsaved c (Mach.setPowerState stamp c))) := rfl
theorem setFeaturesApst_runs : exec (.setFeaturesApst stamp) s =
    .next (s.withM (s.m.setFeat stamp 0x0C fun c m => m.only0 c fun m => m.unsaved c (Mach.setApst stamp c))) := rfl
theorem setFeaturesVwc_runs : exec (.setFeaturesVwc stamp) s = .next (s.withM (s.m.setFeat stamp 0x06 (Mach.setVwc stamp))) := rfl
theorem setFeaturesPlacement_runs :
    exec (.setFeaturesPlacement stamp) s = .next (s.withM (s.m.setFeat stamp 0xC1 (Mach.setPlacement stamp))) := rfl
theorem setFeaturesPlotQuotas_runs : exec (.setFeaturesPlotQuotas stamp) s =
    .next (s.withM (s.m.setFeat stamp 0xC2 fun c m => m.only0 c (Mach.setQuotas stamp c))) := rfl
theorem setFeaturesThrottle_runs : exec (.setFeaturesThrottle stamp) s =
    .next (s.withM (s.m.setFeat stamp 0xC3 fun c m => m.only0 c (Mach.setThrottle stamp c))) := rfl
theorem setFeaturesYbkRate_runs : exec (.setFeaturesYbkRate stamp) s =
    .next (s.withM (s.m.setFeat stamp 0xC4 fun c m => m.only0 c (Mach.setRate stamp c))) := rfl
theorem setFeaturesUnwrittenRead_runs :
    exec (.setFeaturesUnwrittenRead stamp) s = .next (s.withM (s.m.setFeat stamp 0xC5 (Mach.setUnwrittenRead stamp))) := rfl

theorem exec_setFeaturesFurrowGrid_eq : exec (.setFeaturesFurrowGrid stamp) s = execSetFeaturesFurrowGrid stamp s := rfl

variable {s stamp}

/-- A Set Features of 0xC0 that is not in order fails like any other (02 R113). -/
theorem setFeaturesFurrowGrid_runs (hset : s.m.gridSet stamp = none) : exec (.setFeaturesFurrowGrid stamp) s =
    .next (s.withM (s.m.setFeat stamp 0xC0 fun _ m => m.failWith stamp St.invalidField)) := by
  rw [exec_setFeaturesFurrowGrid_eq, execSetFeaturesFurrowGrid, hset]
  rfl

end

/-! ## The cases of each feature -/

section
variable {m : Mach} {stamp : Nat} {c : Cmd}

section
variable (hw : Word.bits c.sqe.cdw11 7 5 = 0)
include hw

theorem Mach.setPowerState_operational (hps : powerStateOf c.sqe < 3) :
    m.setPowerState stamp c = (m.onPower fun p => { p with want := some (powerStateOf c.sqe) }).succeed stamp := by
  rw [Mach.setPowerState, if_neg (by omega), if_pos hps]

variable (hlow : 3 ≤ powerStateOf c.sqe) (hhigh : powerStateOf c.sqe ≤ 4)
include hlow hhigh

theorem Mach.setPowerState_stays (hidle : m.mayIdle = false) : m.setPowerState stamp c = m.succeed stamp := by
  rw [Mach.setPowerState, if_neg (by omega), if_neg (by omega), if_pos (by simp [hidle])]

theorem Mach.setPowerState_enters (hidle : m.mayIdle = true) : m.setPowerState stamp c =
    (m.onPower fun p =>
      { p with entering := some (powerStateOf c.sqe), entryCmd := stamp, closing := false }).setStage stamp .media := by
  rw [Mach.setPowerState, if_neg (by omega), if_neg (by omega), if_neg (by simp [hidle])]

end

theorem Mach.setApst_inRange (h : ∀ t ∈ (apstEntries c.sqe.data).take 5, t.2 ≠ 0 → t.1 = 3 ∨ t.1 = 4) :
    m.setApst stamp c = (m.onPower fun p =>
      { p with apst := c.sqe.cdw11.getLsbD 0, apstIdle := (apstEntries c.sqe.data).take 5 }).succeed stamp := by
  refine if_neg fun hany => ?_
  obtain ⟨t, ht, hbad⟩ := List.any_eq_true.mp hany
  have := h t ht
  simp only [Bool.and_eq_true, decide_eq_true_eq, Bool.not_eq_true', Bool.or_eq_false_iff, beq_eq_false_iff_ne] at hbad
  omega

theorem Mach.setApst_outOfRange (h : ∃ t ∈ (apstEntries c.sqe.data).take 5, t.2 ≠ 0 ∧ t.1 ≠ 3 ∧ t.1 ≠ 4) :
    m.setApst stamp c = m.failWith stamp St.invalidField := by
  obtain ⟨t, ht, h0, h3, h4⟩ := h
  exact if_pos (List.any_eq_true.mpr ⟨t, ht, by simp [h0, h3, h4]⟩)

theorem Mach.setVwc_on (hvwc : m.power.vwc = true) (hwce : c.sqe.cdw11.getLsbD 0 = true) :
    m.setVwc stamp c = if c.sqe.save then m.failWith c.stamp featNotSaveable else m.succeed stamp := by
  rw [Mach.setVwc, if_pos (by simp [hvwc, hwce]), Mach.unsaved]

theorem Mach.setVwc_refused (h : m.power.vwc = false ∨ c.sqe.cdw11.getLsbD 0 = false) :
    m.setVwc stamp c = m.failWith stamp St.invalidField := if_neg (by simpa [or_iff_not_imp_left] using h)

theorem Mach.setPlacement_remote (hrem : m.remote c.sqe.nsid.toNat = true) : m.setPlacement stamp c = m.toMember c := if_pos hrem

theorem Mach.setUnwrittenRead_remote (hrem : m.remote c.sqe.nsid.toNat = true) : m.setUnwrittenRead stamp c = m.toMember c := if_pos hrem

section
variable (hrem : m.remote c.sqe.nsid.toNat = false)
include hrem

theorem Mach.setPlacement_noNamespace {st : Status} (hns : m.nsStatus c = some st) : m.setPlacement stamp c = m.failWith stamp st := by
  rw [Mach.setPlacement, if_neg (by simp [hrem]), hns]

theorem Mach.setUnwrittenRead_noNamespace {st : Status} (hns : m.nsStatus c = some st) :
    m.setUnwrittenRead stamp c = m.failWith stamp st := by
  rw [Mach.setUnwrittenRead, if_neg (by simp [hrem]), hns]

variable (hns : m.nsStatus c = none)
include hns

theorem Mach.setPlacement_sets (hext : extOk c.sqe.data (m.nsBeds (m.ns c.sqe.nsid.toNat)) = true) (htag : leAt c.sqe.data 24 8 = 0) :
    let n := m.updNs c.sqe.nsid.toNat fun n =>
      { n with dflt := Ext.parse c.sqe.data, dfltSaved := if c.sqe.save then Ext.parse c.sqe.data else n.dfltSaved }
    m.setPlacement stamp c = (if c.sqe.save then n.saveHub 0x10 else n).succeed stamp := by
  rw [Mach.setPlacement, if_neg (by simp [hrem]), hns]
  exact if_neg (by simp [hext, htag])

theorem Mach.setPlacement_refused
    (h : extOk c.sqe.data (m.nsBeds (m.ns c.sqe.nsid.toNat)) = false ∨ leAt c.sqe.data 24 8 ≠ 0) :
    m.setPlacement stamp c = m.failWith stamp St.invalidField := by
  rw [Mach.setPlacement, if_neg (by simp [hrem]), hns]
  exact if_pos (by simpa using h)

theorem Mach.setUnwrittenRead_sets (hv : Word.bits c.sqe.cdw11 1 0 < 2) :
    let v := Word.bits c.sqe.cdw11 1 0
    let n := m.updNs c.sqe.nsid.toNat fun n =>
      { n with unwritten := v, unwrittenSaved := if c.sqe.save then v else n.unwrittenSaved }
    m.setUnwrittenRead stamp c = (if c.sqe.save then n.saveHub 0x10 else n).succeed stamp := by
  rw [Mach.setUnwrittenRead, if_neg (by simp [hrem]), hns]
  exact if_neg (Nat.not_le_of_lt hv)

theorem Mach.setUnwrittenRead_refused (hv : 2 ≤ Word.bits c.sqe.cdw11 1 0) :
    m.setUnwrittenRead stamp c = m.failWith stamp St.invalidField := by
  rw [Mach.setUnwrittenRead, if_neg (by simp [hrem]), hns]
  exact if_pos hv

end

theorem Mach.ladderOk_iff {d : List Byte} : m.ladderOk d = true ↔
    10 ≤ leAt d 0 2 ∧ leAt d 0 2 ≤ 120 ∧ leAt d 0 2 ≤ m.power.decl.bMax ∧ 85 ≤ leAt d 2 1 ∧ leAt d 2 1 ≤ 125 ∧
      1 ≤ leAt d 3 1 ∧ leAt d 3 1 ≤ 8 ∧ 50 ≤ leAt d 4 1 ∧ leAt d 4 1 ≤ 90 ∧ 1 ≤ leAt d 5 1 ∧ leAt d 5 1 ≤ 10 := by
  simp only [Mach.ladderOk, Bool.and_eq_true, decide_eq_true_eq, and_assoc]

theorem Mach.setOther_unsupported (hok : m.featOk c.sqe.fid = false) : m.setOther stamp c = m.failWith stamp St.invalidField :=
  if_pos (by simp [hok])

theorem Mach.setOther_save (hok : m.featOk c.sqe.fid = true) (hsave : c.sqe.save = true) :
    m.setOther stamp c = m.failWith c.stamp featNotSaveable := by
  rw [Mach.setOther, if_neg (by simp [hok]), Mach.unsaved_save _ hsave]

theorem Mach.setOther_sets (hok : m.featOk c.sqe.fid = true) (hsave : c.sqe.save = false) : m.setOther stamp c = m.setStd c := by
  rw [Mach.setOther, if_neg (by simp [hok]), Mach.unsaved_noSave _ hsave]

end

/-! ## The Furrow Grid feature (02 R113) -/

section
variable {m : Mach} {stamp : Nat} {c : Cmd} (h : m.AdminActs stamp 0x09 c)
include h

/-- The conditions under which a Set Features is one of 0xC0 in order. -/
theorem Mach.AdminActs.gridSet_eq : m.gridSet stamp =
    if c.sqe.fid = 0xC0 ∧ c.plot = 0 ∧ (c.sqe.buf = .prp ∨ c.sqe.buf = .sgl) ∧ m.gridFeatOk c.sqe.data = true then some c else none := by
  have hopc : c.sqe.opc = 0x09 := BitVec.eq_of_toNat_eq h.opcode
  rw [Mach.gridSet, h.cmd]
  simp only [hopc, h.turn, true_and]

theorem Mach.AdminActs.gridSet_badBuffer (hbuf : c.sqe.buf = .malformed ∨ c.sqe.buf = .sglUnsupported) : m.gridSet stamp = none := by
  rw [h.gridSet_eq]
  rcases hbuf with hb | hb <;> simp [hb]

theorem Mach.AdminActs.gridSet_otherPlot (hplot : c.plot ≠ 0) : m.gridSet stamp = none := by
  rw [h.gridSet_eq, if_neg fun hall => hplot hall.2.1]

theorem Mach.AdminActs.gridSet_outOfRange (hrange : m.gridFeatOk c.sqe.data = false) : m.gridSet stamp = none := by
  rw [h.gridSet_eq, if_neg (by simp [hrange])]

end

/-- A structure within range is applied whole, and saved where asked (02 R113). -/
theorem setFeaturesFurrowGrid_applies {s : State} {stamp : Nat} {c : Cmd} (h : s.m.AdminActs stamp 0x09 c) (hfid : c.sqe.fid = 0xC0)
    (hplot : c.plot = 0) (hbuf : c.sqe.buf = .prp ∨ c.sqe.buf = .sgl) (hok : s.m.gridFeatOk c.sqe.data = true) :
    let t := (s.withM (s.m.dropTasks stamp)).applyGrid c.sqe.data
    let n := if c.sqe.save then (t.m.onBoot fun b => { b with savedC0 := some t.cfg.grid }).copyAll c.sqe else t.m
    exec (.setFeaturesFurrowGrid stamp) s = .next (t.withM ((n.succeed stamp).actsOnce stamp)) := by
  rw [exec_setFeaturesFurrowGrid_eq, execSetFeaturesFurrowGrid, h.gridSet_eq, if_pos ⟨hfid, hplot, hbuf, hok⟩]
  rfl

/-- Settles O27: each row has its effect (`setFeat_acts`), and each clause is a branch of it. -/
theorem featureCommandsComplete : Obligations.FeatureCommandsComplete := by
  intro s stamp c hcmd hturn hopc m acts bad field d i
  have h : s.m.AdminActs stamp 0x09 c := ⟨hcmd, hturn, congrArg BitVec.toNat hopc⟩
  refine ⟨fun hbad => ?badBuffer, fun hbuf => ⟨fun hfid => ?other, fun hfid hplot hsave => ?notSaveable, fun hplot => ?otherPlot,
    fun hfid hplot hsave => ?power, fun hfid hplot hsave => ?apst, fun hfid => ?vwc, fun hfid hplot => ?grid, fun hfid => ?placement,
    fun hfid hplot => ?quotas, fun hfid hplot => ?throttle, fun hfid hplot => ?rate, fun hfid => ?unwritten⟩⟩
  case badBuffer =>
    exact ⟨fun hfid => h.badBufferIf (setFeatures_runs ..) (by rw [hfid]; rfl) rfl hbad,
      fun hfid => setFeat_badBuffer h (setFeaturesPowerMgmt_runs ..) hfid hbad,
      fun hfid => setFeat_badBuffer h (setFeaturesApst_runs ..) hfid hbad,
      fun hfid => setFeat_badBuffer h (setFeaturesVwc_runs ..) hfid hbad,
      fun hfid => setFeat_badBuffer h (setFeaturesFurrowGrid_runs (h.gridSet_badBuffer hbad)) hfid hbad,
      fun hfid => setFeat_badBuffer h (setFeaturesPlacement_runs ..) hfid hbad,
      fun hfid => setFeat_badBuffer h (setFeaturesPlotQuotas_runs ..) hfid hbad,
      fun hfid => setFeat_badBuffer h (setFeaturesThrottle_runs ..) hfid hbad,
      fun hfid => setFeat_badBuffer h (setFeaturesYbkRate_runs ..) hfid hbad,
      fun hfid => setFeat_badBuffer h (setFeaturesUnwrittenRead_runs ..) hfid hbad⟩
  case other =>
    have acting {x : Mach} (hx : m.setOther stamp c = x) : exec (.setFeatures stamp) s = acts x :=
      h.effectIf (setFeatures_runs ..) (by rw [hfid]; rfl) (.inr hbuf) hx
    exact ⟨fun hok => acting (Mach.setOther_unsupported hok), fun hok hsave => acting (Mach.setOther_save hok hsave),
      fun hok hsave => acting (Mach.setOther_sets hok hsave)⟩
  case notSaveable =>
    exact ⟨fun hfid => setFeat_acts h (setFeaturesPowerMgmt_runs ..) hfid hbuf
        ((Mach.only0_plot0 _ hplot).trans (Mach.unsaved_save _ hsave)),
      fun hfid => setFeat_acts h (setFeaturesApst_runs ..) hfid hbuf ((Mach.only0_plot0 _ hplot).trans (Mach.unsaved_save _ hsave))⟩
  case otherPlot =>
    exact ⟨fun hfid => setFeat_acts h (setFeaturesPowerMgmt_runs ..) hfid hbuf (Mach.only0_otherPlot _ hplot),
      fun hfid => setFeat_acts h (setFeaturesApst_runs ..) hfid hbuf (Mach.only0_otherPlot _ hplot),
      fun hfid => setFeat_acts h (setFeaturesFurrowGrid_runs (h.gridSet_otherPlot hplot)) hfid hbuf rfl,
      fun hfid => setFeat_acts h (setFeaturesPlotQuotas_runs ..) hfid hbuf (Mach.only0_otherPlot _ hplot),
      fun hfid => setFeat_acts h (setFeaturesThrottle_runs ..) hfid hbuf (Mach.only0_otherPlot _ hplot),
      fun hfid => setFeat_acts h (setFeaturesYbkRate_runs ..) hfid hbuf (Mach.only0_otherPlot _ hplot)⟩
  case power =>
    intro ps
    have acting {x : Mach} (hx : m.setPowerState stamp c = x) : exec (.setFeaturesPowerMgmt stamp) s = acts x :=
      setFeat_acts h (setFeaturesPowerMgmt_runs ..) hfid hbuf
        ((Mach.only0_plot0 _ hplot).trans ((Mach.unsaved_noSave _ hsave).trans hx))
    exact ⟨fun hno => acting (if_pos hno), fun hw hps => acting (Mach.setPowerState_operational hw hps),
      fun hw hlow hhigh hidle => acting (Mach.setPowerState_stays hw hlow hhigh hidle),
      fun hw hlow hhigh hidle => acting (Mach.setPowerState_enters hw hlow hhigh hidle)⟩
  case apst =>
    have acting {x : Mach} (hx : m.setApst stamp c = x) : exec (.setFeaturesApst stamp) s = acts x :=
      setFeat_acts h (setFeaturesApst_runs ..) hfid hbuf ((Mach.only0_plot0 _ hplot).trans ((Mach.unsaved_noSave _ hsave).trans hx))
    exact ⟨fun hok => acting (Mach.setApst_inRange hok), fun hno => acting (Mach.setApst_outOfRange hno)⟩
  case vwc =>
    have acting {x : Mach} (hx : m.setVwc stamp c = x) : exec (.setFeaturesVwc stamp) s = acts x :=
      setFeat_acts h (setFeaturesVwc_runs ..) hfid hbuf hx
    exact ⟨fun hvwc hwce => acting (Mach.setVwc_on hvwc hwce), fun hno => acting (Mach.setVwc_refused hno)⟩
  case grid =>
    intro t n
    exact ⟨fun hok => setFeaturesFurrowGrid_applies h hfid hplot hbuf hok,
      fun hno => setFeat_acts h (setFeaturesFurrowGrid_runs (h.gridSet_outOfRange hno)) hfid hbuf rfl⟩
  case placement =>
    intro n
    have acting {x : Mach} (hx : m.setPlacement stamp c = x) : exec (.setFeaturesPlacement stamp) s = acts x :=
      setFeat_acts h (setFeaturesPlacement_runs ..) hfid hbuf hx
    exact ⟨fun hrem => acting (Mach.setPlacement_remote hrem), fun st hrem hns => acting (Mach.setPlacement_noNamespace hrem hns),
      fun hrem hns => ⟨fun hext htag => acting (Mach.setPlacement_sets hrem hns hext htag),
        fun hno => acting (Mach.setPlacement_refused hrem hns hno)⟩⟩
  case quotas =>
    intro t q out
    have acting {x : Mach} (hx : m.setQuotas stamp c = x) : exec (.setFeaturesPlotQuotas stamp) s = acts x :=
      setFeat_acts h (setFeaturesPlotQuotas_runs ..) hfid hbuf ((Mach.only0_plot0 _ hplot).trans hx)
    exact ⟨fun hin => acting (if_neg hin), fun hout => acting (if_pos hout)⟩
  case throttle =>
    intro ok
    have acting {x : Mach} (hx : m.setThrottle stamp c = x) : exec (.setFeaturesThrottle stamp) s = acts x :=
      setFeat_acts h (setFeaturesThrottle_runs ..) hfid hbuf ((Mach.only0_plot0 _ hplot).trans hx)
    exact ⟨fun hin => acting (if_pos (Mach.ladderOk_iff.mpr hin)), fun hout => acting (if_neg fun hin => hout (Mach.ladderOk_iff.mp hin))⟩
  case rate =>
    intro code v out
    have acting {x : Mach} (hx : m.setRate stamp c = x) : exec (.setFeaturesYbkRate stamp) s = acts x :=
      setFeat_acts h (setFeaturesYbkRate_runs ..) hfid hbuf ((Mach.only0_plot0 _ hplot).trans hx)
    exact ⟨fun hin => acting (if_neg hin), fun hout => acting (if_pos hout)⟩
  case unwritten =>
    intro v n
    have acting {x : Mach} (hx : m.setUnwrittenRead stamp c = x) : exec (.setFeaturesUnwrittenRead stamp) s = acts x :=
      setFeat_acts h (setFeaturesUnwrittenRead_runs ..) hfid hbuf hx
    exact ⟨fun hrem => acting (Mach.setUnwrittenRead_remote hrem), fun st hrem hns => acting (Mach.setUnwrittenRead_noNamespace hrem hns),
      fun hrem hns => ⟨fun hv => acting (Mach.setUnwrittenRead_sets hrem hns hv),
        fun hv => acting (Mach.setUnwrittenRead_refused hrem hns hv)⟩⟩

end Sys2Proof.Machine

/-! # The front-end task of an I/O command, and Flush (04 R185 to R198, R211, R225) -/

namespace Sys2Proof.Machine

/-! ## The row of an I/O command -/

section
variable {m : Mach} {cfg : Cfg} {stamp at_ : Nat} {ok : Sqe → Bool} {c : Cmd} (hcmd : (m.advance at_).cmd? stamp = some c)
  (hq : c.sq ≠ 0) (hok : ok c.sqe = true)
include hcmd hq hok

theorem Mach.ioRow_frontIo (hfetched : c.stage = .fetched) : m.ioRow cfg stamp at_ ok = (m.advance at_).frontIo cfg c := by
  simp only [Mach.ioRow, hcmd]
  rw [if_neg (by simp [hq, hok]), if_pos hfetched]

theorem Mach.ioRow_zoneEnd (hzoned : c.stage = .zoned) :
    m.ioRow cfg stamp at_ ok = ((m.advance at_).dropTasks stamp).zoneEnd cfg stamp := by
  simp only [Mach.ioRow, hcmd]
  rw [if_neg (by simp [hq, hok]), if_neg (by simp [hzoned]), if_pos hzoned]

end

/-! ## The checks of the front-end task -/

section
variable {m : Mach} {cfg : Cfg} {c : Cmd}

theorem Mach.frontIo_remote (hrem : (m.dropTasks c.stamp).remote c.sqe.nsid.toNat = true) :
    m.frontIo cfg c = (m.dropTasks c.stamp).ioToMember c := if_pos hrem

variable (hrem : (m.dropTasks c.stamp).remote c.sqe.nsid.toNat = false)
include hrem

theorem Mach.frontIo_refused {st : Status} (hst : (m.dropTasks c.stamp).ioStatus c = some st) :
    m.frontIo cfg c = ((m.dropTasks c.stamp).failWith c.stamp st).pump cfg := by
  rw [Mach.frontIo, if_neg (by simp [hrem]), hst]

variable (hst : (m.dropTasks c.stamp).ioStatus c = none)
include hst

theorem Mach.frontIo_malformed (hbuf : (c.sqe.usesBuf && c.sqe.buf == .malformed) = true) :
    m.frontIo cfg c = ((m.dropTasks c.stamp).plotError c.plot 2).pump cfg := by
  rw [Mach.frontIo, if_neg (by simp [hrem]), hst]
  exact if_pos hbuf

theorem Mach.frontIo_flush (hopc : c.sqe.opc = 0x00) : m.frontIo cfg c = (m.dropTasks c.stamp).startFlush c := by
  have hnobuf : c.sqe.usesBuf = false := by simp [Sqe.usesBuf, Sqe.bufNeed, hopc]
  rw [Mach.frontIo, if_neg (by simp [hrem]), hst]
  exact (if_neg (by simp [hnobuf])).trans (if_pos hopc)

theorem Mach.frontIo_locks (hbuf : (c.sqe.usesBuf && c.sqe.buf == .malformed) = false) (hopc : c.sqe.opc ≠ 0x00) :
    m.frontIo cfg c = ((m.dropTasks c.stamp).setStage c.stamp .locked).pump cfg := by
  rw [Mach.frontIo, if_neg (by simp [hrem]), hst]
  exact (if_neg (by simp [hbuf])).trans (if_neg hopc)

end

section
variable {m : Mach} {c : Cmd}

theorem Mach.startFlush_uncached (hvwc : m.power.vwc = false) : m.startFlush c = m.succeed c.stamp := if_pos (by simp [hvwc])

theorem Mach.startFlush_cached (hvwc : m.power.vwc = true) :
    let full := (m.med.units.filter fun u => u.full && !u.done).map fun u => (zkey u.nsid u.zone, u.row * 32 + u.col)
    m.startFlush c =
      (m.updCmd c.stamp fun k => { k with cover := k.cover.filter full.contains, stage := .media }).dumpOpen (m.flushNs c) :=
  if_neg (by simp [hvwc])

end

/-! ## FLUSH_DONE (04 R197, R225) -/

section
variable {s : State} {stamp : Nat} {c : Cmd}

theorem exec_flushDone_eq : exec (.flushDone stamp) s = execFlushDone stamp s := rfl

variable (hcmd : s.m.cmd? stamp = some c)
include hcmd

theorem flushDone_ends (hstage : c.stage = .media) (hopc : c.sqe.opc = 0x00) (hq : c.sq ≠ 0) (hcov : s.m.uncovered c.cover = false) :
    exec (.flushDone stamp) s = .next (s.withM (((s.m.dumpOpen (s.m.flushNs c)).record 0x0404 c.flushKib 0).succeed stamp)) := by
  rw [exec_flushDone_eq, execFlushDone, State.on_eq_withM]
  simp only [hcmd, if_pos (And.intro hstage (And.intro hopc (And.intro hq hcov)))]

theorem flushDone_waits (hcov : s.m.uncovered c.cover = true) : exec (.flushDone stamp) s = .next s := by
  rw [exec_flushDone_eq, execFlushDone, State.on_eq_withM]
  simp only [hcmd]
  rw [if_neg (by simp [hcov])]
  rfl

end

/-! ## The commands -/

section
variable {s : State} {stamp at_ : Nat} {c : Cmd}

theorem exec_flush_eq : exec (.flush stamp at_) s = .next (s.withM (s.m.ioRow s.cfg stamp at_ fun e => e.opc == 0x00)) := rfl

/-- A row of the table for I/O commands brings an I/O command that it names to the state that `Mach.ioRow` gives. -/
theorem ioRow_effect {i : Instr} {ok : Sqe → Bool} {t : Mach} (ht : ∀ ok, ok c.sqe = true → s.m.ioRow s.cfg stamp at_ ok = t)
    (hruns : exec i s = .next (s.withM (s.m.ioRow s.cfg stamp at_ ok))) (hok : ok c.sqe = true) : exec i s = .next (s.withM t) := by
  rw [hruns, ht ok hok]

end

/-- Settles O29: every row is `Mach.ioRow`, whose front-end task ends in its checks (`Mach.frontIo`). -/
theorem ioCommandsComplete : Obligations.IoCommandsComplete := by
  refine ⟨fun s stamp at_ c t => ?rows, fun s stamp at_ c => ?flush, fun s stamp c hcmd hstage hopc hq =>
    ⟨flushDone_ends hcmd hstage hopc hq, flushDone_waits hcmd⟩⟩
  case rows =>
    intro m n hcmd hq ht
    have row (ok : Sqe → Bool) (hok : ok c.sqe = true) : s.m.ioRow s.cfg stamp at_ ok = t := by
      obtain ⟨hfetched, hopc, rfl⟩ | ⟨hzoned, rfl⟩ := ht
      · rw [Mach.ioRow_frontIo hcmd hq hok hfetched]
        cases hrem : n.remote c.sqe.nsid.toNat with
        | true => exact Mach.frontIo_remote hrem
        | false =>
          cases hst : n.ioStatus c with
          | some st => exact Mach.frontIo_refused hrem hst
          | none =>
            cases hbuf : c.sqe.usesBuf && c.sqe.buf == .malformed with
            | true => exact Mach.frontIo_malformed hrem hst hbuf
            | false => exact Mach.frontIo_locks hrem hst hbuf hopc
      · exact Mach.ioRow_zoneEnd hcmd hq hok hzoned
    refine ⟨fun hopc => ioRow_effect row rfl (beq_of_eq hopc), fun hopc => ioRow_effect row rfl (beq_of_eq hopc),
      fun hopc => ioRow_effect row rfl (beq_of_eq hopc), fun hopc => ioRow_effect row rfl (beq_of_eq hopc),
      fun hopc => ioRow_effect row rfl (beq_of_eq hopc), fun hopc => ioRow_effect row rfl (beq_of_eq hopc),
      fun hopc => ioRow_effect row rfl (beq_of_eq hopc), fun hopc => ?send, fun hopc => ?receive⟩
    case send =>
      exact ⟨fun h1 h2 h4 h5 h16 => ioRow_effect row rfl (by simp [hopc, h1, h2, h4, h5, h16]),
        fun hzsa => ioRow_effect row rfl (by simp [hopc, hzsa]), fun hzsa => ioRow_effect row rfl (by simp [hopc, hzsa]),
        fun hzsa => ioRow_effect row rfl (by simp [hopc, hzsa]), fun hzsa => ioRow_effect row rfl (by simp [hopc, hzsa]),
        fun hzsa => ioRow_effect row rfl (by simp [hopc, hzsa])⟩
    case receive =>
      exact ⟨fun hzsa => ioRow_effect row rfl (by simp [hopc, hzsa]), fun hzsa => ioRow_effect row rfl (by simp [hopc, hzsa])⟩
  case flush =>
    intro m n hcmd hfetched hq hopc full
    have acting {x : Mach} (hx : m.frontIo s.cfg c = x) : exec (.flush stamp at_) s = .next (s.withM x) := by
      rw [exec_flush_eq, Mach.ioRow_frontIo (ok := fun e => e.opc == 0x00) hcmd hq (beq_of_eq hopc) hfetched, hx]
    exact ⟨fun hrem => acting (Mach.frontIo_remote hrem), fun hrem =>
      ⟨fun st hst => acting (Mach.frontIo_refused hrem hst),
        fun hst hvwc => acting ((Mach.frontIo_flush hrem hst hopc).trans (Mach.startFlush_uncached hvwc)),
        fun hst hvwc => acting ((Mach.frontIo_flush hrem hst hopc).trans (Mach.startFlush_cached hvwc))⟩⟩

end Sys2Proof.Machine

/-! # What the walk of the buffer pools gives a plot (07 R367, R369) -/

namespace Sys2Proof.Machine

section
variable {m : Mach} {a k owner plot : Nat}

theorem isInternal_plot (hplot : plot < 1024) : isInternal plot = false := by
  simp only [isInternal, decide_eq_false_iff_not]
  omega

theorem Mach.poolHas_plot (hplot : plot < 1024) : m.poolHas a k plot = true ↔ poolReserve k < (m.pool a k).free := by
  simp [Mach.poolHas, isInternal_plot hplot]

theorem Mach.atQuota_plot (hplot : plot < 1024) :
    m.atQuota a k plot = false ↔
      ((m.plot plot).quota.pools.getD k 0xFFFFFFFF ≠ 0xFFFFFFFF → (m.pool a k).heldBy plot < (m.plot plot).quota.pools.getD k 0xFFFFFFFF) := by
  simp [Mach.atQuota, isInternal_plot hplot]

/-- The pool that a walk takes from is one of those it was given, with a buffer for the owner and within its quota. -/
theorem Mach.poolWalk_takes {first : Nat} {l : List Nat} (hwalk : m.poolWalk a owner first l = .inl k) :
    k ∈ l ∧ m.atQuota a k owner = false ∧ m.poolHas a k owner = true := by
  induction l with
  | nil => simp [Mach.poolWalk] at hwalk
  | cons j js ih =>
    unfold Mach.poolWalk at hwalk
    cases hquota : m.atQuota a j owner with
    | true => simp [hquota] at hwalk
    | false =>
      cases hhas : m.poolHas a j owner with
      | true =>
        obtain rfl : j = k := by simpa [hquota, hhas] using hwalk
        exact ⟨List.mem_cons_self, hquota, hhas⟩
      | false =>
        have hrest : m.poolWalk a owner first js = .inl k := by
          simp only [hquota, hhas, Bool.false_eq_true, if_false] at hwalk
          split_ifs at hwalk
          exact hwalk
        obtain ⟨hmem, hk⟩ := ih hrest
        exact ⟨List.mem_cons_of_mem j hmem, hk⟩

end

/-- Settles O22: what `Mach.poolWalk_takes` says of an owner, read for a plot. -/
theorem bufferReserveIsKept : Obligations.BufferReserveIsKept := by
  intro m a plot first k l hplot hwalk
  obtain ⟨hmem, hquota, hhas⟩ := Mach.poolWalk_takes hwalk
  exact ⟨hmem, (Mach.poolHas_plot hplot).mp hhas, (Mach.atQuota_plot hplot).mp hquota⟩

end Sys2Proof.Machine

/-! # The write of BPM_DIRTY_CFG (07 R383; 15 R632) -/

namespace Sys2Proof.Machine

section
variable (s : State) (v : Word)

theorem exec_dirtyCfgWrite_eq (be : BitVec 4) : exec (.dirtyCfgWrite v be) s = .next (s.dirtyCfgWrite v be) := rfl

variable {s v} (hup : s.m.deviceUp = true) (hguard : s.cfg.wrGuard = false)
include hup hguard

theorem State.dirtyCfgWrite_unlocked (hlock : s.cfg.dirtyLock = false) :
    s.dirtyCfgWrite v 15 = { s with cfg := { s.cfg with
      dirtyLock := v.getLsbD 31,
      dirtyCap := if 16 ≤ Word.bits v 5 0 ∧ Word.bits v 5 0 ≤ 32 then Word.bits v 5 0 else s.cfg.dirtyCap } } := by
  rw [State.dirtyCfgWrite, State.barWrite_full hup rfl (.inr hguard)]
  simp only [hguard, hlock, Bool.false_or, Bool.false_eq_true, if_false]
  split <;> rfl

/-- Under LOCK only another CAP is a dropped write (15 R632). -/
theorem State.dirtyCfgWrite_locked (hlock : s.cfg.dirtyLock = true) :
    s.dirtyCfgWrite v 15 = if Word.bits v 5 0 = s.cfg.dirtyCap then s else s.withM (s.m.wrDrop 4 0xB00) := by
  have hcfg : ({ s.cfg with dirtyLock := true } : Cfg) = s.cfg := by rw [← hlock]
  rw [State.dirtyCfgWrite, State.barWrite_full hup rfl (.inr hguard)]
  simp only [hlock, Bool.true_or, if_true, hcfg]
  rw [if_neg (by simp [hguard])]
  rfl

end

/-- Settles O13: a full write is that of `State.dirtyCfgWrite_unlocked` or of `State.dirtyCfgWrite_locked`; the reset values and the
register's layout stand in their definitions. -/
theorem dirtyCfgFollowsItsRule : Obligations.DirtyCfgFollowsItsRule := by
  refine ⟨fun s v hup hguard hlock => ?unlocked, fun s v hup hguard hlock => ?locked, fun _ => ⟨rfl, rfl⟩, fun _ _ => rfl⟩
  case unlocked => rw [exec_dirtyCfgWrite_eq, State.dirtyCfgWrite_unlocked hup hguard hlock]
  case locked => rw [exec_dirtyCfgWrite_eq, State.dirtyCfgWrite_locked hup hguard hlock]

end Sys2Proof.Machine

/-! # DRAM ports in service: command slots, promotion, refresh, MR4, tracking and the merge buffer (06 R326; 07 R344 to R349, R354) -/

namespace Sys2Proof.Machine

section
variable (s : State) (acre at_ : Nat)

theorem exec_dramCommandSlot_eq (sub : Nat) (busy : List Nat) (errors : List (Nat × BitVec 16)) :
    exec (.dramCommandSlot acre sub busy errors at_) s = execDramCommandSlot acre sub busy errors at_ s := rfl
theorem exec_requestPromotion_eq : exec (.requestPromotion acre at_) s = execRequestPromotion acre at_ s := rfl
theorem exec_refreshDue_eq (rank : Nat) : exec (.refreshDue acre rank at_) s = execRefreshDue acre rank at_ s := rfl
theorem exec_mr4Poll_eq (hot : Bool) : exec (.mr4Poll acre hot at_) s = execMr4Poll acre hot at_ s := rfl
theorem exec_dqsTracking_eq (targets : List Nat) : exec (.dqsTracking acre targets at_) s = execDqsTracking acre targets at_ s := rfl
theorem exec_mergeEntryTimeout_eq : exec (.mergeEntryTimeout acre at_) s = execMergeEntryTimeout acre at_ s := rfl

variable {s acre at_}

/-! ## DRAM_COMMAND_SLOT (07 R344, R349, R350) -/

/-- A queued neighbour refresh is of the subchannel, and its bank is not busy. -/
def nrefReady (sub : Nat) (busy : List Nat) (e : Nat × Nat × Nat) : Bool := e.1 == sub && !busy.contains e.2.1

/-- The port once one line of a request has been taken: the request shrinks by that line, and goes with its last one. -/
def Port.takeLine (now : Nat) (r : DramReq) (p : Port) : Port :=
  { p with lastUse := now,
           reqs := if r.count ≤ 1 then p.reqs.filter (fun q => q.id != r.id)
             else p.reqs.map fun q => if q.id = r.id then
               { q with line := q.line + 2, count := q.count - 1, data := q.more.headD q.data, more := q.more.drop 1 } else q }

section
variable {sub : Nat} {busy : List Nat} {errors : List (Nat × BitVec 16)} {m : Mach} (hm : (s.m.advance at_).crossAll acre = m)
  (hsub : sub < 2) (hserves : (s.m.advance at_).portServes acre = true)
include hm hsub hserves

theorem dramCommandSlot_refreshes (hready : (m.port acre).nref.any (nrefReady sub busy) = true) :
    exec (.dramCommandSlot acre sub busy errors at_) s = .next (s.withM
      (m.updPort acre fun p => { p with nref := p.nref.eraseP (nrefReady sub busy) })) := by
  subst hm
  rw [exec_dramCommandSlot_eq, execDramCommandSlot, State.on_eq_withM]
  dsimp only
  rw [if_neg (by simp [hsub, hserves])]
  exact congrArg (Host.Outcome.next <| s.withM ·) (if_pos hready)

theorem dramCommandSlot_moves {r : DramReq} (hnone : (m.port acre).nref.any (nrefReady sub busy) = false)
    (hr : (m.port acre).pick sub busy = some r) :
    exec (.dramCommandSlot acre sub busy errors at_) s = .next (s.withM
      ((((m.updPort acre (Port.takeLine m.clk.now r)).drawNeighbour s.cfg acre r.line).moveLine acre r errors).updPort acre
        Port.payRefresh)) := by
  subst hm
  rw [exec_dramCommandSlot_eq, execDramCommandSlot, State.on_eq_withM]
  dsimp only
  rw [if_neg (by simp [hsub, hserves]), hr]
  exact congrArg (Host.Outcome.next <| s.withM ·) (if_neg (Bool.eq_false_iff.mp hnone))

end

/-! ## REQUEST_PROMOTION (07 R344) -/

theorem requestPromotion_promotes {r : DramReq} {m : Mach} (hm : s.m.advance at_ = m)
    (hr : (m.port acre).reqs.find? (fun r => !r.promoted && decide (r.since + Config.edgesPerUs * Tbl.get 4 acre s.cfg.age < m.clk.now)) =
      some r) :
    exec (.requestPromotion acre at_) s = .next (s.withM
      ((m.updPort acre fun p => { p with reqs := p.reqs.map fun q => if q.id = r.id then { q with promoted := true } else q }).record
        0x0704 ((m.clk.now - r.since) * 5 / 16) (acre + 1))) := by
  subst hm
  rw [exec_requestPromotion_eq, execRequestPromotion, State.on_eq_withM]
  dsimp only
  rw [hr]

/-! ## What a port that serves does by the clock (06 R326; 07 R346 to R348, R354) -/

/-- What a poll that is due does to the port: hot at once, cool after two polls (07 R347). -/
def Mach.mr4Polled (acre : Nat) (hot : Bool) (m : Mach) : Mach :=
  let n := m.updPort acre fun p => { p with mr4At := m.clk.now }
  let h := n.updPort acre fun p => { p with hot := true, coolRuns := 0 }
  if hot then if (n.port acre).hot then h else h.record 0x0703 acre (acre + 1)
  else n.updPort acre fun q => { q with coolRuns := Nat.min 2 (q.coolRuns + 1), hot := q.hot && decide (q.coolRuns + 1 < 2) }

/-- Each lane's write delay one step nearer to its target (07 R354). -/
def Port.track (now : Nat) (targets : List Nat) (p : Port) : Port :=
  { p with dqsAt := now, recentre := false, lanes := (List.range 10).foldl (fun t i =>
      let w := Tbl.get 0 i t
      let d := Word.bits w 7 0
      let g := (targets.getD i d) % 256
      Tbl.put 0 i (BitVec.ofNat 32 (w.toNat - d + if d < g then d + 1 else if g < d then d - 1 else d)) t) p.lanes }

section
variable {m : Mach} (hm : s.m.advance at_ = m)
include hm

theorem dqsTracking_moves {targets : List Nat}
    (hdue : (m.portServes acre = true ∧ (m.port acre).dqsAt + 100 * Config.edgesPerMs ≤ m.clk.now) ∨
      ((m.port acre).recentre = true ∧ m.acreUp acre = true ∧ (m.port acre).st = 2)) :
    exec (.dqsTracking acre targets at_) s = .next (s.withM (m.updPort acre (Port.track m.clk.now targets))) := by
  subst hm
  rw [exec_dqsTracking_eq, execDqsTracking, State.on_eq_withM]
  dsimp only
  rw [if_neg (by simpa [and_assoc, or_iff_not_imp_left] using hdue)]
  rfl

variable (hserves : m.portServes acre = true)
include hserves

theorem refreshDue_issues {rank : Nat} (hrank : rank < (if (m.port acre).ranks2 then 2 else 1))
    (hdue : Tbl.get 0 rank (m.port acre).refDue ≤ m.clk.now) :
    let n := Tbl.get 0 rank (m.port acre).owed
    exec (.refreshDue acre rank at_) s = .next (s.withM (m.updPort acre fun p =>
      { p with owed := Tbl.put 0 rank (if (m.port acre).rankBusy rank && decide (n < 4) then n + 1 else 0) p.owed,
               refDue := Tbl.put 0 rank (Tbl.get 0 rank p.refDue + p.trefi) p.refDue })) := by
  subst hm
  rw [exec_refreshDue_eq, execRefreshDue, State.on_eq_withM]
  dsimp only
  rw [if_neg (not_or.mpr ⟨by simp [hserves], not_or.mpr ⟨hrank.not_ge, hdue.not_gt⟩⟩)]

theorem mr4Poll_notes {hot : Bool} (hdue : (m.port acre).mr4At + 16 * Config.edgesPerMs ≤ m.clk.now) :
    exec (.mr4Poll acre hot at_) s = .next (s.withM (m.mr4Polled acre hot)) := by
  subst hm
  rw [exec_mr4Poll_eq, execMr4Poll, State.on_eq_withM]
  dsimp only
  rw [if_neg (by simp [hserves, hdue])]
  rfl

theorem mergeEntryTimeout_writes {e : MergeEntry} (he : (m.port acre).merge.find? (fun e =>
      decide (e.since + 2 * Config.edgesPerUs ≤ m.clk.now) && !(m.port acre).writesTo e.line) = some e) :
    exec (.mergeEntryTimeout acre at_) s = .next (s.withM (m.mergeRmw acre e)) := by
  subst hm
  rw [exec_mergeEntryTimeout_eq, execMergeEntryTimeout, State.on_eq_withM]
  dsimp only
  rw [if_neg (by simp [hserves]), he]

end

end

/-- Settles O19: one lemma for each way in which these commands act. -/
theorem dramServiceCommandsComplete : Obligations.DramServiceCommandsComplete := by
  refine ⟨?slot, ?promotion, ?refresh, ?mr4, ?dqs, ?merge⟩
  case slot =>
    intro s acre sub at_ busy errors n m ready hsub hserves
    exact ⟨dramCommandSlot_refreshes rfl hsub hserves, fun r => dramCommandSlot_moves rfl hsub hserves⟩
  case promotion => exact fun _ _ _ _ => requestPromotion_promotes rfl
  case refresh => exact fun _ _ _ _ hserves hrank hdue => refreshDue_issues rfl hserves hrank hdue
  case mr4 =>
    exact fun _ _ _ hserves hdue => ⟨mr4Poll_notes (hot := true) rfl hserves hdue, mr4Poll_notes (hot := false) rfl hserves hdue⟩
  case dqs => exact fun _ _ _ _ => dqsTracking_moves rfl
  case merge => exact fun _ _ _ _ hserves he => mergeEntryTimeout_writes rfl hserves he

end Sys2Proof.Machine

/-! # Training and self-refresh of DRAM ports (07 R351 to R364; 11 R502) -/

namespace Sys2Proof.Machine

section
variable (s : State) (acre at_ : Nat)

theorem exec_dramTrainingDone_eq (re we rd wd : List Nat) (pattern : Bool) :
    exec (.dramTrainingDone acre re we rd wd pattern) s = execDramTrainingDone acre re we rd wd pattern s := rfl
theorem exec_dramTrainingTimeout_eq : exec (.dramTrainingTimeout acre at_) s = execDramTrainingTimeout acre at_ s := rfl
theorem exec_selfRefreshEntry_eq : exec (.selfRefreshEntry acre at_) s = execSelfRefreshEntry acre at_ s := rfl
theorem exec_selfRefreshExit_eq : exec (.selfRefreshExit acre at_) s = execSelfRefreshExit acre at_ s := rfl
theorem exec_port0IdleTimeout_eq : exec (.port0IdleTimeout at_) s = execPort0IdleTimeout at_ s := rfl

variable {s acre at_} {m : Mach}

/-! ## Training (07 R351 to R353) -/

/-- The port gathers training data, on an acre that is neither fenced nor being fenced. -/
def Mach.trains (acre : Nat) (m : Mach) : Prop := (m.port acre).attempt ≠ 0 ∧ m.fencedA acre = false ∧ m.fencingA acre = false

/-- The windows and delays of the ten lanes as an attempt ends (07 R351). -/
def Mach.noteLanes (acre : Nat) (re we rd wd : List Nat) (m : Mach) : Mach :=
  m.updPort acre fun p =>
    { p with lanes := (List.range 10).foldl (fun t i =>
        Tbl.put 0 i (laneWord (re.getD i 0) (we.getD i 0) (rd.getD i 0) (wd.getD i 0)) t) p.lanes }

theorem dramTrainingDone_judges {re we rd wd : List Nat} {pattern : Bool} (h : s.m.trains acre) :
    exec (.dramTrainingDone acre re we rd wd pattern) s = .next (s.withM
      (if pattern && (List.range 10).all (fun i => decide (19 ≤ re.getD i 0) && decide (16 ≤ we.getD i 0)) then
        (s.m.noteLanes acre re we rd wd).attemptPassed acre
      else (s.m.noteLanes acre re we rd wd).attemptFailed acre)) := by
  obtain ⟨hattempt, hfenced, hfencing⟩ := h
  rw [exec_dramTrainingDone_eq, execDramTrainingDone, State.on_eq_withM]
  dsimp only
  rw [if_neg (by simp [hattempt, hfenced, hfencing])]
  rfl

/-- The port serves again: a wait for it is recorded, and no rate is held any more (07 R364). -/
def Mach.resumePort (acre : Nat) (m : Mach) : Mach :=
  let n := match (m.port acre).srWaitAt with
    | some t => m.record 0x0706 ((m.clk.now - t) * 5 / 16) (acre + 1)
    | none => m
  n.updPort acre fun p =>
    { p with st := 2, srExit := false, srWaitAt := none, lastUse := n.clk.now, held := none }.startRefresh n.clk.now

section
variable (hm : s.m.advance at_ = m)
include hm

theorem dramTrainingTimeout_fails (h : m.trains acre) (hdue : (m.port acre).attemptAt + 100 * Config.edgesPerMs ≤ m.clk.now) :
    exec (.dramTrainingTimeout acre at_) s = .next (s.withM (m.attemptFailed acre)) := by
  obtain ⟨hattempt, hfenced, hfencing⟩ := h
  subst hm
  rw [exec_dramTrainingTimeout_eq, execDramTrainingTimeout, State.on_eq_withM]
  dsimp only
  rw [if_neg (by simp [hattempt, hfenced, hfencing, hdue])]

/-! ## Entry (07 R362; 11 R502) -/

theorem selfRefreshEntry_enters (hserves : m.portServes acre = true) (hwanted : (m.port acre).srWanted = true)
    (hserved : (m.port acre).reqs.any (fun r => decide (r.since ≤ (m.port acre).srReq)) = false) :
    exec (.selfRefreshEntry acre at_) s = .next (s.withM ((m.enterSelfRefresh acre).trySleep s.cfg)) := by
  subst hm
  rw [exec_selfRefreshEntry_eq, execSelfRefreshEntry, State.on_eq_withM]
  dsimp only
  rw [hserves, hwanted, hserved, if_neg (by simp)]

theorem port0IdleTimeout_enters (hps : 3 ≤ m.power.ps) (hst : (m.port 0).st = 2) (hreqs : (m.port 0).reqs = [])
    (hidle : (m.port 0).lastUse + 100 * Config.edgesPerUs ≤ m.clk.now) :
    exec (.port0IdleTimeout at_) s = .next (s.withM (m.enterSelfRefresh 0)) := by
  subst hm
  rw [exec_port0IdleTimeout_eq, execPort0IdleTimeout, State.on_eq_withM]
  dsimp only
  rw [if_neg (by simpa [hst, hreqs, hidle] using hps)]

/-! ## Exit (07 R363, R364) -/

variable (hup : m.acreUp acre = true) (hasleep : (m.port acre).inSelfRefresh = true)
include hup hasleep

theorem selfRefreshExit_issues (hexit : (m.port acre).srExit = false) (hstay : (m.port acre).srAt + 384 ≤ m.clk.now)
    (hwhy : (m.port acre).srForRate = true ∨ (m.port acre).srWaitAt.isSome = true ∨ (m.power.ps < 3 ∧ m.power.closing = false)) :
    exec (.selfRefreshExit acre at_) s = .next (s.withM
      (m.updPort acre fun p => { p with srExit := true, srAt := m.clk.now })) := by
  subst hm
  rw [exec_selfRefreshExit_eq, execSelfRefreshExit, State.on_eq_withM]
  dsimp only
  rw [if_neg (by simp [hup, hasleep]), if_pos hexit, if_pos ⟨hstay, hwhy⟩]

variable (hexit : (m.port acre).srExit = true) (htxs : (m.port acre).srAt + (m.port acre).txs ≤ m.clk.now)
include hexit htxs

theorem selfRefreshExit_trains (hrate : (m.port acre).srForRate = true) :
    exec (.selfRefreshExit acre at_) s = .next (s.withM (m.updPort acre fun p =>
      { p with srForRate := false, srExit := false, attempt := p.firstRate (Tbl.get 0x370 acre s.cfg.rateTarget),
               attemptAt := m.clk.now })) := by
  subst hm
  rw [exec_selfRefreshExit_eq, execSelfRefreshExit, State.on_eq_withM]
  dsimp only
  rw [if_neg (by simp [hup, hasleep]), if_neg (by simp [hexit]), if_neg (by omega), if_pos hrate]

theorem selfRefreshExit_serves (hrate : (m.port acre).srForRate = false) :
    exec (.selfRefreshExit acre at_) s = .next (s.withM
      ((m.port acre).held.elim (m.resumePort acre) fun t => (m.resumePort acre).rateStart acre t)) := by
  subst hm
  rw [exec_selfRefreshExit_eq, execSelfRefreshExit, State.on_eq_withM]
  dsimp only
  rw [if_neg (by simp [hup, hasleep]), if_neg (by simp [hexit]), if_neg (by omega), if_neg (by simp [hrate])]
  cases (((s.m.advance at_).port acre).held) <;> rfl

end

end

/-- Settles O20: one lemma for each way in which these commands act. -/
theorem dramTrainingCommandsComplete : Obligations.DramTrainingCommandsComplete := by
  refine ⟨?done, ?timeout, ?entry, ?exit, ?idle⟩
  case done => exact fun _ _ _ _ _ _ _ hattempt hfenced hfencing => dramTrainingDone_judges ⟨hattempt, hfenced, hfencing⟩
  case timeout => exact fun _ _ _ hattempt hfenced hfencing => dramTrainingTimeout_fails rfl ⟨hattempt, hfenced, hfencing⟩
  case entry => exact fun _ _ _ => selfRefreshEntry_enters rfl
  case exit =>
    intro s acre at_ m p hup hasleep
    exact ⟨selfRefreshExit_issues rfl hup hasleep, selfRefreshExit_trains rfl hup hasleep, selfRefreshExit_serves rfl hup hasleep⟩
  case idle => exact fun _ _ => port0IdleTimeout_enters rfl

end Sys2Proof.Machine

/-! # Row reservations, the dirty cap, lock grants and commit points (03 R140; 04 R185 to R190; 07 R377, R382) -/

namespace Sys2Proof.Machine

section
variable (s : State) (stamp at_ : Nat)

theorem exec_stripeRowReservation_eq :
    exec (.stripeRowReservation stamp at_) s = .next (s.withM ((s.m.advance at_).tryRows s.cfg stamp)) := rfl
theorem exec_dirtyCapAdmit_eq : exec (.dirtyCapAdmit at_) s = execDirtyCapAdmit at_ s := rfl
theorem exec_rangeLockGrant_eq : exec (.rangeLockGrant at_) s = .next (s.withM ((s.m.advance at_).pump s.cfg)) := rfl
theorem exec_commitPoint_eq : exec (.commitPoint stamp) s = execCommitPoint stamp s := rfl

end

/-! ## STRIPE_ROW_RESERVATION (07 R377) -/

/-- A fold none of whose steps changes where it begins ends there. -/
theorem foldl_eq_self {α β : Type} {f : β → α → β} {b : β} {l : List α} (h : ∀ a ∈ l, f b a = b) : l.foldl f b = b := by
  induction l with
  | nil => rfl
  | cons a as ih =>
    obtain ⟨ha, has⟩ := List.forall_mem_cons.mp h
    rw [List.foldl_cons, ha, ih has]

section
variable {m : Mach} {cfg : Cfg} {stamp : Nat} {c : Cmd} (hcmd : m.cmd? stamp = some c)
include hcmd

/-- A write whose rows are all reserved takes no further one, and goes on to the dirty cap. -/
theorem Mach.tryRows_reserved {rows : List (Nat × Nat)} (hstage : c.stage = .rowWait) (hrows : m.rowsNeeded c = some rows)
    (hheld : ∀ r ∈ rows, m.rowHeld c.sqe.nsid.toNat r.1 r.2 = true) :
    m.tryRows cfg stamp =
      ((if c.since < m.clk.now then m.record 0x070F (m.usSince c.since) 0 else m).setStage stamp .capWait).tryCap cfg stamp := by
  rw [Mach.tryRows, hcmd]
  dsimp only
  rw [if_neg (by simp [hstage]), hrows]
  dsimp only
  rw [foldl_eq_self fun r hr => if_pos (hheld r hr), if_pos (List.all_eq_true.mpr hheld)]

/-! ## DIRTY_CAP_ADMIT (07 R382) -/

theorem Mach.tryCap_admits (hstage : c.stage = .capWait)
    (hfirst : m.front.inflight.any (fun k => k.stage == .capWait && decide (k.stamp < stamp)) = false)
    (hfits : m.stg.dirty + c.bytes ≤ cfg.capBytes) :
    m.tryCap cfg stamp = (if c.since < m.clk.now then m.record 0x0710 (m.usSince c.since) 0 else m).startData c := by
  rw [Mach.tryCap, hcmd]
  dsimp only
  rw [if_neg (by simpa only [hstage, hfirst, ne_eq, not_true_eq_false, Bool.false_eq_true, false_or, not_lt] using hfits)]

theorem Mach.tryCap_held (hover : cfg.capBytes < m.stg.dirty + c.bytes) : m.tryCap cfg stamp = m := by
  rw [Mach.tryCap, hcmd]
  exact if_pos (.inr (.inr hover))

end

/-- While writes wait for the cap, the earliest of them asks for it again. -/
theorem dirtyCapAdmit_tries {s : State} {at_ : Nat} {m : Mach} {l : List Nat} (hm : s.m.advance at_ = m)
    (hl : (m.front.inflight.filter (fun k => k.stage == .capWait)).map (fun k => k.stamp) = l) (hsome : l ≠ []) :
    exec (.dirtyCapAdmit at_) s = .next (s.withM (m.tryCap s.cfg (l.foldl Nat.min (l.headD 0)))) := by
  subst hm
  rw [exec_dirtyCapAdmit_eq, execDirtyCapAdmit, State.on_eq_withM]
  dsimp only
  rw [hl]
  cases l with
  | nil => exact absurd rfl hsome
  | cons => rfl

/-! ## COMMIT_POINT (03 R140; 04 R185) -/

section
variable {s : State} {stamp : Nat} {c : Cmd}

/-- The write's transfers and source reads have ended, and its data are sealed (01 R36). -/
def Mach.sealedWrite (stamp : Nat) (c : Cmd) (m : Mach) : Prop :=
  c.stage = .data ∧ m.liveDescs stamp = false ∧ m.med.ladders.any (fun l => l.stamp == stamp) = false ∧
    m.awaitsData c = false ∧ m.sealedAll c (if c.sqe.hostData then c.bytes else 0) = true

/-- The source blocks that a Copy has gathered are let go. -/
def Mach.dropStaged (stamp : Nat) (m : Mach) : Mach := m.onMed fun x => { x with staged := x.staged.filter (fun e => e.1 != stamp) }

/-- A write that has been committed: its bytes are counted, and it ends with success, a Zone Append with its address. -/
def Mach.endWrite (stamp : Nat) (c : Cmd) (m : Mach) : Mach :=
  ((m.updPlot c.plot fun p => { p with acc := { p.acc with wr := p.acc.wr + c.bytes } }).updCmd stamp fun k =>
    { k with committed := true, dw1 := if c.sqe.opc = 0x7D then BitVec.ofNat 32 (c.lba / 2 ^ 32) else 0 }).finish
      stamp Status.ok (if c.sqe.opc = 0x7D then BitVec.ofNat 32 c.lba else 0)

variable (hcmd : s.m.cmd? stamp = some c) (hsealed : s.m.sealedWrite stamp c)
include hcmd hsealed

theorem commitPoint_zone {zi : Nat} (hzone : c.zone = some zi) (hfirst : s.m.firstAdmitted c = true)
    (hup : s.m.acreUp (bedAcre (s.m.zone c.sqe.nsid.toNat zi).bed) = true) :
    exec (.commitPoint stamp) s = .next (s.withM
      ((((s.m.dropStaged stamp).commitZone c zi).controlWrite (bedAcre (s.m.zone c.sqe.nsid.toNat zi).bed)).endWrite stamp c)) := by
  obtain ⟨hstage, hdescs, hladders, hdata, hseal⟩ := hsealed
  rw [exec_commitPoint_eq, execCommitPoint, State.on_eq_withM, hcmd]
  dsimp only
  rw [if_neg (by simp [hstage, hdescs, hladders, hdata, hseal]), hzone]
  dsimp only
  rw [if_neg (by simp [hfirst, hup])]
  rfl

theorem commitPoint_head (hzone : c.zone = none) (hroom : c.nlb ≤ s.m.headFree c.sqe.nsid.toNat) :
    exec (.commitPoint stamp) s = .next (s.withM (((s.m.dropStaged stamp).commitHead c).endWrite stamp c)) := by
  obtain ⟨hstage, hdescs, hladders, hdata, hseal⟩ := hsealed
  rw [exec_commitPoint_eq, execCommitPoint, State.on_eq_withM, hcmd]
  dsimp only
  rw [if_neg (by simp [hstage, hdescs, hladders, hdata, hseal]), hzone]
  dsimp only
  rw [if_neg (by simp [hroom])]
  rfl

end

/-- Settles O24: a reservation ends in `Mach.tryRows`, an admission in `Mach.tryCap`, a grant in `Mach.pump`, and a commit point has one
lemma for a zone and one for headland slots. -/
theorem writeFlowCommandsComplete : Obligations.WriteFlowCommandsComplete := by
  refine ⟨?rows, ?cap, exec_rangeLockGrant_eq, ?commit⟩
  case rows =>
    intro s stamp at_ c rows m hcmd hstage hrows hheld
    rw [exec_stripeRowReservation_eq, Mach.tryRows_reserved hcmd hstage hrows hheld]
  case cap =>
    intro s at_ c m l hsome hcmd hstage hfirst
    have htries := dirtyCapAdmit_tries (m := m) (l := l) rfl rfl hsome
    exact ⟨fun hfits => by rw [htries, Mach.tryCap_admits hcmd hstage hfirst hfits],
      fun hover => by rw [htries, Mach.tryCap_held hcmd hover]⟩
  case commit =>
    intro s stamp c hcmd hstage hdescs hladders hdata hseal m count ends
    have hsealed : s.m.sealedWrite stamp c := ⟨hstage, hdescs, hladders, hdata, hseal⟩
    exact ⟨fun zi hzone hfirst hup => commitPoint_zone hcmd hsealed hzone hfirst hup, commitPoint_head hcmd hsealed⟩

end Sys2Proof.Machine

/-! # Drills: placement, chunks, seals and host requests that fail (08 R387 to R406; 01 R62; 09 R431) -/

namespace Sys2Proof.Machine

section
variable (s : State) (group engine id plot at_ : Nat) (bytes : List Byte)

theorem exec_descriptorPlace_eq : exec (.descriptorPlace bytes at_) s = execDescriptorPlace bytes at_ s := rfl
theorem exec_drillTakeChunk_eq (keyUe : Bool) :
    exec (.drillTakeChunk group engine keyUe at_) s = execDrillTakeChunk group engine keyUe at_ s := rfl
theorem exec_chunkDone_eq (list : List Nat) :
    exec (.chunkDone group engine bytes list) s = execChunkDone group engine bytes list s := rfl
theorem exec_sealReturn_eq (ue : Option Nat) (hostError : Bool) :
    exec (.sealReturn group id ue hostError at_) s = execSealReturn group id ue hostError at_ s := rfl
theorem exec_hostCompletionTimeout_eq :
    exec (.hostCompletionTimeout group id) s = .next (s.withM (s.m.descHostFault group id)) := rfl
theorem exec_hostReadErrorCompletion_eq (descId : Option (Nat × Nat)) :
    exec (.hostReadErrorCompletion plot descId at_) s = execHostReadErrorCompletion plot descId at_ s := rfl

end

/-! ## DESCRIPTOR_PLACE (08 R387, R391) -/

/-- A descriptor as it is placed: unmoved and unchecked. -/
def Desc.placed (id : Nat) (d : DrillDesc) (now : Nat) : Desc :=
  { id := id, d := d, moved := 0, started := false, engine := none, ended := none, seals := 0, sealAt := 0, last := none,
    stream := [], placedAt := now, squash := false }

theorem descriptorPlace_queues {s : State} {bytes : List Byte} {at_ : Nat} {m : Mach} {d : DrillDesc} (hm : s.m.advance at_ = m)
    (hd : DrillDesc.ofBytes bytes = d) (hup : descGroup d = 4 ∨ m.acreUp (descGroup d) = true)
    (hreq : requesterOk d.internal d.requester = true) (hawake : m.awake = true) :
    exec (.descriptorPlace bytes at_) s = .next (s.withM (m.freshId.2.updGroup (descGroup d) fun p =>
      { p with queue := p.queue ++ [Desc.placed m.freshId.1 d m.clk.now] })) := by
  subst hm hd
  rw [exec_descriptorPlace_eq, execDescriptorPlace, State.on_eq_withM]
  dsimp only
  rw [if_neg (by rcases hup with hup | hup <;> simp [hup, hreq, hawake])]
  rfl

/-! ## DRILL_TAKE_CHUNK (08 R389, R395, R403) -/

/-- The code with which a descriptor ends when a drill takes it, 0 where it goes on: its checks are made before its first chunk, and FENCED
gives way to codes 1 and 2 alone. -/
def Mach.takeCode (group : Nat) (x : Desc) (m : Mach) : Nat :=
  let code := if x.started then 0 else m.descCheck x.d
  if (group = 4 ∨ m.acreUp group = true) ∨ code = 1 ∨ code = 2 then code else 3

/-- The key that a drill holds. -/
def Mach.drillKey (group engine : Nat) (m : Mach) : Option Nat := (Tbl.get Engine.init engine (m.group group).engines).keyOf

/-- The drill has to load the requester's key for the descriptor. -/
def Mach.loadsKey (group engine : Nat) (x : Desc) (m : Mach) : Bool :=
  (x.d.enc || x.d.dec) && m.drillKey group engine != some x.d.requester

/-- Where the records of a drill group come from: its acre, or the hub. -/
def groupSrc (group : Nat) : Nat := if group < 4 then group + 1 else 0

/-- The first chunk of a lane 0 descriptor records how long it waited. -/
def Mach.recordWait (group : Nat) (x : Desc) (m : Mach) : Mach :=
  if x.d.lane0 && !x.started then m.record 0x0806 ((m.clk.now - x.placedAt) * 5 / 16) (groupSrc group) else m

/-- What a drill does with the descriptor whose chunk it has taken. -/
def Mach.takesChunk (group engine : Nat) (keyUe : Bool) (x : Desc) (m : Mach) : Mach :=
  if m.takeCode group x ≠ 0 then m.descEnd group x (m.takeCode group x) (m.checkPlace x.d (m.takeCode group x))
  else if x.d.len = 0 then m.descEnd group x 0 0xFFFF
  else if m.masterOff x.d then m.descEnd group x 8 (entryPlace x.d fun e => e.space == .host)
  else if m.loadsKey group engine x && keyUe then m.enterFatal 4
  else (if m.loadsKey group engine x then (m.recordWait group x).record 0x0807 x.d.requester (groupSrc group)
      else m.recordWait group x).startChunk group engine x
    (if m.loadsKey group engine x then some x.d.requester else m.drillKey group engine)

/-- The drill is free, its group is served, and neither sleep nor the start of a power-down holds it back. -/
structure Mach.DrillRuns (group engine : Nat) (m : Mach) : Prop where
  isGroup : group ≤ 4
  isEngine : engine < 8
  hasAcre : group = 4 ∨ group < m.nAcres
  awake : m.awake = true
  operational : m.power.ps < 3
  open_ : group = 4 ∨ m.power.closing = false ∨ m.power.closeAt = none
  free : (m.group group).queue.any (fun x => x.engine == some engine) = false

theorem Mach.DrillRuns.unguarded {group engine : Nat} {m : Mach} (h : m.DrillRuns group engine) :
    ¬(4 < group ∨ 8 ≤ engine ∨ (group ≠ 4 ∧ m.nAcres ≤ group) ∨ m.awake = false ∨ 3 ≤ m.power.ps ∨
      (group ≠ 4 ∧ m.power.closing = true ∧ m.power.closeAt.isSome = true)) := by
  obtain ⟨hgroup, hengine, hacre, hawake, hps, hopen, -⟩ := h
  rintro (hbad | hbad | ⟨hhub, hbad⟩ | hbad | hbad | ⟨hhub, hclosing, hat⟩)
  · omega
  · omega
  · omega
  · simp [hawake] at hbad
  · omega
  · rcases hopen with hopen | hopen | hopen
    · exact hhub hopen
    · simp [hopen] at hclosing
    · simp [hopen] at hat

theorem exec_drillTakeChunk_takes {s : State} {group engine at_ last : Nat} {keyUe : Bool} {w : Desc} {credit : Tbl Nat} {m : Mach}
    (hm : s.m.advance at_ = m) (hruns : m.DrillRuns group engine) (hpick : m.pickChunk s.cfg group = some (w, credit, last)) :
    exec (.drillTakeChunk group engine keyUe at_) s = .next (s.withM
      ((m.engineTakes group engine { w with last := some engine } credit last).takesChunk group engine keyUe
        { w with last := some engine })) := by
  subst hm
  rw [exec_drillTakeChunk_eq, execDrillTakeChunk, State.on_eq_withM]
  dsimp only
  rw [if_neg hruns.unguarded, if_neg (by simp [hruns.free]), hpick]
  rfl

section
variable {m : Mach} {group engine : Nat} {keyUe : Bool} {x : Desc}

theorem Mach.takeCode_of_fresh (hfresh : x.started = false) :
    m.takeCode group x = if (group = 4 ∨ m.acreUp group = true) ∨ m.descCheck x.d = 1 ∨ m.descCheck x.d = 2 then m.descCheck x.d else 3 := by
  simp [Mach.takeCode, hfresh]

theorem Mach.takeCode_of_started (hstarted : x.started = true) :
    m.takeCode group x = if group = 4 ∨ m.acreUp group = true then 0 else 3 := by
  simp [Mach.takeCode, hstarted]

theorem Mach.takesChunk_fails {code : Nat} (hcode : m.takeCode group x = code) (hbad : code ≠ 0) :
    m.takesChunk group engine keyUe x = m.descEnd group x code (m.checkPlace x.d code) := by
  rw [Mach.takesChunk, hcode, if_pos hbad]

section
variable (hcode : m.takeCode group x = 0)
include hcode

theorem Mach.takesChunk_empty (hlen : x.d.len = 0) : m.takesChunk group engine keyUe x = m.descEnd group x 0 0xFFFF := by
  rw [Mach.takesChunk, if_neg (not_not_intro hcode), if_pos hlen]

variable (hlen : x.d.len ≠ 0)
include hlen

theorem Mach.takesChunk_masterOff (hoff : m.masterOff x.d = true) :
    m.takesChunk group engine keyUe x = m.descEnd group x 8 (entryPlace x.d fun e => e.space == .host) := by
  rw [Mach.takesChunk, if_neg (not_not_intro hcode), if_neg hlen, if_pos hoff]

variable (hmaster : m.masterOff x.d = false)
include hmaster

theorem Mach.takesChunk_keyLost (hload : m.loadsKey group engine x = true) (hue : keyUe = true) :
    m.takesChunk group engine keyUe x = m.enterFatal 4 := by
  rw [Mach.takesChunk, if_neg (not_not_intro hcode), if_neg hlen, if_neg (by simp [hmaster]), if_pos (by simp [hload, hue])]

theorem Mach.takesChunk_loads (hload : m.loadsKey group engine x = true) (hue : keyUe = false) :
    m.takesChunk group engine keyUe x =
      ((m.recordWait group x).record 0x0807 x.d.requester (groupSrc group)).startChunk group engine x (some x.d.requester) := by
  rw [Mach.takesChunk, if_neg (not_not_intro hcode), if_neg hlen, if_neg (by simp [hmaster]), if_neg (by simp [hue]), if_pos hload, if_pos hload]

theorem Mach.takesChunk_holdsKey (hload : m.loadsKey group engine x = false) :
    m.takesChunk group engine keyUe x = (m.recordWait group x).startChunk group engine x (m.drillKey group engine) := by
  have hnot : ¬m.loadsKey group engine x = true := by simp [hload]
  rw [Mach.takesChunk, if_neg (not_not_intro hcode), if_neg hlen, if_neg (by simp [hmaster]), if_neg (by simp [hload]), if_neg hnot, if_neg hnot]

end

end

/-! ## CHUNK_DONE (08 R388, R400 to R403) -/

/-- The first grain of the chunk whose CRC is not that of the list, where the descriptor checks it. -/
def Mach.chunkBad (x : Desc) (bytes : List Byte) (list : List Nat) (m : Mach) : Option Nat :=
  if x.d.grainChk then badGrain (m.chunkBytes x (window bytes 0 x.chunk)).1 list else none

/-- How many of the chunk's bytes have moved: none after a squash, otherwise those before the first bad grain. -/
def Mach.chunkMoved (x : Desc) (bytes : List Byte) (list : List Nat) (m : Mach) : Nat :=
  if x.squash then 0 else match m.chunkBad x bytes list with | some k => 1024 * k | none => x.chunk

/-- The descriptor with what has moved of its chunk. -/
def Mach.chunkJoined (x : Desc) (bytes : List Byte) (list : List Nat) (m : Mach) : Desc :=
  x.join ((m.chunkBytes x (window bytes 0 x.chunk)).1.take (m.chunkMoved x bytes list))

/-- The chunk's bytes and grain CRCs reach their destination, and the drill is free. -/
def Mach.chunkLands (group engine : Nat) (x : Desc) (bytes : List Byte) (list : List Nat) (m : Mach) : Mach :=
  let io := m.chunkBytes x (window bytes 0 x.chunk)
  let k := m.chunkMoved x bytes list
  let y := m.chunkJoined x bytes list
  (m.chunkDram x true k (io.2.take k ++ (grainCrcs (io.1.take k)).flatMap (le 4))).updGroup group fun p =>
    { p with queue := p.queue.map (fun d => if d.id = y.id then y else d),
             engines := Tbl.upd Engine.init engine (fun z => { z with st := 0 }) p.engines }

/-- The descriptor waits for the seals that it needs. -/
def Mach.awaitSeals (group : Nat) (y : Desc) (m : Mach) : Mach :=
  m.updGroup group fun p =>
    { p with queue := p.queue.map fun d => if d.id = y.id then { d with seals := sealsOf group y.d, sealAt := m.clk.now } else d }

/-- How a descriptor goes on when a chunk of it has moved; `bad` is its first bad grain. -/
def Mach.afterChunk (group : Nat) (y : Desc) (bad : Option Nat) (m : Mach) : Mach :=
  if y.squash then m.descEnd group y 11 0xFFFF
  else if !m.checkFence y.d then m.descEnd group y 3 (m.checkPlace y.d 3)
  else if bad.isSome then m.descEnd group y 10 (y.moved / 1024)
  else if y.moved < y.d.len then m
  else if sealsOf group y.d = 0 then m.descEnd group y 0 0xFFFF
  else m.awaitSeals group y

theorem exec_chunkDone_moves {s : State} {group engine : Nat} {bytes : List Byte} {list : List Nat} {x : Desc}
    (hx : (s.m.group group).queue.find? (fun x => x.engine == some engine) = some x) :
    exec (.chunkDone group engine bytes list) s = .next (s.withM ((s.m.chunkLands group engine x bytes list).afterChunk group
      (s.m.chunkJoined x bytes list) (s.m.chunkBad x bytes list))) := by
  rw [exec_chunkDone_eq, execChunkDone, State.on_eq_withM, hx]
  rfl

section
variable {m : Mach} {group : Nat} {y : Desc} {bad : Option Nat}

theorem Mach.afterChunk_squashed (hsquash : y.squash = true) : m.afterChunk group y bad = m.descEnd group y 11 0xFFFF := by
  rw [Mach.afterChunk, if_pos hsquash]

section
variable (hsquash : y.squash = false)
include hsquash

theorem Mach.afterChunk_fenced (hfence : m.checkFence y.d = false) :
    m.afterChunk group y bad = m.descEnd group y 3 (m.checkPlace y.d 3) := by
  rw [Mach.afterChunk, if_neg (by simp [hsquash]), if_pos (by simp [hfence])]

variable (hfence : m.checkFence y.d = true)
include hfence

theorem Mach.afterChunk_badGrain (hbad : bad.isSome = true) : m.afterChunk group y bad = m.descEnd group y 10 (y.moved / 1024) := by
  rw [Mach.afterChunk, if_neg (by simp [hsquash]), if_neg (by simp [hfence]), if_pos hbad]

/-- A chunk without a bad grain leaves the descriptor to what is still to move, and then to its seals. -/
theorem Mach.afterChunk_whole (hbad : bad = none) :
    m.afterChunk group y bad =
      if y.moved < y.d.len then m else if sealsOf group y.d = 0 then m.descEnd group y 0 0xFFFF else m.awaitSeals group y := by
  rw [Mach.afterChunk, if_neg (by simp [hsquash]), if_neg (by simp [hfence]), if_neg (by simp [hbad])]

end

end

/-! ## SEAL_RETURN (08 R404, R405) -/

section
variable (group : Nat) (ue : Option Nat) (hostError : Bool) (x : Desc)

/-- The descriptor with one seal fewer to wait for, and the code that the seal's failure gives it. -/
def Desc.sealBack : Desc :=
  { x with seals := x.seals - 1, ended := if hostError then some 8 else if ue.isSome then some 9 else x.ended }

/-- The uncorrectable line that a seal has met, if any, is recorded. -/
def Mach.recordLostLine (m : Mach) : Mach :=
  match ue with
  | some a => m.record 0x0802 a (groupSrc group)
  | none => m

/-- A seal's return is noted in its descriptor. -/
def Mach.sealNoted (m : Mach) : Mach :=
  (m.recordLostLine group ue).updGroup group fun p =>
    { p with queue := p.queue.map fun d : Desc => if d.id = x.id then x.sealBack ue hostError else d }

/-- The last seal of a descriptor that writes host memory records how long the seals took. -/
def Mach.recordSeals (m : Mach) : Mach :=
  if (dstsOf x.d).any (fun e => e.1.space == .host) then m.record 0x0805 ((m.clk.now - x.sealAt) * 5 / 16) 0 else m

/-- All the seals of a descriptor have returned: it ends, with FENCED where one of its places is fenced. -/
def Mach.sealed (y : Desc) (m : Mach) : Mach :=
  if m.checkFence y.d then m.descDone group y else m.descEnd group y 3 (m.checkPlace y.d 3)

variable {group ue hostError x}

theorem sealReturn_counts {s : State} {id at_ : Nat} {m : Mach} (hm : s.m.advance at_ = m)
    (hx : (m.group group).queue.find? (fun x => x.id == id && decide (0 < x.seals)) = some x) :
    exec (.sealReturn group id ue hostError at_) s = .next (s.withM
      (if 1 < x.seals then m.sealNoted group ue hostError x
        else ((m.sealNoted group ue hostError x).recordSeals x).sealed group (x.sealBack ue hostError))) := by
  subst hm
  have hlast : 0 < x.seals - 1 ↔ 1 < x.seals := Nat.sub_pos_iff_lt
  rw [exec_sealReturn_eq, execSealReturn, State.on_eq_withM]
  dsimp only
  rw [hx]
  simp only [hlast]
  rfl

end

/-! ## Host requests that fail (08 R404, R406; 09 R431) -/

theorem Mach.descHostFault_ends {m : Mach} {group id : Nat} {x : Desc}
    (hx : (m.group group).queue.find? (fun x => x.id == id && x.started) = some x) :
    m.descHostFault group id = m.descEnd group x 8 (entryPlace x.d fun e => e.space == .host) := by
  rw [Mach.descHostFault, hx]

theorem hostReadErrorCompletion_faults {s : State} {plot at_ : Nat} {m : Mach} (hm : s.m.advance at_ = m) (hawake : m.awake = true)
    (hplot : plot < 1024) (descId : Option (Nat × Nat)) :
    exec (.hostReadErrorCompletion plot descId at_) s = .next (s.withM
      (descId.elim (m.plotError plot 3) fun d => m.descHostFault d.1 d.2)) := by
  subst hm
  rw [exec_hostReadErrorCompletion_eq, execHostReadErrorCompletion, State.on_eq_withM]
  dsimp only
  rw [if_neg (by simp [hawake, hplot])]
  cases descId <;> rfl

/-- Settles O23: a chunk that is taken is `Mach.takesChunk`, one that has moved `Mach.afterChunk` and a seal `Mach.sealed`, each with one lemma
for each way in which its descriptor goes on; the failing index is the model's choice (notes/assumptions/133). -/
theorem drillCommandsComplete : Obligations.DrillCommandsComplete := by
  refine ⟨?place, ?take, ?done, ?sealBack, ?timeout, ?readError⟩
  case place => exact fun _ _ _ => descriptorPlace_queues rfl rfl
  case take =>
    intro s group engine at_ last keyUe w credit m x n code late out hgroup hengine hacre hawake hps hopen hfree hpick
    have hout : out = .next (s.withM (n.takesChunk group engine keyUe x)) :=
      exec_drillTakeChunk_takes rfl ⟨hgroup, hengine, hacre, hawake, hps, hopen, hfree⟩ hpick
    have hfresh (h : x.started = false) : n.takeCode group x = code := Mach.takeCode_of_fresh h
    have hstarted (h : x.started = true) : n.takeCode group x = late := Mach.takeCode_of_started h
    clear_value out
    subst hout
    refine ⟨fun hnew hbad => by rw [Mach.takesChunk_fails (hfresh hnew) hbad], fun hold hlate => ?_, fun hgoes hlate => ?_⟩
    · have hcode : late = 3 := if_neg fun hup => hlate (if_pos hup)
      rw [Mach.takesChunk_fails ((hstarted hold).trans hcode) (by decide)]
    · have hcode : n.takeCode group x = 0 := by
        cases hs : x.started with
        | true => exact (hstarted hs).trans hlate
        | false => exact (hfresh hs).trans (hgoes.resolve_left (by simp [hs]))
      refine ⟨fun hlen => by rw [Mach.takesChunk_empty hcode hlen],
        fun hlen hoff => by rw [Mach.takesChunk_masterOff hcode hlen hoff], fun hlen hmaster => ?_⟩
      exact ⟨fun hload hue => by rw [Mach.takesChunk_keyLost hcode hlen hmaster hload hue],
        fun hload hue => by rw [Mach.takesChunk_loads hcode hlen hmaster hload hue]; rfl,
        fun hload => by rw [Mach.takesChunk_holdsKey hcode hlen hmaster hload]; rfl⟩
  case done =>
    intro s group engine bytes list x hx io bad k y n out
    have hout : out = .next (s.withM (n.afterChunk group y bad)) := exec_chunkDone_moves hx
    clear_value out
    subst hout
    refine ⟨fun hsq => by rw [Mach.afterChunk_squashed hsq], fun hsq hfence => by rw [Mach.afterChunk_fenced hsq hfence],
      fun hsq hfence hbad => by rw [Mach.afterChunk_badGrain hsq hfence hbad], fun hsq hfence hbad => ?_⟩
    rw [Mach.afterChunk_whole hsq hfence hbad]
    exact ⟨fun hmore => by rw [if_pos hmore], fun hall hnone => by rw [if_neg hall.not_gt, if_pos hnone],
      fun hall hsome => by rw [if_neg hall.not_gt, if_neg hsome]; rfl⟩
  case sealBack => exact fun _ _ _ _ _ _ _ => sealReturn_counts rfl
  case timeout => exact fun _ _ _ _ hx => by rw [exec_hostCompletionTimeout_eq, Mach.descHostFault_ends hx]
  case readError =>
    intro s plot at_ m hawake hplot
    exact ⟨hostReadErrorCompletion_faults rfl hawake hplot none, fun group id x hx => by
      rw [hostReadErrorCompletion_faults rfl hawake hplot, Option.elim_some, Mach.descHostFault_ends hx]⟩

end Sys2Proof.Machine

/-! # Freeze, save, restore, migration keys and thaw of a plot (09 R430, R443 to R449; 04 R184, R215, R216) -/

namespace Sys2Proof.Machine

/-! ## The front-end task of a vendor command on a target plot (04 R215; 09 R418) -/

/-- The vendor command `c` waits: the plot that it names is Resetting (09 R418). -/
def Mach.targetResets (m : Mach) (c : Cmd) : Prop := c.plot = 0 ∧ c.sqe.target < 1024 ∧ (m.plot c.sqe.target).st = .resetting

theorem Mach.cmd?_of_adminCmd {m : Mach} {stamp : Nat} {c : Cmd} (h : m.adminCmd stamp = some c) : m.cmd? stamp = some c := by
  rw [Mach.adminCmd] at h
  split at h
  next k hk =>
    split at h
    · exact hk.trans h
    · cases h
  · cases h

namespace Mach.AdminActs

section
variable {s : State} {m : Mach} {stamp opc : Nat} {c : Cmd} (h : m.AdminActs stamp opc c) {i : Instr}
include h

theorem vendor_waits (hwaits : m.targetResets c) (f : Cmd → Nat → Mach → Mach) : m.vendor stamp opc f = m := by
  rw [Mach.vendor, cmd?_of_adminCmd h.cmd]
  exact if_pos hwaits

/-- A vendor command whose target is not Resetting is an admin command of plot 0 on a plot below 1,024. -/
theorem vendor_goes (hgoes : ¬m.targetResets c) (f : Cmd → Nat → Mach → Mach) :
    m.vendor stamp opc f = m.admin0 stamp opc fun c m =>
      if c.sqe.target < 1024 then f c c.sqe.target m else m.failWith c.stamp St.invalidField := by
  rw [Mach.vendor, cmd?_of_adminCmd h.cmd]
  exact if_neg hgoes

section
variable {f : Cmd → Mach → Mach} (hruns : exec i s = .next (s.withM (m.admin0 stamp opc f)))
include hruns

theorem badBuffer0 (hop : bufferOps.contains opc = true) (hbuf : c.sqe.buf = .malformed ∨ c.sqe.buf = .sglUnsupported) :
    exec i s = .next (s.withM (if c.sqe.buf = .malformed then (m.dropTasks stamp).plotError c.plot 2
      else (m.dropTasks stamp).failWith stamp St.badSglSegment)) := by
  rw [hruns, Mach.admin0, h.admin_badBuffer hop hbuf]

variable (hbuf : bufferOps.contains opc = false ∨ c.sqe.buf = .prp ∨ c.sqe.buf = .sgl)
include hbuf

theorem effect0 (hplot : c.plot = 0) {x : Mach} (hf : f c (m.dropTasks stamp) = x) : exec i s = .next (s.withM (x.actsOnce stamp)) :=
  h.effectAt hruns hbuf ((if_pos hplot).trans hf)

theorem otherPlot0 (hplot : c.plot ≠ 0) :
    exec i s = .next (s.withM (((m.dropTasks stamp).failWith c.stamp St.invalidOpcode).actsOnce stamp)) :=
  h.effectAt hruns hbuf (if_neg hplot)

end

variable {f : Cmd → Nat → Mach → Mach} (hruns : exec i s = .next (s.withM (m.vendor stamp opc f)))
include hruns

theorem vendorWaits (hwaits : m.targetResets c) : exec i s = .next (s.withM m) := by rw [hruns, h.vendor_waits hwaits]

theorem vendorBadBuffer (hgoes : ¬m.targetResets c) (hop : bufferOps.contains opc = true)
    (hbuf : c.sqe.buf = .malformed ∨ c.sqe.buf = .sglUnsupported) :
    exec i s = .next (s.withM (if c.sqe.buf = .malformed then (m.dropTasks stamp).plotError c.plot 2
      else (m.dropTasks stamp).failWith stamp St.badSglSegment)) :=
  h.badBuffer0 (hruns.trans (by rw [h.vendor_goes hgoes])) hop hbuf

variable (hbuf : bufferOps.contains opc = false ∨ c.sqe.buf = .prp ∨ c.sqe.buf = .sgl)
include hbuf

theorem vendorOtherPlot (hplot : c.plot ≠ 0) :
    exec i s = .next (s.withM (((m.dropTasks stamp).failWith c.stamp St.invalidOpcode).actsOnce stamp)) :=
  h.otherPlot0 (hruns.trans (by rw [h.vendor_goes fun hw => hplot hw.1])) hbuf hplot

variable (hplot : c.plot = 0)
include hplot

theorem vendorNoPlot (htarget : 1024 ≤ c.sqe.target) :
    exec i s = .next (s.withM (((m.dropTasks stamp).failWith c.stamp St.invalidField).actsOnce stamp)) :=
  h.effect0 (hruns.trans (by rw [h.vendor_goes fun hw => hw.2.1.not_ge htarget])) hbuf hplot (if_neg htarget.not_gt)

theorem vendorEffect (htarget : c.sqe.target < 1024) (hgoes : ¬m.targetResets c) {x : Mach}
    (hf : f c c.sqe.target (m.dropTasks stamp) = x) : exec i s = .next (s.withM (x.actsOnce stamp)) :=
  h.effect0 (hruns.trans (by rw [h.vendor_goes hgoes])) hbuf hplot ((if_pos htarget).trans hf)

end

end Mach.AdminActs

/-! ## What each command does once its task has ended -/

/-- Plot `p` is Freezing from now on (09 R443 steps 1 and 2). -/
def Mach.freezeBegins (stamp p : Nat) (m : Mach) : Mach :=
  (m.setStage stamp .media).updPlot p fun x =>
    { x with st := .freezing, freezeCmd := stamp, freezeAt := m.clk.now, frzDone := 0, frzSquash := 0 }


/-- The effect of a Freeze of plot `p` (09 R443). -/
def Mach.freezeTask (stamp : Nat) (c : Cmd) (p : Nat) (m : Mach) : Mach :=
  let len := c.sqe.cdw11.toNat
  if p = 0 ∨ (len ≠ 0 ∧ len ≠ 16) then m.failWith stamp St.invalidField
  else if (m.plot p).st ≠ .ready then m.failWith stamp St.plotConflict
  else if len = 16 ∧ (leAt c.sqe.data 0 1).testBit 0 = true then (m.freezeBegins stamp p).freezeSquash p
  else m.freezeBegins stamp p

/-- The record of plot `p` under the key of migration slot `slot`, with its next sequence number, is returned (09 R445, R446). -/
def Mach.saveRecord (stamp p slot key : Nat) (m : Mach) : Mach :=
  let n := (m.plot p).saveSeq + 1
  let x := m.updPlot p fun x => { x with saveSeq := n }
  ((x.updCmd stamp fun k => { k with outData := x.recordBody p slot n ++ recordTagOf (x.recordBody p slot n) key }).finish stamp
    Status.ok 288784).record 0x0909 p 0

/-- The effect of a Save of plot `p` (09 R445). -/
def Mach.saveTask (stamp : Nat) (c : Cmd) (p : Nat) (m : Mach) : Mach :=
  let slot := Word.bits c.sqe.cdw12 2 0
  let key := Tbl.get 0 slot m.plots.migKeys
  if c.sqe.cdw11.toNat < 131072 then m.failWith stamp St.invalidField
  else if (m.plot p).st ≠ .frozen ∨ (m.plot p).key = 0 then m.failWith stamp St.plotConflict
  else if key = 0 then m.failWith stamp St.keyAbsent
  else m.saveRecord stamp p slot key

/-- The effect of a Restore to plot `p` (09 R447, R448). -/
def Mach.restoreTask (stamp : Nat) (c : Cmd) (p : Nat) (m : Mach) : Mach :=
  let len := c.sqe.cdw11.toNat
  if Word.bits c.sqe.cdw12 7 0 ≠ 0 ∨ len = 0 ∨ 131072 < len then m.failWith stamp St.invalidField
  else match m.restoreCheck p c.sqe.data (4 * len) with
    | some (k, st) => (m.failWith stamp st).record 0x090B k 0
    | none =>
      ((m.applyRecord p c.sqe.data).succeed stamp).record 0x090A (b2n (!decide (((c.sqe.data.drop 16).take 16) = m.identity))) 0

/-- The effect of the installation of a migration key (09 R430). -/
def Mach.installKeyTask (stamp : Nat) (c : Cmd) (m : Mach) : Mach :=
  let slot := leAt c.sqe.data 0 1
  if c.sqe.cdw11 ≠ 16 ∨ 8 ≤ slot then m.failWith stamp St.invalidField
  else ((m.onPlots fun x => { x with migKeys := Tbl.put 0 slot (leAt c.sqe.data 32 32) x.migKeys }).saveHub 0x12).succeed stamp

/-- The effect of a Thaw of plot `p` (09 R449). -/
def Mach.thawTask (stamp p : Nat) (m : Mach) : Mach :=
  if (m.plot p).st ≠ .frozen then m.failWith stamp St.plotConflict
  else (m.updPlot p fun x => { x with st := .ready, after := .ready }).succeed stamp

section
variable (s : State) (stamp at_ : Nat)

theorem plotFreeze_runs :
    exec (.plotFreeze stamp at_) s = .next (s.withM ((s.m.advance at_).vendor stamp 0xC1 (Mach.freezeTask stamp))) := rfl

theorem plotSave_runs : exec (.plotSave stamp) s = .next (s.withM (s.m.vendor stamp 0xC2 (Mach.saveTask stamp))) := rfl

theorem plotThaw_runs : exec (.plotThaw stamp) s = .next (s.withM (s.m.vendor stamp 0xC4 fun _ => Mach.thawTask stamp)) := rfl

theorem exec_plotRestore_eq : exec (.plotRestore stamp) s = execPlotRestore stamp s := rfl
theorem exec_installMigrationKey_eq : exec (.installMigrationKey stamp) s = execInstallMigrationKey stamp s := rfl

variable {s stamp} {c : Cmd} (hcmd : s.m.cmd? stamp = some c)
include hcmd

theorem plotRestore_runs (hsub : Word.bits c.sqe.cdw12 7 0 ≠ 1) :
    exec (.plotRestore stamp) s = .next (s.withM (s.m.vendor stamp 0xC3 (Mach.restoreTask stamp))) := by
  rw [exec_plotRestore_eq, execPlotRestore, State.on_eq_withM, if_neg (by simpa only [hcmd, decide_eq_true_eq] using hsub)]
  rfl

theorem installMigrationKey_runs (hsub : Word.bits c.sqe.cdw12 7 0 = 1) :
    exec (.installMigrationKey stamp) s = .next (s.withM (s.m.admin0 stamp 0xC3 (Mach.installKeyTask stamp))) := by
  rw [exec_installMigrationKey_eq, execInstallMigrationKey, State.on_eq_withM, if_neg (by simp only [hcmd, hsub]; decide)]
  rfl

end

/-! ## The cases of each effect -/

section
variable {m : Mach} {stamp p : Nat} {c : Cmd}

theorem Mach.freezeTask_undefined (h : p = 0 ∨ (c.sqe.cdw11.toNat ≠ 0 ∧ c.sqe.cdw11.toNat ≠ 16)) :
    m.freezeTask stamp c p = m.failWith stamp St.invalidField := if_pos h

section
variable (hp : p ≠ 0) (hlen : c.sqe.cdw11.toNat = 0 ∨ c.sqe.cdw11.toNat = 16)
include hp hlen

theorem Mach.freezeTask_notReady (hst : (m.plot p).st ≠ .ready) : m.freezeTask stamp c p = m.failWith stamp St.plotConflict := by
  rw [Mach.freezeTask, if_neg (by omega), if_pos hst]

variable (hst : (m.plot p).st = .ready)
include hst

theorem Mach.freezeTask_squashes (hnow : c.sqe.cdw11.toNat = 16 ∧ (leAt c.sqe.data 0 1).testBit 0 = true) :
    m.freezeTask stamp c p = (m.freezeBegins stamp p).freezeSquash p := by
  rw [Mach.freezeTask, if_neg (by omega), if_neg (not_not.mpr hst), if_pos hnow]

theorem Mach.freezeTask_drains (hlater : ¬(c.sqe.cdw11.toNat = 16 ∧ (leAt c.sqe.data 0 1).testBit 0 = true)) :
    m.freezeTask stamp c p = m.freezeBegins stamp p := by
  rw [Mach.freezeTask, if_neg (by omega), if_neg (not_not.mpr hst), if_neg hlater]

end

theorem Mach.saveTask_noRoom (h : c.sqe.cdw11.toNat < 131072) : m.saveTask stamp c p = m.failWith stamp St.invalidField := if_pos h

section
variable (hlen : 131072 ≤ c.sqe.cdw11.toNat)
include hlen

theorem Mach.saveTask_conflict (h : (m.plot p).st ≠ .frozen ∨ (m.plot p).key = 0) :
    m.saveTask stamp c p = m.failWith stamp St.plotConflict := by
  rw [Mach.saveTask, if_neg hlen.not_gt, if_pos h]

variable (hst : (m.plot p).st = .frozen) (hkey : (m.plot p).key ≠ 0)
include hst hkey

theorem Mach.saveTask_keyAbsent (h : Tbl.get 0 (Word.bits c.sqe.cdw12 2 0) m.plots.migKeys = 0) :
    m.saveTask stamp c p = m.failWith stamp St.keyAbsent := by
  rw [Mach.saveTask, if_neg hlen.not_gt, if_neg (by simp [hst, hkey]), if_pos h]

theorem Mach.saveTask_saves (h : Tbl.get 0 (Word.bits c.sqe.cdw12 2 0) m.plots.migKeys ≠ 0) :
    m.saveTask stamp c p =
      m.saveRecord stamp p (Word.bits c.sqe.cdw12 2 0) (Tbl.get 0 (Word.bits c.sqe.cdw12 2 0) m.plots.migKeys) := by
  rw [Mach.saveTask, if_neg hlen.not_gt, if_neg (by simp [hst, hkey]), if_neg h]

end

theorem Mach.restoreTask_undefined (h : Word.bits c.sqe.cdw12 7 0 ≠ 0 ∨ c.sqe.cdw11.toNat = 0 ∨ 131072 < c.sqe.cdw11.toNat) :
    m.restoreTask stamp c p = m.failWith stamp St.invalidField := if_pos h

section
variable (hdef : ¬(Word.bits c.sqe.cdw12 7 0 ≠ 0 ∨ c.sqe.cdw11.toNat = 0 ∨ 131072 < c.sqe.cdw11.toNat))
include hdef

theorem Mach.restoreTask_applies (h : m.restoreCheck p c.sqe.data (4 * c.sqe.cdw11.toNat) = none) :
    m.restoreTask stamp c p = ((m.applyRecord p c.sqe.data).succeed stamp).record 0x090A
      (b2n (!decide (((c.sqe.data.drop 16).take 16) = m.identity))) 0 := by
  rw [Mach.restoreTask, if_neg hdef, h]

theorem Mach.restoreTask_fails {k : Nat} {st : Status} (h : m.restoreCheck p c.sqe.data (4 * c.sqe.cdw11.toNat) = some (k, st)) :
    m.restoreTask stamp c p = (m.failWith stamp st).record 0x090B k 0 := by
  rw [Mach.restoreTask, if_neg hdef, h]

end

theorem Mach.installKeyTask_undefined (h : c.sqe.cdw11 ≠ 16 ∨ 8 ≤ leAt c.sqe.data 0 1) :
    m.installKeyTask stamp c = m.failWith stamp St.invalidField := if_pos h

theorem Mach.installKeyTask_stores (hlen : c.sqe.cdw11 = 16) (hslot : leAt c.sqe.data 0 1 < 8) :
    m.installKeyTask stamp c = ((m.onPlots fun x =>
      { x with migKeys := Tbl.put 0 (leAt c.sqe.data 0 1) (leAt c.sqe.data 32 32) x.migKeys }).saveHub 0x12).succeed stamp :=
  if_neg (not_or.mpr ⟨not_not.mpr hlen, hslot.not_ge⟩)

theorem Mach.thawTask_conflict (h : (m.plot p).st ≠ .frozen) : m.thawTask stamp p = m.failWith stamp St.plotConflict := if_pos h

theorem Mach.thawTask_thaws (h : (m.plot p).st = .frozen) :
    m.thawTask stamp p = (m.updPlot p fun x => { x with st := .ready, after := .ready }).succeed stamp := if_neg (not_not.mpr h)

end

/-! ## The end of a freeze (09 R443 steps 3 to 5) -/

/-- Every fetched command of the plot is posted, and its data are programmed or dumped (09 R443 step 4). -/
def Mach.freezePosted (m : Mach) (plot : Nat) : Prop :=
  m.front.inflight.all (fun c => c.plot != plot || c.stage == .held) = true ∧ m.unitsFlushed (m.attachedTo plot) = true ∧
    m.front.cqs.all (fun e => decide (e.1 / 1024 ≠ plot) || e.2.hasRoom) = true

/-- Plot `plot` is Frozen, and its Freeze completes with its counts (09 R443 step 5). -/
def Mach.freezeEnds (plot : Nat) (m : Mach) : Mach :=
  let d := ((m.dumpOpen (m.attachedTo plot)).updPlot plot fun x =>
      { x with st := .frozen, after := .frozen, freezeCmd := 0, acc := { x.acc with frozen := true } }).finish
    (m.plot plot).freezeCmd Status.ok (BitVec.ofNat 32 (2 ^ 16 * sat 16 (m.plot plot).frzDone + sat 16 (m.plot plot).frzSquash))
  d.record 0x0908 ((d.clk.now - (m.plot plot).freezeAt) / Config.edgesPerMs) 0

section
variable {s : State} {plot at_ : Nat} {m : Mach} (hm : s.m.advance at_ = m)
include hm

theorem exec_freezeBoundExpiry_eq : exec (.freezeBoundExpiry plot at_) s = .next (s.withM
    (if (m.plot plot).st ≠ .freezing ∨ m.clk.now < (m.plot plot).freezeAt + 10 * Config.edgesPerMs then m else m.freezeSquash plot)) := by
  subst hm
  rfl

theorem freezeDone_ends (hst : (m.plot plot).st = .freezing) (hposted : m.freezePosted plot) :
    exec (.freezeDone plot at_) s = .next (s.withM (m.freezeEnds plot)) := by
  subst hm
  exact congrArg (fun x => Host.Outcome.next (s.withM x)) (if_pos ⟨hst, hposted⟩)

theorem freezeDone_waits (h : (m.plot plot).st ≠ .freezing ∨ ¬m.freezePosted plot) :
    exec (.freezeDone plot at_) s = .next (s.withM m) := by
  subst hm
  exact congrArg (fun x => Host.Outcome.next (s.withM x)) (if_neg (not_and_or.mpr h))

end

/-- Settles O31: the task of a vendor command waits, fails or has its effect (`Mach.AdminActs.vendorWaits` to `vendorEffect`), and each branch of
an effect is a lemma of its own. -/
theorem plotCommandsComplete : Obligations.PlotCommandsComplete := by
  refine ⟨?freeze, ?bounds, ?others⟩
  case freeze =>
    intro s stamp at_ c m n p len acts _ hadmin hturn hopc
    have h : m.AdminActs stamp 0xC1 c := ⟨hadmin, hturn, congrArg BitVec.toNat hopc⟩
    have hruns := plotFreeze_runs s stamp at_
    refine ⟨fun h0 hp hst => h.vendorWaits hruns ⟨h0, hp, hst⟩, fun hgoes hbad => h.vendorBadBuffer hruns hgoes rfl hbad,
      fun hbuf => ⟨fun h0 => h.vendorOtherPlot hruns (.inr hbuf) h0, fun h0 hp => h.vendorNoPlot hruns (.inr hbuf) h0 hp,
        fun h0 hp hst => ?effect⟩⟩
    have acting {x : Mach} (hx : n.freezeTask stamp c p = x) : exec (.plotFreeze stamp at_) s = acts x :=
      h.vendorEffect hruns (.inr hbuf) h0 hp (fun hw => hst hw.2.2) hx
    exact ⟨fun hundef => acting (Mach.freezeTask_undefined hundef),
      fun hp0 hlen hbusy => acting (Mach.freezeTask_notReady hp0 hlen hbusy),
      fun hp0 hlen hready => ⟨fun h16 hbit => acting (Mach.freezeTask_squashes hp0 hlen hready ⟨h16, hbit⟩),
        fun hlater => acting (Mach.freezeTask_drains hp0 hlen hready hlater)⟩⟩
  case bounds =>
    intro s plot at_ m posted
    refine ⟨fun hst hlate => ?_, fun hearly => ?_, fun hst hposted => freezeDone_ends rfl hst hposted, fun hno => freezeDone_waits rfl hno⟩
    · rw [exec_freezeBoundExpiry_eq rfl, if_neg (not_or.mpr ⟨not_not.mpr hst, hlate.not_gt⟩)]
    · rw [exec_freezeBoundExpiry_eq rfl, if_pos hearly]
  case others =>
    intro s stamp c n p waits len slot key into acts bad hcmd hadmin hturn
    have acts_as {opc : BitVec 8} (hopc : c.sqe.opc = opc) : s.m.AdminActs stamp opc.toNat c := ⟨hadmin, hturn, congrArg BitVec.toNat hopc⟩
    have hsave := plotSave_runs s stamp
    have hrestore := plotRestore_runs hcmd
    have hthaw := plotThaw_runs s stamp
    have hkey := installMigrationKey_runs hcmd
    refine ⟨fun hw => ?waiting, fun hbad => ?badBuffer, fun hbuf => ⟨fun h0 => ?otherPlot, fun h0 hp => ?noPlot, fun h0 hp hw hopc => ?save,
      fun h0 hp hw hopc hsub => ?restore, fun h0 hopc hsub => ?install⟩, fun hopc => ?thaw⟩
    case waiting =>
      exact ⟨fun hopc => (acts_as hopc).vendorWaits hsave hw, fun hopc hsub => (acts_as hopc).vendorWaits (hrestore hsub) hw,
        fun hopc => (acts_as hopc).vendorWaits hthaw hw⟩
    case badBuffer =>
      exact ⟨fun hw hopc => (acts_as hopc).vendorBadBuffer hsave hw rfl hbad,
        fun hw hopc hsub => (acts_as hopc).vendorBadBuffer (hrestore hsub) hw rfl hbad,
        fun hopc hsub => (acts_as hopc).badBuffer0 (hkey hsub) rfl hbad⟩
    case otherPlot =>
      exact ⟨fun hopc => (acts_as hopc).vendorOtherPlot hsave (.inr hbuf) h0,
        fun hopc hsub => (acts_as hopc).vendorOtherPlot (hrestore hsub) (.inr hbuf) h0,
        fun hopc hsub => (acts_as hopc).otherPlot0 (hkey hsub) (.inr hbuf) h0⟩
    case noPlot =>
      exact ⟨fun hopc => (acts_as hopc).vendorNoPlot hsave (.inr hbuf) h0 hp,
        fun hopc hsub => (acts_as hopc).vendorNoPlot (hrestore hsub) (.inr hbuf) h0 hp⟩
    case save =>
      have acting {x : Mach} (hx : n.saveTask stamp c p = x) : exec (.plotSave stamp) s = acts x :=
        (acts_as hopc).vendorEffect hsave (.inr hbuf) h0 hp hw hx
      exact ⟨fun hlen => acting (Mach.saveTask_noRoom hlen), fun hlen hno => acting (Mach.saveTask_conflict hlen hno),
        fun hlen hst hk hnone => acting (Mach.saveTask_keyAbsent hlen hst hk hnone),
        fun hlen hst hk hsome => acting (Mach.saveTask_saves hlen hst hk hsome)⟩
    case restore =>
      have acting {x : Mach} (hx : n.restoreTask stamp c p = x) : exec (.plotRestore stamp) s = acts x :=
        (acts_as hopc).vendorEffect (hrestore hsub) (.inr hbuf) h0 hp hw hx
      exact ⟨fun hundef => acting (Mach.restoreTask_undefined hundef),
        fun hdef => ⟨fun hok => acting (Mach.restoreTask_applies hdef hok), fun k st hfail => acting (Mach.restoreTask_fails hdef hfail)⟩⟩
    case install =>
      have acting {x : Mach} (hx : n.installKeyTask stamp c = x) : exec (.installMigrationKey stamp) s = acts x :=
        (acts_as hopc).effect0 (hkey hsub) (.inr hbuf) h0 hx
      exact ⟨fun hundef => acting (Mach.installKeyTask_undefined hundef),
        fun hlen hslot => acting (Mach.installKeyTask_stores hlen hslot)⟩
    case thaw =>
      have h := acts_as hopc
      refine ⟨fun h0 => h.vendorOtherPlot hthaw (.inl rfl) h0, fun h0 hp => h.vendorNoPlot hthaw (.inl rfl) h0 hp, fun h0 hp hw => ?_⟩
      have acting {x : Mach} (hx : n.thawTask stamp p = x) : exec (.plotThaw stamp) s = acts x :=
        h.vendorEffect hthaw (.inl rfl) h0 hp hw hx
      exact ⟨fun hst => acting (Mach.thawTask_conflict hst), fun hst => acting (Mach.thawTask_thaws hst)⟩

end Sys2Proof.Machine

/-! # Plot resets and virtual-function enables (09 R418, R433 to R436) -/

namespace Sys2Proof.Machine

/-! ## The Plot Reset commands that a reset finds (09 R433) -/

/-- The Plot Reset commands of plot 0 that wait for `plot`. -/
def Mach.plotResetCmds (m : Mach) (plot : Nat) : List Cmd :=
  m.front.inflight.filter fun c =>
    c.plot == 0 && c.sq == 0 && c.stage == .fetched && c.sqe.opc == 0xC5 && c.sqe.target == plot && !m.heldByActivation c &&
      m.adminTurn c

/-- Those that have a length, or that name a plot that cannot be reset. -/
def Mach.badResets (m : Mach) (plot : Nat) : List Cmd :=
  (m.plotResetCmds plot).filter fun c => c.sqe.cdw11 != 0 || decide (plot = 0) || decide (1024 ≤ plot)

def Mach.goodResets (m : Mach) (plot : Nat) : List Cmd := (m.plotResetCmds plot).filter fun c => !(m.badResets plot).contains c

/-- The front-end tasks of all of them end, and the bad ones fail. -/
def Mach.takeResets (plot : Nat) (m : Mach) : Mach :=
  (m.badResets plot).foldl (fun m c => m.failWith c.stamp St.invalidField)
    ((m.plotResetCmds plot).foldl (fun m c => m.dropTasks c.stamp) m)

/-- The commands `good` wait for the end of the plot's reset. -/
def Mach.joinReset (plot : Nat) (good : List Cmd) (m : Mach) : Mach :=
  (good.foldl (fun m c => m.setStage c.stamp .media) m).updPlot plot fun x =>
    { x with resetCmds := x.resetCmds ++ good.map (fun c => c.stamp) }

/-- What the reset does to the plot, by its state (09 R418). -/
def Mach.resetPlot (plot : Nat) (good : List Cmd) (m : Mach) : Mach :=
  match (m.plot plot).st, (m.plot plot).st.afterReset with
  | .absent, _ => good.foldl (fun m c => m.failWith c.stamp St.plotConflict) m
  | _, after =>
    match after with
    | some a => (m.joinReset plot good).startPlotReset plot a
    | none => m.joinReset plot good

section
variable {m : Mach} {plot : Nat} {good : List Cmd}

theorem Mach.resetPlot_absent (h : (m.plot plot).st = .absent) :
    m.resetPlot plot good = good.foldl (fun m c => m.failWith c.stamp St.plotConflict) m := by
  rw [Mach.resetPlot, h]

theorem Mach.resetPlot_joins (h : (m.plot plot).st = .resetting) : m.resetPlot plot good = m.joinReset plot good := by
  rw [Mach.resetPlot, h]
  rfl

theorem Mach.resetPlot_starts {a : PlotState} (h : (m.plot plot).st.afterReset = some a) :
    m.resetPlot plot good = (m.joinReset plot good).startPlotReset plot a := by
  rw [Mach.resetPlot, h]
  split
  next _ habsent => cases (habsent ▸ h : PlotState.absent.afterReset = some a)
  next => rfl

end

/-- A plot that is Ready or in error leaves its reset Ready. -/
theorem PlotState.afterReset_ready {st : PlotState} (h : st = .ready ∨ st = .error) : st.afterReset = some .ready := by
  obtain rfl | rfl := h <;> rfl

/-- A plot that is Frozen or Freezing keeps that state after its reset. -/
theorem PlotState.afterReset_self {st : PlotState} (h : st = .frozen ∨ st = .freezing) : st.afterReset = some st := by
  obtain rfl | rfl := h <;> rfl

/-- An Absent or Resetting plot does not start a reset. -/
theorem PlotState.afterReset_none {st : PlotState} (h : st = .absent ∨ st = .resetting) : st.afterReset = none := by
  obtain rfl | rfl := h <;> rfl

/-! ## PLOT_RESET (09 R433) -/

section
variable {s : State} {port plot at_ : Nat} {m : Mach} (hm : s.m.advance at_ = m)
include hm

theorem exec_plotReset_eq : exec (.plotReset port plot at_) s = .next (s.withM
    (if !m.awake || m.plotPort plot != port then m
    else if plot = 0 ∨ 1024 ≤ plot ∨ ((m.plotResetCmds plot).isEmpty = false ∧ (m.goodResets plot).isEmpty = true) then m.takeResets plot
    else (m.takeResets plot).resetPlot plot (m.goodResets plot))) := by
  subst hm
  rfl

theorem plotReset_ignored (h : m.awake = false ∨ m.plotPort plot ≠ port) : exec (.plotReset port plot at_) s = .next (s.withM m) := by
  rw [exec_plotReset_eq hm, if_pos (by simpa using h)]

variable (hawake : m.awake = true) (hport : m.plotPort plot = port)
include hawake hport

theorem plotReset_refused (h : plot = 0 ∨ 1024 ≤ plot ∨ (m.plotResetCmds plot ≠ [] ∧ m.goodResets plot = [])) :
    exec (.plotReset port plot at_) s = .next (s.withM (m.takeResets plot)) := by
  rw [exec_plotReset_eq hm, if_neg (by simp [hawake, hport]), if_pos (by simpa using h)]

theorem plotReset_resets (hpos : 1 ≤ plot) (hlt : plot < 1024) (hcmds : m.plotResetCmds plot = [] ∨ m.goodResets plot ≠ []) :
    exec (.plotReset port plot at_) s = .next (s.withM ((m.takeResets plot).resetPlot plot (m.goodResets plot))) := by
  have hgoes : ¬(m.plotResetCmds plot ≠ [] ∧ m.goodResets plot = []) := by rwa [not_and_or, not_not]
  rw [exec_plotReset_eq hm, if_neg (by simp [hawake, hport]), if_neg]
  simpa only [List.isEmpty_iff, List.isEmpty_eq_false_iff, not_or, not_le] using ⟨Nat.one_le_iff_ne_zero.mp hpos, hlt, hgoes⟩

end

/-! ## The end of a plot reset (09 R433 step 3, R435) -/

section
variable {s : State} {plot at_ : Nat} {m : Mach} (hm : s.m.advance at_ = m)
include hm

theorem exec_plotResetHostTimeout_eq : exec (.plotResetHostTimeout plot at_) s = .next (s.withM
    (if (m.plot plot).st ≠ .resetting ∨ m.clk.now < (m.plot plot).resetAt + 40 * Config.edgesPerMs ∨ m.plotBusy plot = false then m
    else (m.dropTransfers plot).record 0x0902 plot 0)) := by
  subst hm
  rfl

theorem exec_plotResetDone_eq : exec (.plotResetDone plot at_) s = .next (s.withM
    (if (m.plot plot).st ≠ .resetting then m
    else if m.plotBusy plot = false then m.endPlotReset plot
    else if (m.plot plot).resetAt + 50 * Config.edgesPerMs ≤ m.clk.now then (m.dropTransfers plot).endPlotReset plot
    else m)) := by
  subst hm
  rfl

theorem plotResetHostTimeout_drops (hst : (m.plot plot).st = .resetting) (hbusy : m.plotBusy plot = true)
    (hlate : (m.plot plot).resetAt + 40 * Config.edgesPerMs ≤ m.clk.now) :
    exec (.plotResetHostTimeout plot at_) s = .next (s.withM ((m.dropTransfers plot).record 0x0902 plot 0)) := by
  rw [exec_plotResetHostTimeout_eq hm, if_neg (by simp [hst, hbusy, hlate])]

theorem plotResetDone_ends (hst : (m.plot plot).st = .resetting) (hidle : m.plotBusy plot = false) :
    exec (.plotResetDone plot at_) s = .next (s.withM (m.endPlotReset plot)) := by
  rw [exec_plotResetDone_eq hm, if_neg (not_not.mpr hst), if_pos hidle]

theorem plotResetDone_bound (hst : (m.plot plot).st = .resetting) (hbusy : m.plotBusy plot = true)
    (hlate : (m.plot plot).resetAt + 50 * Config.edgesPerMs ≤ m.clk.now) :
    exec (.plotResetDone plot at_) s = .next (s.withM ((m.dropTransfers plot).endPlotReset plot)) := by
  rw [exec_plotResetDone_eq hm, if_neg (not_not.mpr hst), if_neg (by simp [hbusy]), if_pos hlate]

theorem plotResetDone_waits
    (h : (m.plot plot).st ≠ .resetting ∨ (m.plotBusy plot = true ∧ m.clk.now < (m.plot plot).resetAt + 50 * Config.edgesPerMs)) :
    exec (.plotResetDone plot at_) s = .next (s.withM m) := by
  rw [exec_plotResetDone_eq hm]
  obtain hst | ⟨hbusy, hearly⟩ := h
  · rw [if_pos hst]
  · rw [if_neg (c := m.plotBusy plot = false) (by simp [hbusy]), if_neg hearly.not_ge, ite_self]

end

/-! ## FLR of plot 0 (09 R436) -/

/-- The plots of port 0 become Absent, and its VF Enable is cleared. -/
def Mach.flrPort0 (m : Mach) : Mach :=
  ((m.plotsOn 0 (Tbl.get 0 0 m.plots.vfEn)).foldl (fun m p => m.makeAbsent p) m).onPlots fun x => { x with vfEn := Tbl.put 0 0 0 x.vfEn }

section
variable {s : State} {at_ : Nat} {m : Mach} (hm : s.m.advance at_ = m)
include hm

theorem exec_flrPlot0_eq : exec (.flrPlot0 at_) s = .next (s.withM
    (if !m.awake then m
    else match (m.flrPort0.plot 0).st.afterReset with
      | some a => m.flrPort0.startPlotReset 0 a
      | none => m.flrPort0)) := by
  subst hm
  rfl

theorem flrPlot0_ignored (hoff : m.awake = false) : exec (.flrPlot0 at_) s = .next (s.withM m) := by
  rw [exec_flrPlot0_eq hm, if_pos (by simp [hoff])]

variable (hawake : m.awake = true)
include hawake

theorem flrPlot0_resets {a : PlotState} (hafter : (m.flrPort0.plot 0).st.afterReset = some a) :
    exec (.flrPlot0 at_) s = .next (s.withM (m.flrPort0.startPlotReset 0 a)) := by
  rw [exec_flrPlot0_eq hm, if_neg (by simp [hawake]), hafter]

theorem flrPlot0_keeps (hafter : (m.flrPort0.plot 0).st.afterReset = none) :
    exec (.flrPlot0 at_) s = .next (s.withM m.flrPort0) := by
  rw [exec_flrPlot0_eq hm, if_neg (by simp [hawake]), hafter]

end

/-! ## VF Enable and NumVFs (09 R418) -/

section
variable (s : State) (port numVfs : Nat)

theorem exec_vfEnableSet_eq : exec (.vfEnableSet port numVfs) s = execVfEnableSet port numVfs s := rfl

/-- The test of VF_ENABLE_SET for a write that changes nothing. -/
theorem vfEnable_off_iff (m : Mach) :
    (!m.awake || decide (2 ≤ port) || (decide (port = 1) && !m.boot.straps.portMode) || decide (1023 < numVfs)) = true ↔
      m.awake = false ∨ 2 ≤ port ∨ (port = 1 ∧ m.boot.straps.portMode = false) ∨ 1023 < numVfs := by
  simp [or_assoc]

variable {s port numVfs}

theorem vfEnableSet_ignored
    (hoff : s.m.awake = false ∨ 2 ≤ port ∨ (port = 1 ∧ s.m.boot.straps.portMode = false) ∨ 1023 < numVfs) :
    exec (.vfEnableSet port numVfs) s = .next s := by
  rw [exec_vfEnableSet_eq, execVfEnableSet, State.on_eq_withM, if_pos ((vfEnable_off_iff ..).mpr hoff)]
  rfl

/-- The Absent plots within NumVFs on the port become Ready. -/
theorem vfEnableSet_enables
    (hon : ¬(s.m.awake = false ∨ 2 ≤ port ∨ (port = 1 ∧ s.m.boot.straps.portMode = false) ∨ 1023 < numVfs)) :
    let m := s.m.onPlots fun x => { x with vfEn := Tbl.put 0 port (Nat.max numVfs (Tbl.get 0 port x.vfEn)) x.vfEn }
    exec (.vfEnableSet port numVfs) s = .next (s.withM ((m.plotsOn port numVfs).foldl (fun m p =>
      if (m.plot p).st = .absent then m.updPlot p fun x => { x with st := .ready, after := .ready } else m) m)) := by
  rw [exec_vfEnableSet_eq, execVfEnableSet, State.on_eq_withM, if_neg (mt (vfEnable_off_iff ..).mp hon)]

section
variable {at_ : Nat} {m : Mach} (hm : s.m.advance at_ = m)
include hm

theorem exec_vfEnableClear_eq : exec (.vfEnableClear port numVfs at_) s = .next (s.withM
    (if !m.awake || decide (2 ≤ port) || decide (Tbl.get 0 port m.plots.vfEn ≤ numVfs) then m
    else (((m.plotsOn port (Tbl.get 0 port m.plots.vfEn)).filter (fun p => decide (numVfs < p))).foldl
      (fun m p => m.makeAbsent p) m).onPlots fun x => { x with vfEn := Tbl.put 0 port numVfs x.vfEn })) := by
  subst hm
  rfl

theorem vfEnableClear_ignored (h : m.awake = false ∨ 2 ≤ port ∨ Tbl.get 0 port m.plots.vfEn ≤ numVfs) :
    exec (.vfEnableClear port numVfs at_) s = .next (s.withM m) := by
  rw [exec_vfEnableClear_eq hm, if_pos (by simpa [or_assoc] using h)]

/-- The plots beyond NumVFs on the port become Absent. -/
theorem vfEnableClear_lowers (hawake : m.awake = true) (hport : port < 2) (hless : numVfs < Tbl.get 0 port m.plots.vfEn) :
    exec (.vfEnableClear port numVfs at_) s = .next (s.withM
      ((((m.plotsOn port (Tbl.get 0 port m.plots.vfEn)).filter (fun p => decide (numVfs < p))).foldl
        (fun m p => m.makeAbsent p) m).onPlots fun x => { x with vfEn := Tbl.put 0 port numVfs x.vfEn })) := by
  rw [exec_vfEnableClear_eq hm, if_neg (by simp [hawake, hport, hless])]

end

end

/-- Settles O32: a reset takes the commands that wait for it (`Mach.takeResets`) and then does to the plot what its state asks for
(`Mach.resetPlot`); the state it leads back to is `PlotState.afterReset`, for FLR of plot 0 too. -/
theorem plotResetCommandsComplete : Obligations.PlotResetCommandsComplete := by
  refine ⟨?reset, ?done, ?flr, ?vfSet, ?vfClear⟩
  case reset =>
    intro s port plot at_ m
    refine ⟨fun hoff => plotReset_ignored rfl hoff, fun hawake hport => ?_⟩
    intro cmds bad good n joined
    refine ⟨fun hno => plotReset_refused rfl hawake hport hno, fun hpos hlt hcmds => ?_⟩
    have resets {x : Mach} (hx : n.resetPlot plot good = x) : exec (.plotReset port plot at_) s = .next (s.withM x) := by
      rw [← hx]
      exact plotReset_resets rfl hawake hport hpos hlt hcmds
    exact ⟨fun hst => resets (Mach.resetPlot_absent hst), fun hst => resets (Mach.resetPlot_joins hst),
      fun hst => resets (Mach.resetPlot_starts (PlotState.afterReset_ready hst)),
      fun hst => resets (Mach.resetPlot_starts (PlotState.afterReset_self hst))⟩
  case done =>
    intro s plot at_ m
    exact ⟨fun hst hbusy hlate => plotResetHostTimeout_drops rfl hst hbusy hlate,
      fun hno => by rw [exec_plotResetHostTimeout_eq rfl, if_pos hno],
      fun hst hidle => plotResetDone_ends rfl hst hidle, fun hst hbusy hlate => plotResetDone_bound rfl hst hbusy hlate,
      fun hwait => plotResetDone_waits rfl hwait⟩
  case flr =>
    intro s at_ m n
    exact ⟨fun hoff => flrPlot0_ignored rfl hoff,
      fun hawake hst => flrPlot0_resets rfl hawake (PlotState.afterReset_ready hst),
      fun hawake hst => flrPlot0_resets rfl hawake (PlotState.afterReset_self hst),
      fun hawake hst => flrPlot0_keeps rfl hawake (PlotState.afterReset_none hst)⟩
  case vfSet => exact fun s port numVfs => ⟨vfEnableSet_ignored, vfEnableSet_enables⟩
  case vfClear => exact fun s port numVfs at_ => ⟨vfEnableClear_ignored rfl, vfEnableClear_lowers rfl⟩

end Sys2Proof.Machine

/-! # Ports of a hitch ring (10 R455, R456, R459, R460, R464, R480, R481, R492) -/

namespace Sys2Proof.Machine

/-- A row whose meaning is a map of the machine answers with what the map makes of it. -/
theorem State.next_on {s : State} {f : Cfg → Mach → Mach} {x : Mach} (h : f s.cfg s.m = x) :
    (.next (s.on f) : Host.Outcome State Fault Refusal) = .next (s.withM x) :=
  congrArg (fun m => Host.Outcome.next (s.withM m)) h

/-! ## Training (10 R455, R464) -/

section
variable {s : State} {port width : Nat}

theorem hitchTrainingDone_ignored (h : s.m.ownPort port = false ∨ (s.m.hport port).st ≠ 1) :
    exec (.hitchTrainingDone port width) s = .next s :=
  State.next_on (if_pos (by simpa using h))

section
variable (hown : s.m.ownPort port = true) (hdown : (s.m.hport port).st = 1)
include hown hdown

theorem hitchTrainingDone_trains (hw : width = 8 ∨ width = 4) :
    let m := s.m.updHport port fun p => { p with st := 2, width := width, miss := 0, lastKa := s.m.clk.now }
    exec (.hitchTrainingDone port width) s =
      .next (s.withM (if m.hitch.role = 2 then m.sendAnnounce port else m.segmentUp 0 port)) :=
  State.next_on ((if_neg (by simp [hown, hdown])).trans (if_pos hw))

theorem hitchTrainingDone_retries (hw : ¬(width = 8 ∨ width = 4)) :
    exec (.hitchTrainingDone port width) s = .next (s.withM
      (s.m.updHport port fun p => { p with width := 0, retryAt := s.m.clk.now + 100 * Config.edgesPerMs })) :=
  State.next_on ((if_neg (by simp [hown, hdown])).trans (if_neg hw))

end
end

/-! ## The clocks of a port (10 R455, R460, R480) -/

/-- A port that has trained, its neighbour lost or not, sends and expects KEEPALIVE. -/
def HPort.trained (p : HPort) : Prop := p.st = 2 ∨ p.st = 3

theorem HPort.trained.test {p : HPort} (h : p.trained) : (p.st == 2 || p.st == 3) = true := by simpa [HPort.trained] using h

/-- A KEEPALIVE that the port takes clears its misses; a neighbour that was lost is present from the first one on. -/
def Mach.heard (port : Nat) (m : Mach) : Mach :=
  m.updHport port fun p =>
    { p with miss := 0, lastKa := m.clk.now, upSince := if p.st = 3 then some ((m.hport port).upSince.getD m.clk.now) else none }

section
variable {s : State} {port at_ : Nat} {m : Mach} (hm : s.m.advance at_ = m)
include hm

theorem hitchTrainingRetry_ignored
    (h : m.ownPort port = false ∨ (m.hport port).st ≠ 1 ∨ m.clk.now < (m.hport port).retryAt) :
    exec (.hitchTrainingRetry port at_) s = .next (s.withM m) := by
  subst hm
  exact State.next_on (if_pos (by simpa [or_assoc] using h))

theorem keepaliveSend_ignored
    (h : m.ownPort port = false ∨ ¬(m.hport port).trained ∨ m.clk.now < (m.hport port).sentAt + 10 * Config.edgesPerUs) :
    exec (.keepaliveSend port at_) s = .next (s.withM m) := by
  subst hm
  exact State.next_on (if_pos (by simpa [HPort.trained, or_assoc] using h))

theorem keepalive_ignored (h : m.ownPort port = false ∨ ¬(m.hport port).trained) :
    exec (.keepalive port at_) s = .next (s.withM m) := by
  subst hm
  exact State.next_on (if_pos (by simpa [HPort.trained] using h))

theorem keepaliveMiss_ignored
    (h : m.ownPort port = false ∨ ¬(m.hport port).trained ∨ m.clk.now < (m.hport port).lastKa + 12 * Config.edgesPerUs) :
    exec (.keepaliveMiss port at_) s = .next (s.withM m) := by
  subst hm
  exact State.next_on (if_pos (by simpa [HPort.trained, or_assoc] using h))

variable (hown : m.ownPort port = true)
include hown

theorem hitchTrainingRetry_retries (hdown : (m.hport port).st = 1) (hdue : (m.hport port).retryAt ≤ m.clk.now) :
    exec (.hitchTrainingRetry port at_) s = .next (s.withM
      (m.updHport port fun p => { p with retryAt := m.clk.now + 100 * Config.edgesPerMs })) := by
  subst hm
  exact State.next_on (if_neg (by simp [hown, hdown, hdue]))

variable (htrained : (m.hport port).trained)
include htrained

theorem keepaliveSend_sends (hdue : (m.hport port).sentAt + 10 * Config.edgesPerUs ≤ m.clk.now) :
    exec (.keepaliveSend port at_) s = .next (s.withM
      ((m.sendBody 0x01 (m.neighbour m.hitch.pos port) port 0 []).updHport port fun p => { p with sentAt := m.clk.now })) := by
  subst hm
  exact State.next_on (if_neg (by simp [hown, htrained.test, hdue]))

theorem keepalive_clears
    (hnot : ¬((m.hport port).st = 3 ∧ (m.hport port).upSince.getD m.clk.now + Config.edgesPerMs ≤ m.clk.now)) :
    exec (.keepalive port at_) s = .next (s.withM (m.heard port)) := by
  subst hm
  exact State.next_on ((if_neg (by simp [hown, htrained.test])).trans (if_neg hnot))

theorem keepalive_returns
    (hback : (m.hport port).st = 3 ∧ (m.hport port).upSince.getD m.clk.now + Config.edgesPerMs ≤ m.clk.now) :
    let k := (m.heard port).updHport port fun p => { p with st := 2, upSince := none }
    exec (.keepalive port at_) s =
      .next (s.withM (if k.hitch.role = 2 then k.sendBack 0x05 0 (le 4 port) else k.segmentUp 0 port)) := by
  subst hm
  exact State.next_on ((if_neg (by simp [hown, htrained.test])).trans (if_pos hback))

theorem keepaliveMiss_counts (hdue : (m.hport port).lastKa + 12 * Config.edgesPerUs ≤ m.clk.now) :
    let n := m.updHport port fun p => { p with miss := Nat.min 3 (p.miss + 1), lastKa := m.clk.now, upSince := none }
    exec (.keepaliveMiss port at_) s =
      .next (s.withM (if (m.hport port).st = 2 ∧ (m.hport port).miss = 2 then n.neighbourLost port else n)) := by
  subst hm
  exact State.next_on (if_neg (by simp [hown, htrained.test, hdue]))

end

/-! ## The sideband and the frames that a port takes (10 R456, R459, R460, R492) -/

section
variable {s : State} {port : Nat}

theorem sidebandChange_ignored {pattern : Nat} (h : s.m.ownPort port = false ∨ 3 ≤ pattern) :
    exec (.sidebandChange port pattern) s = .next s :=
  State.next_on (if_pos (by simpa using h))

theorem hitchFrameCrcError_ignored {keepAlive : Bool} (h : s.m.ownPort port = false ∨ keepAlive = true) :
    exec (.hitchFrameCrcError port keepAlive) s = .next s :=
  State.next_on (if_pos (by simpa using h))

theorem hitchFrameRelay_ignored {frame : List Byte} (h : s.m.ownPort port = false ∨ leAt frame 2 1 = s.m.hitch.pos) :
    exec (.hitchFrameRelay port frame) s = .next s :=
  State.next_on (if_pos (by simpa using h))

theorem unknownFrameType_ignored {type : Nat} (h : s.m.ownPort port = false ∨ frameTypes.contains type = true) :
    exec (.unknownFrameType port type) s = .next s :=
  State.next_on (if_pos (by simpa only [Bool.or_eq_true, Bool.not_eq_true'] using h))

variable (hown : s.m.ownPort port = true)
include hown

theorem sidebandChange_noted {pattern : Nat} (hp : pattern < 3) :
    let m := s.m.updHport port fun p => { p with sb := pattern }
    exec (.sidebandChange port pattern) s = .next (s.withM
      (if m.hitch.role = 1 ∧ (m.hport port).st = 3 ∧ pattern = 1 then m.settlePaths (m.neighbour 0 port) else m)) :=
  State.next_on (if_neg (by simp [hown, hp]))

theorem hitchFrameCrcError_counts :
    exec (.hitchFrameCrcError port false) s = .next (s.withM
      ((s.m.updHport port fun p => { p with replays := p.replays + 1 }).record 0x0A09 port 0)) :=
  State.next_on (if_neg (by simp [hown]))

theorem hitchFrameRelay_relays {frame : List Byte} (hother : leAt frame 2 1 ≠ s.m.hitch.pos) :
    exec (.hitchFrameRelay port frame) s = .next (s.withM
      (s.m.onHitch fun h => { h with sent := h.sent ++ [{ port := 1 - port, bytes := frame }] })) :=
  State.next_on (if_neg (by simp [hown, hother]))

theorem unknownFrameType_counts {type : Nat} (hno : frameTypes.contains type = false) :
    exec (.unknownFrameType port type) s = .next (s.withM (s.m.onHitch fun h => { h with unknown := h.unknown + 1 })) :=
  State.next_on (if_neg (by simp only [hown, hno]; decide))

end

/-- Settles O33: each row acts on a port of an awake manager or worker, in the state and at the time that its lemma names. -/
theorem hitchPortCommandsComplete : Obligations.HitchPortCommandsComplete := by
  refine ⟨?training, ?clocks, ?lost, ?sideband, ?frames⟩
  case training =>
    intro s port width
    exact ⟨hitchTrainingDone_ignored, fun hown hdown => ⟨hitchTrainingDone_trains hown hdown,
      fun h8 h4 => hitchTrainingDone_retries hown hdown (not_or.mpr ⟨h8, h4⟩)⟩⟩
  case clocks =>
    intro s port at_ m p trained
    refine ⟨fun hoff => ⟨hitchTrainingRetry_ignored rfl (.inl hoff), keepaliveSend_ignored rfl (.inl hoff),
      keepalive_ignored rfl (.inl hoff), keepaliveMiss_ignored rfl (.inl hoff)⟩, fun hown => ?_⟩
    exact ⟨hitchTrainingRetry_retries rfl hown, fun h => hitchTrainingRetry_ignored rfl (.inr h),
      keepaliveSend_sends rfl hown, fun h => keepaliveSend_ignored rfl (.inr h),
      fun htrained =>
        ⟨fun hnot => keepalive_clears rfl hown htrained fun ⟨h3, hlate⟩ =>
            hnot.elim (fun h2 => absurd (h2.symm.trans h3) (by decide)) hlate.not_gt,
          fun h3 hlate => keepalive_returns rfl hown htrained ⟨h3, hlate⟩⟩,
      fun h => keepalive_ignored rfl (.inr h),
      keepaliveMiss_counts rfl hown, fun h => keepaliveMiss_ignored rfl (.inr h)⟩
  case lost => exact fun _ _ => rfl
  case sideband => exact fun s port pattern => ⟨sidebandChange_ignored, fun hown => sidebandChange_noted hown⟩
  case frames =>
    intro s port type frame
    exact ⟨fun hoff => ⟨hitchFrameCrcError_ignored (.inl hoff), hitchFrameRelay_ignored (.inl hoff),
        unknownFrameType_ignored (.inl hoff)⟩,
      hitchFrameCrcError_ignored (.inr rfl),
      fun hown => ⟨hitchFrameCrcError_counts hown, hitchFrameRelay_relays hown, fun h => hitchFrameRelay_ignored (.inr h),
        unknownFrameType_counts hown, fun h => unknownFrameType_ignored (.inr h)⟩⟩

end Sys2Proof.Machine

/-! # Rings: discovery, announcements, links and Hitch Control (10 R461 to R465, R480 to R487; 04 R184, R216) -/

namespace Sys2Proof.Machine

/-! ## DISCOVER (10 R461 to R463) -/

/-- A manager's DISCOVER that has come in: another manager's, its own that has gone around, or one that it does not wait for. -/
def Mach.managerDiscover (port manager : Nat) (entries : List MemberEntry) (m : Mach) : Mach :=
  if manager ≠ leAt m.identity 0 16 then
    ((m.updHport port fun p => { p with st := 4 }).record 0x0A08 port 0).segmentDown 0 port 0
  else if port = 1 ∧ m.hitch.discAt.isSome = true then m.ringClosed entries
  else m

/-- A worker takes the position that a DISCOVER gives it and sends the frame on; at the end of a chain it makes itself known. -/
def Mach.takePosition (port manager : Nat) (entries : List MemberEntry) (m : Mach) : Mach :=
  let k := m.onHitch fun h =>
    { h with pos := if port = 1 then entries.length else 8 - entries.length, admitted := true, manager := manager,
             lastTime := m.clk.now, orphaned := false }
  let n := k.sendBody 0x02 0 (1 - port) 0 ((entries ++ [k.ownEntry]).flatMap memberBytes)
  if (n.hport (1 - port)).st ≠ 2 ∨ n.boot.recovery = true then n.sendAnnounce port else n

/-- A worker's DISCOVER: of its manager or of the first one, with entries. -/
def Mach.workerDiscover (port manager : Nat) (entries : List MemberEntry) (m : Mach) : Mach :=
  if (m.hitch.admitted = true ∧ m.hitch.manager ≠ manager) ∨ entries.length = 0 then m
  else if 7 < entries.length then m.sendBody 0x02 0 (1 - port) 0 (entries.flatMap memberBytes)
  else m.takePosition port manager entries

section
variable {s : State} {port manager : Nat} {entries : List MemberEntry}

theorem discover_ignored (h : s.m.ownPort port = false ∨ (s.m.hport port).st ≠ 2) :
    exec (.discover port manager entries) s = .next s :=
  State.next_on (if_pos (by simpa using h))

variable (hown : s.m.ownPort port = true) (hup : (s.m.hport port).st = 2) {x : Mach}
include hown hup

theorem discover_manager (hrole : s.m.hitch.role = 1) (hx : s.m.managerDiscover port manager entries = x) :
    exec (.discover port manager entries) s = .next (s.withM x) :=
  State.next_on ((if_neg (by simp [hown, hup])).trans ((if_pos hrole).trans hx))

theorem discover_worker (hrole : s.m.hitch.role ≠ 1) (hx : s.m.workerDiscover port manager entries = x) :
    exec (.discover port manager entries) s = .next (s.withM x) := by
  refine State.next_on ((if_neg (by simp [hown, hup])).trans ((if_neg hrole).trans (Eq.trans ?_ hx)))
  simp only [Bool.and_eq_true, bne_iff_ne, Mach.workerDiscover, Mach.takePosition, ite_or]

end

/-! ## DISCOVER_TIMEOUT (10 R461) -/

/-- The manager sends its DISCOVER the other way, and the ring is broken. -/
def Mach.discoverBack (m : Mach) : Mach :=
  let n := m.sendBody 0x02 0 1 0 (memberBytes m.ownEntry)
  let k := n.onHitch fun h => { h with ring := 3, segDown := if h.segDown.isEmpty then [n.lastMember] else h.segDown }
  (k.settlePaths 0).discoveryEnds

section
variable {s : State} {at_ : Nat} {m : Mach} (hm : s.m.advance at_ = m)
include hm

theorem exec_discoverTimeout_eq : exec (.discoverTimeout at_) s = .next (s.withM
    (match m.hitch.discAt with
     | none => m
     | some t => if m.clk.now < t + Config.edgesPerMs then m else m.discoverBack)) := by
  subst hm
  rfl

theorem discoverTimeout_idle (h : m.hitch.discAt = none) : exec (.discoverTimeout at_) s = .next (s.withM m) := by
  rw [exec_discoverTimeout_eq hm, h]

section
variable {t : Nat} (h : m.hitch.discAt = some t)
include h

theorem discoverTimeout_turns (hdue : t + Config.edgesPerMs ≤ m.clk.now) :
    exec (.discoverTimeout at_) s = .next (s.withM m.discoverBack) := by
  rw [exec_discoverTimeout_eq hm, h]
  dsimp only
  rw [if_neg hdue.not_gt]

theorem discoverTimeout_early (hearly : m.clk.now < t + Config.edgesPerMs) :
    exec (.discoverTimeout at_) s = .next (s.withM m) := by
  rw [exec_discoverTimeout_eq hm, h]
  dsimp only
  rw [if_pos hearly]

end
end

/-! ## ANNOUNCE (10 R462, R464; R489) -/

/-- A worker that is refused. -/
def Mach.refuseMember (m : Mach) : Mach := m.record 0x0A07 (m.ringMembers.length + 1) 0

/-- A member that is known announces itself, by its state. -/
def Mach.announceAgain (port position : Nat) (e : MemberEntry) (m : Mach) : Mach :=
  let n := m.updMember position fun x => { x with entry := e, running := e.version }
  if (m.member position).st = 1 then
    (n.updMember position fun x => { x with staged := if x.staged = some e.version then none else x.staged }).endTurn position
  else if (m.member position).st = 4 then n
  else (n.joinSegments position port).tryReadmit position

/-- What an ANNOUNCE means to a manager whose ring is known. -/
def Mach.announced (port position : Nat) (e : MemberEntry) (m : Mach) : Mach :=
  if position = 0 ∨ 7 < position then m.refuseMember
  else if (m.member position).st = 0 then (m.joinSegments position port).admitMember position e
  else if (m.member position).entry.identity ≠ e.identity then m.refuseMember
  else m.announceAgain port position e

section
variable {s : State} {port position : Nat} {e : MemberEntry}

theorem announce_ignored (h : s.m.ownPort port = false ∨ s.m.hitch.role ≠ 1 ∨ s.m.hitch.ring < 2) :
    exec (.announce port position e) s = .next s :=
  State.next_on (if_pos (by simpa [or_assoc] using h))

theorem announce_acts (hown : s.m.ownPort port = true) (hrole : s.m.hitch.role = 1) (hring : 2 ≤ s.m.hitch.ring) {x : Mach}
    (hx : s.m.announced port position e = x) : exec (.announce port position e) s = .next (s.withM x) :=
  State.next_on ((if_neg (by simp [hown, hrole, Nat.lt_of_succ_le hring])).trans hx)

variable {m : Mach} {n : Nat}

theorem Mach.announced_nowhere (h : position = 0 ∨ 7 < position) : m.announced port position e = m.refuseMember := if_pos h

section
variable (hpos : ¬(position = 0 ∨ 7 < position))
include hpos

theorem Mach.announced_new (hst : (m.member position).st = 0) :
    m.announced port position e = (m.joinSegments position port).admitMember position e :=
  (if_neg hpos).trans (if_pos hst)

variable (hst : (m.member position).st ≠ 0)
include hst

theorem Mach.announced_other (hid : (m.member position).entry.identity ≠ e.identity) :
    m.announced port position e = m.refuseMember :=
  (if_neg hpos).trans ((if_neg hst).trans (if_pos hid))

theorem Mach.announced_known (hid : (m.member position).entry.identity = e.identity) :
    m.announced port position e = m.announceAgain port position e :=
  (if_neg hpos).trans ((if_neg hst).trans (if_neg (not_not.mpr hid)))

end
end

/-! ## Links, readmission and the end of an isolation (10 R480, R481, R484, R485) -/

/-- A manager takes a report about a port of one of its members. -/
def Mach.hearsLink (source port : Nat) (m : Mach) : Prop :=
  m.awake = true ∧ m.hitch.role = 1 ∧ port < 2 ∧ m.ringMembers.contains source = true

/-- The test of LINK_DOWN and LINK_UP for a report that changes nothing. -/
theorem Mach.linkTest_iff {m : Mach} {source port : Nat} :
    (!m.awake || m.hitch.role != 1 || decide (2 ≤ port) || !m.ringMembers.contains source) = true ↔ ¬m.hearsLink source port := by
  simp only [Mach.hearsLink, Bool.or_eq_true, Bool.not_eq_true', Bool.not_eq_true, bne_iff_ne, decide_eq_true_eq, not_and_or, not_lt,
    or_assoc]

section
variable {s : State} {source port sideband position at_ : Nat} {m : Mach} (hm : s.m.advance at_ = m)
include hm

theorem linkDown_acts (h : m.hearsLink source port) :
    exec (.linkDown source port sideband at_) s = .next (s.withM (m.segmentDown source port sideband)) := by
  subst hm
  exact State.next_on (if_neg (mt Mach.linkTest_iff.mp (not_not.mpr h)))

theorem linkDown_ignored (h : ¬m.hearsLink source port) : exec (.linkDown source port sideband at_) s = .next (s.withM m) := by
  subst hm
  exact State.next_on (if_pos (Mach.linkTest_iff.mpr h))

theorem linkUp_acts (h : m.hearsLink source port) : exec (.linkUp source port at_) s = .next (s.withM (m.segmentUp source port)) := by
  subst hm
  exact State.next_on (if_neg (mt Mach.linkTest_iff.mp (not_not.mpr h)))

theorem linkUp_ignored (h : ¬m.hearsLink source port) : exec (.linkUp source port at_) s = .next (s.withM m) := by
  subst hm
  exact State.next_on (if_pos (Mach.linkTest_iff.mpr h))

/-- The member at `n` may be readmitted: it is lost or held, reachable, and 20 ms have passed (10 R484). -/
def Mach.mayReadmit (n : Nat) (m : Mach) : Prop :=
  ((m.member n).st = 2 ∨ (m.member n).st = 3) ∧ m.canReach n = true ∧ (m.member n).lostAt + 20 * Config.edgesPerMs ≤ m.clk.now

theorem readmitTimer_readmits (hrole : m.hitch.role = 1) (h : m.mayReadmit position) :
    exec (.readmitTimer position at_) s = .next (s.withM (m.readmit position)) := by
  subst hm
  exact State.next_on ((if_pos hrole).trans (if_pos h))

theorem readmitTimer_ignored (h : ¬(m.hitch.role = 1 ∧ m.mayReadmit position)) :
    exec (.readmitTimer position at_) s = .next (s.withM m) := by
  subst hm
  by_cases hrole : s.m.hitch.role = 1
  · exact State.next_on ((if_pos hrole).trans (if_neg fun hmay => h ⟨hrole, hmay⟩))
  · exact State.next_on (if_neg hrole)

theorem isolateWaitExpiry_ends (hdue : (m.member position).isoAt + 10 * Config.edgesPerMs ≤ m.clk.now) :
    exec (.isolateWaitExpiry position at_) s = .next (s.withM (m.endIsolate position)) := by
  subst hm
  exact State.next_on (if_pos hdue)

theorem isolateWaitExpiry_early (hearly : m.clk.now < (m.member position).isoAt + 10 * Config.edgesPerMs) :
    exec (.isolateWaitExpiry position at_) s = .next (s.withM m) := by
  subst hm
  exact State.next_on (if_neg hearly.not_ge)

end

/-! ## Hitch Control (04 R215, R216; 10 R461, R485 to R487) -/

/-- The effect of a Hitch Control of plot 0 on a manager is `f` of the position that it names. -/
def Mach.hitchTask (stamp : Nat) (f : Nat → Mach → Mach) (c : Cmd) (m : Mach) : Mach :=
  if c.plot ≠ 0 then m.failWith stamp St.invalidOpcode
  else if m.hitch.role ≠ 1 then m.failWith stamp St.hitchRole
  else f (hcPos c.sqe) m

/-- ... where the position is that of a member in the ring. -/
def Mach.onRingMember (stamp : Nat) (f : Nat → Mach → Mach) (n : Nat) (m : Mach) : Mach :=
  if n = 0 then m.failWith stamp St.invalidField
  else if (m.member n).st = 0 then m.failWith stamp St.hitchAbsent
  else f n m

/-- The effect of an isolation, by the member's state (10 R485). -/
def Mach.isolateMember (stamp n : Nat) (m : Mach) : Mach :=
  if (m.member n).st = 4 then m.finish stamp Status.ok m.upBits
  else if (m.member n).st = 1 then
    ((m.updMember n fun x => { x with st := 4, isoCmd := stamp, isoAt := m.clk.now }).setStage stamp .media).tryIsolate n
  else
    let x := m.updMember n fun x => { x with st := 4, gen := x.gen + 1 }
    (x.hubInt 11).finish stamp Status.ok x.upBits

/-- A readmission that Hitch Control asks for; a member that is up, or still being isolated, is left as it is (10 R485). -/
def Mach.askReadmit (n : Nat) (m : Mach) : Mach :=
  if (m.member n).st = 1 ∨ (m.member n).isoCmd ≠ 0 then m
  else if m.canReach n = true then m.readmit n
  else if (m.member n).st = 4 then m.updMember n fun x => { x with st := 2, lostAt := m.clk.now } else m

/-- The staged image goes out on each direction that leads to a member of `named`, and their reports are awaited (10 R486, R487). -/
def Mach.passImage (stamp : Nat) (named : List Nat) (m : Mach) : Mach :=
  let sent := ([0, 1].filter fun p => named.any fun j => m.pathPort j == p).foldl (fun m p =>
    (m.sendBody 0x20 0 p 0 (m.img.staged.take 4096)).sendBody 0x21 0 p 0 (m.img.staged.drop 4096)) m
  ((sent.onHitch fun x => { x with passCmd := stamp, passWait := named, passBad := false }).setStage stamp .media).passEnds

/-- The effect of a pass-along to position `n`, 0 for every member that is up. -/
def Mach.passAlong (stamp n : Nat) (m : Mach) : Mach :=
  if n ≠ 0 ∧ (m.member n).st ≠ 1 then m.failWith stamp St.hitchAbsent
  else match m.img.hdr with
    | none => m.failWith stamp St.invalidImage
    | some _ => m.passImage stamp (if n = 0 then m.membersUp else [n])

section
variable {s : State} {stamp at_ : Nat} {c : Cmd}

section
variable {m : Mach} (h : m.AdminActs stamp 0xC8 c)
include h

section
variable {i : Instr} {f : Nat → Mach → Mach} (hruns : exec i s = .next (s.withM (m.admin stamp 0xC8 (Mach.hitchTask stamp f))))
include hruns

theorem Mach.AdminActs.hitchOtherPlot (hplot : c.plot ≠ 0) :
    exec i s = .next (s.withM (((m.dropTasks stamp).failWith stamp St.invalidOpcode).actsOnce stamp)) :=
  h.effectAt hruns (.inl rfl) (if_pos hplot)

variable (hplot : c.plot = 0)
include hplot

theorem Mach.AdminActs.hitchNoManager (hrole : (m.dropTasks stamp).hitch.role ≠ 1) :
    exec i s = .next (s.withM (((m.dropTasks stamp).failWith stamp St.hitchRole).actsOnce stamp)) :=
  h.effectAt hruns (.inl rfl) ((if_neg (not_not.mpr hplot)).trans (if_pos hrole))

theorem Mach.AdminActs.hitchEffect (hrole : (m.dropTasks stamp).hitch.role = 1) {x : Mach}
    (hf : f (hcPos c.sqe) (m.dropTasks stamp) = x) : exec i s = .next (s.withM (x.actsOnce stamp)) :=
  h.effectAt hruns (.inl rfl) ((if_neg (not_not.mpr hplot)).trans ((if_neg (not_not.mpr hrole)).trans hf))

end

section
variable (hm : s.m.advance at_ = m)
include hm

theorem hitchRediscover_runs (hact : hcAction c.sqe = 0 ∨ 4 ≤ hcAction c.sqe) (hidle : m.hitch.discAt.isSome = false) :
    exec (.hitchRediscover stamp at_) s = .next (s.withM (m.admin stamp 0xC8 (Mach.hitchTask stamp fun _ m =>
      if hcAction c.sqe ≠ 0 then m.failWith stamp St.invalidField else (m.setStage stamp .media).startDiscovery stamp))) := by
  subst hm
  refine State.next_on ((if_neg (Bool.eq_false_iff.mp hidle)).trans ((h.adminIf_eq (by simpa using hact) _).trans ?_))
  rw [h.admin_acts (.inl rfl), h.admin_acts (.inl rfl)]
  rfl

theorem hitchIsolate_runs (hact : hcAction c.sqe = 1) :
    exec (.hitchIsolate stamp at_) s = .next (s.withM (m.admin stamp 0xC8 (Mach.hitchTask stamp
      (Mach.onRingMember stamp (Mach.isolateMember stamp))))) := by
  subst hm
  exact State.next_on (h.adminIf_eq (by simpa using hact) _)

theorem hitchReadmit_runs (hact : hcAction c.sqe = 2) :
    exec (.hitchReadmit stamp at_) s = .next (s.withM (m.admin stamp 0xC8 (Mach.hitchTask stamp
      (Mach.onRingMember stamp fun n m => (m.askReadmit n).finish stamp Status.ok (m.askReadmit n).upBits)))) := by
  subst hm
  exact State.next_on (h.adminIf_eq (by simpa using hact) _)

end
end

theorem hitchRediscover_waits {m : Mach} (hm : s.m.advance at_ = m) (h : m.hitch.discAt.isSome = true) :
    exec (.hitchRediscover stamp at_) s = .next (s.withM m) := by
  subst hm
  exact State.next_on (if_pos h)

theorem hitchPassAlong_waits (h : s.m.hitch.passCmd ≠ 0) : exec (.hitchPassAlong stamp) s = .next s := State.next_on (if_pos h)

theorem hitchPassAlong_runs (h : s.m.AdminActs stamp 0xC8 c) (hact : hcAction c.sqe = 3) (hidle : s.m.hitch.passCmd = 0) :
    exec (.hitchPassAlong stamp) s = .next (s.withM (s.m.admin stamp 0xC8 (Mach.hitchTask stamp (Mach.passAlong stamp)))) :=
  State.next_on ((if_neg (not_not.mpr hidle)).trans (h.adminIf_eq (by simpa using hact) _))

end

section
variable {m : Mach} {stamp n : Nat} {f : Nat → Mach → Mach}

theorem Mach.onRingMember_manager (h : n = 0) : m.onRingMember stamp f n = m.failWith stamp St.invalidField := if_pos h

section
variable (hn : n ≠ 0)
include hn

theorem Mach.onRingMember_absent (h : (m.member n).st = 0) : m.onRingMember stamp f n = m.failWith stamp St.hitchAbsent :=
  (if_neg hn).trans (if_pos h)

theorem Mach.onRingMember_known (h : (m.member n).st ≠ 0) : m.onRingMember stamp f n = f n m := (if_neg hn).trans (if_neg h)

theorem Mach.passAlong_down (h : (m.member n).st ≠ 1) : m.passAlong stamp n = m.failWith stamp St.hitchAbsent := if_pos ⟨hn, h⟩

end

theorem Mach.isolateMember_up (h : (m.member n).st = 1) : m.isolateMember stamp n =
    ((m.updMember n fun x => { x with st := 4, isoCmd := stamp, isoAt := m.clk.now }).setStage stamp .media).tryIsolate n :=
  (if_neg (by omega)).trans (if_pos h)

theorem Mach.isolateMember_lost (h : (m.member n).st = 2 ∨ (m.member n).st = 3) :
    let x := m.updMember n fun x => { x with st := 4, gen := x.gen + 1 }
    m.isolateMember stamp n = (x.hubInt 11).finish stamp Status.ok x.upBits :=
  (if_neg (by omega)).trans (if_neg (by omega))

section
variable (h : n = 0 ∨ (m.member n).st = 1)
include h

theorem Mach.passAlong_noImage (hhdr : m.img.hdr = none) : m.passAlong stamp n = m.failWith stamp St.invalidImage := by
  rw [Mach.passAlong, if_neg (by tauto), hhdr]

theorem Mach.passAlong_sends {k : ImageHdr} (hhdr : m.img.hdr = some k) :
    m.passAlong stamp n = m.passImage stamp (if n = 0 then m.membersUp else [n]) := by
  rw [Mach.passAlong, if_neg (by tauto), hhdr]

end
end

/-- Settles O34: a DISCOVER, an ANNOUNCE and a Hitch Control each have the effect that their definition above gives them, and every branch of an
effect is a case of its own. -/
theorem hitchRingCommandsComplete : Obligations.HitchRingCommandsComplete := by
  refine ⟨?discover, ?timeout, ?announce, ?links, ?timers, ?control, ?passWaits, ?passAlong⟩
  case discover =>
    intro s port manager entries
    refine ⟨discover_ignored, fun hown hup hrole => ?manager, fun hown hup hrole => ?worker⟩
    case manager =>
      exact ⟨fun hother => discover_manager hown hup hrole (if_pos hother),
        fun hself hport hrun => discover_manager hown hup hrole ((if_neg (not_not.mpr hself)).trans (if_pos ⟨hport, hrun⟩)),
        fun hself hstray => discover_manager hown hup hrole ((if_neg (not_not.mpr hself)).trans (if_neg fun ⟨hport, hrun⟩ =>
          hstray.elim (absurd hport) fun hidle => Bool.eq_false_iff.mp hidle hrun))⟩
    case worker =>
      refine ⟨fun hno => discover_worker hown hup hrole (if_pos hno), fun hmine => ?_⟩
      have hmanager : ¬(s.m.hitch.admitted = true ∧ s.m.hitch.manager ≠ manager) := fun ⟨hadm, hne⟩ =>
        hmine.elim (fun h => Bool.eq_false_iff.mp h hadm) hne
      exact ⟨fun hfull => discover_worker hown hup hrole
          ((if_neg (not_or.mpr ⟨hmanager, by omega⟩)).trans (if_pos hfull)),
        fun hsome hfits => discover_worker hown hup hrole
          ((if_neg (not_or.mpr ⟨hmanager, hsome⟩)).trans (if_neg hfits.not_gt))⟩
  case timeout => exact fun s at_ => ⟨discoverTimeout_idle rfl, fun t h => ⟨discoverTimeout_turns rfl h, discoverTimeout_early rfl h⟩⟩
  case announce =>
    intro s port position e refused n
    refine ⟨announce_ignored, fun hown hrole hring => ?_⟩
    have acts {x : Mach} (hx : s.m.announced port position e = x) : exec (.announce port position e) s = .next (s.withM x) :=
      announce_acts hown hrole hring hx
    refine ⟨fun hno => acts (Mach.announced_nowhere hno), fun h1 h7 => ?_⟩
    have hpos : ¬(position = 0 ∨ 7 < position) := by omega
    refine ⟨fun hst => acts (Mach.announced_new hpos hst), fun hst hid => acts (Mach.announced_other hpos hst hid), fun hid => ?_⟩
    have known (hst : (s.m.member position).st ≠ 0) {x : Mach} (hx : s.m.announceAgain port position e = x) :
        exec (.announce port position e) s = .next (s.withM x) := acts ((Mach.announced_known hpos hst hid).trans hx)
    exact ⟨fun hst => known (by omega) (if_pos hst), fun hst => known (by omega) ((if_neg (by omega)).trans (if_pos hst)),
      fun hst => known (by omega) ((if_neg (by omega)).trans (if_neg (by omega)))⟩
  case links =>
    exact fun s source port at_ sideband => ⟨fun h => ⟨linkDown_acts rfl h, linkUp_acts rfl h⟩,
      fun h => ⟨linkDown_ignored rfl h, linkUp_ignored rfl h⟩⟩
  case timers =>
    exact fun s n at_ => ⟨fun ⟨hrole, hmay⟩ => readmitTimer_readmits rfl hrole hmay, readmitTimer_ignored rfl,
      isolateWaitExpiry_ends rfl, isolateWaitExpiry_early rfl⟩
  case control =>
    intro s stamp at_ c m n k a acts all hcmd hturn hopc
    have h : m.AdminActs stamp 0xC8 c := ⟨hcmd, hturn, congrArg BitVec.toNat hopc⟩
    have rediscover := hitchRediscover_runs h rfl
    have isolate := hitchIsolate_runs h rfl
    have readmit := hitchReadmit_runs h rfl
    refine ⟨hitchRediscover_waits rfl, fun hplot => ?otherPlot, fun hplot hrole => ?noManager, fun hplot hrole =>
      ⟨fun hidle => ?rediscover, fun ha => ?isolate, fun ha => ?readmit⟩⟩
    case otherPlot =>
      exact ⟨fun ha hidle => h.hitchOtherPlot (rediscover ha hidle) hplot, fun ha => h.hitchOtherPlot (isolate ha) hplot,
        fun ha => h.hitchOtherPlot (readmit ha) hplot⟩
    case noManager =>
      exact ⟨fun ha hidle => h.hitchNoManager (rediscover ha hidle) hplot hrole, fun ha => h.hitchNoManager (isolate ha) hplot hrole,
        fun ha => h.hitchNoManager (readmit ha) hplot hrole⟩
    case rediscover =>
      exact ⟨fun ha => h.hitchEffect (rediscover (.inr ha) hidle) hplot hrole (if_pos (show a ≠ 0 by omega)),
        fun ha => h.hitchEffect (rediscover (.inl ha) hidle) hplot hrole (if_neg (not_not.mpr ha))⟩
    case isolate =>
      have effect {x : Mach} := h.hitchEffect (isolate ha) hplot hrole (x := x)
      have known (hk : k ≠ 0) (hst : (n.member k).st ≠ 0) {x : Mach} (hx : n.isolateMember stamp k = x) :
          exec (.hitchIsolate stamp at_) s = acts x := effect ((Mach.onRingMember_known hk hst).trans hx)
      exact ⟨fun hk => effect (Mach.onRingMember_manager hk), fun hk hst => effect (Mach.onRingMember_absent hk hst),
        fun hk hst => known hk (by omega) (if_pos hst), fun hk hst => known hk (by omega) (Mach.isolateMember_up hst),
        fun hk hst => known hk (by omega) (Mach.isolateMember_lost hst)⟩
    case readmit =>
      have effect {x : Mach} := h.hitchEffect (readmit ha) hplot hrole (x := x)
      exact ⟨fun hk => effect (Mach.onRingMember_manager hk), fun hk hst => effect (Mach.onRingMember_absent hk hst),
        fun hk hst => effect (Mach.onRingMember_known hk hst)⟩
  case passWaits => exact fun s stamp => hitchPassAlong_waits
  case passAlong =>
    intro s stamp c hcmd hturn hopc ha hidle n k acts
    have h : s.m.AdminActs stamp 0xC8 c := ⟨hcmd, hturn, congrArg BitVec.toNat hopc⟩
    have runs := hitchPassAlong_runs h ha hidle
    have effect (hplot : c.plot = 0) (hrole : n.hitch.role = 1) {x : Mach} := h.hitchEffect runs hplot hrole (x := x)
    exact ⟨h.hitchOtherPlot runs, h.hitchNoManager runs,
      fun hplot hrole hk hst => effect hplot hrole (Mach.passAlong_down hk hst),
      fun hplot hrole hup => ⟨fun hhdr => effect hplot hrole (Mach.passAlong_noImage hup hhdr),
        fun _ hhdr => effect hplot hrole (Mach.passAlong_sends hup hhdr)⟩⟩

end Sys2Proof.Machine

/-! # Frames of members to their manager (10 R470, R472, R475 to R479, R481, R487, R488) -/

namespace Sys2Proof.Machine

section
variable {s : State} {source gen tag : Nat}

/-! ## Frames about a command that is not outstanding (10 R479) -/

section
variable (h : s.m.fwdOf source gen tag = none)
include h

theorem dataReq_unknown (off len : Nat) : exec (.dataReq source gen tag off len) s = .next s := State.next_on (by simp only [h])

theorem dataR_unknown (off : Nat) (bs : List Block) (crcs : List Word) : exec (.dataR source gen tag off bs crcs) s = .next s :=
  State.next_on (by simp only [h])

theorem cpl_unknown (d0 d1 : Word) (sct sc : Nat) (dnr : Bool) : exec (.cpl source gen tag d0 d1 sct sc dnr) s = .next s :=
  State.next_on (by simp only [h])

theorem cancelReply_unknown (caught : Bool) : exec (.cancelReply source gen tag caught) s = .next s :=
  State.next_on (by simp only [h])

end

section
variable {f : Fwd} (hf : s.m.fwdOf source gen tag = some f)
include hf

section
variable (hc : s.m.cmd? tag = none)
include hc

theorem dataReq_noCommand (off len : Nat) : exec (.dataReq source gen tag off len) s = .next s :=
  State.next_on (by simp only [hf, hc])

theorem dataR_noCommand (off : Nat) (bs : List Block) (crcs : List Word) : exec (.dataR source gen tag off bs crcs) s = .next s :=
  State.next_on (by simp only [hf, hc])

end

/-! ## DATA_REQ (10 R475, R481) -/

/-- The host data of a range go out, 4,096 bytes in each frame. -/
def Mach.sendHostData (source tag off len : Nat) (c : Cmd) (m : Mach) : Mach :=
  (List.range (ceilDiv len 4096)).foldl (fun m i =>
    let k := off / 4096 + i
    let d := if c.sqe.hostData then m.outBlock c k else ([], (c.sqe.data.drop (4096 * k)).take 4096)
    m.sendPart 0x11 (if i + 1 = ceilDiv len 4096 then 1 else 0) source (m.pathPort source) tag (4096 * k) d.1 d.2) m

section
variable {c : Cmd} (hc : s.m.cmd? tag = some c) {off len : Nat}
include hc

theorem dataReq_held (hhold : (s.m.member source).hold = true) : exec (.dataReq source gen tag off len) s = .next s := by
  refine State.next_on ?_
  simp only [hf, hc]
  exact if_pos hhold

theorem dataReq_sends (hfree : (s.m.member source).hold = false) :
    exec (.dataReq source gen tag off len) s = .next (s.withM (s.m.sendHostData source tag off len c)) := by
  refine State.next_on ?_
  simp only [hf, hc]
  exact if_neg (Bool.eq_false_iff.mp hfree)

/-! ## DATA_R (06 R310; 10 R475) -/

/-- Read data that follow, and whose grains match, are moved on. -/
def Mach.readMoves (tag : Nat) (c : Cmd) (bs : List Block) (plain : List (Option Block)) (m : Mach) : Mach :=
  (m.updFwd tag fun k => { k with rdBytes := k.rdBytes + 4096 * bs.length }).updCmd tag fun k =>
    if c.movesBlocks then { k with outBlocks := k.outBlocks ++ plain.filterMap id }
    else if c.checksBlocks then k
    else { k with outData := (k.outData ++ bs.flatMap blockBytes).take k.sqe.bufLen }

/-- A read with a grain that does not match is run once more, and fails the second time. -/
def Mach.readSpoils (source tag : Nat) (f : Fwd) (c : Cmd) (m : Mach) : Mach :=
  let n := (m.hubInt 14).record 0x0803 c.plot 0
  if c.resensed = true then ((n.record 0x0609 c.plot 0).failWith tag St.unrecovered).dropFwd f
  else ((n.updFwd tag fun k => { k with rdBytes := 0 }).updCmd tag fun k =>
    { k with resensed := true, outBlocks := [], outData := [] }).sendCmd tag source true

variable {bs : List Block} {crcs : List Word}

theorem dataR_stray (hoff : off ≠ f.rdBytes) : exec (.dataR source gen tag off bs crcs) s = .next s := by
  refine State.next_on ?_
  simp only [hf, hc]
  exact if_pos hoff

theorem dataR_moves (hplain : (s.m.inBlocks c f.rdBytes bs crcs).all (fun b => b.isSome) = true) :
    exec (.dataR source gen tag f.rdBytes bs crcs) s =
      .next (s.withM (s.m.readMoves tag c bs (s.m.inBlocks c f.rdBytes bs crcs))) := by
  refine State.next_on ?_
  simp only [hf, hc]
  exact (if_neg (not_not.mpr rfl)).trans (if_pos hplain)

theorem dataR_spoils (hplain : (s.m.inBlocks c f.rdBytes bs crcs).all (fun b => b.isSome) = false) {x : Mach}
    (hx : s.m.readSpoils source tag f c = x) : exec (.dataR source gen tag f.rdBytes bs crcs) s = .next (s.withM x) := by
  refine State.next_on ?_
  simp only [hf, hc]
  exact (if_neg (not_not.mpr rfl)).trans ((if_neg (Bool.eq_false_iff.mp hplain)).trans hx)

end

end

/-! ## CPL and CANCEL_REPLY (10 R476, R477) -/

/-- An isolation of a member that waits for its commands ends once none is outstanding (10 R485). -/
def Mach.isolateGoes (source : Nat) (m : Mach) : Mach := if (m.member source).isoCmd ≠ 0 then m.tryIsolate source else m

/-- A CPL is acknowledged. -/
def Mach.acknowledge (source tag : Nat) (m : Mach) : Mach :=
  (m.sendBody 0x16 source (m.pathPort source) 0 (le 8 tag)).isolateGoes source

/-- The member has ended the command with a status, which the command completes with. -/
def Mach.memberEnds (source tag : Nat) (c : Cmd) (st : Status) (d0 d1 : Word) (m : Mach) : Mach :=
  let n := m.updCmd tag fun k => { k with dw1 := d1, committed := true }
  let k := n.finish tag st (if st = Status.ok then memberDw0 c source d0 else d0)
  if st = Status.ok then k.memberDone c source else k

section
variable {m : Mach} {c : Cmd} {st : Status} {d0 d1 : Word}

theorem Mach.memberEnds_ok (h : st = Status.ok) : m.memberEnds source tag c st d0 d1 =
    ((m.updCmd tag fun k => { k with dw1 := d1, committed := true }).finish tag st (memberDw0 c source d0)).memberDone c source := by
  simp only [Mach.memberEnds, if_pos h]

theorem Mach.memberEnds_failed (h : st ≠ Status.ok) : m.memberEnds source tag c st d0 d1 =
    (m.updCmd tag fun k => { k with dw1 := d1, committed := true }).finish tag st d0 := by
  simp only [Mach.memberEnds, if_neg h]

end

/-- A successful CPL has overtaken data of its read. -/
def Mach.cplEarly (tag : Nat) (f : Fwd) (st : Status) (m : Mach) : Prop :=
  st = Status.ok ∧ ∃ c, m.cmd? tag = some c ∧ c.checksBlocks = true ∧ f.rdBytes < 4096 * c.sqe.nlb

section
variable {f : Fwd} (hf : s.m.fwdOf source gen tag = some f)
include hf

section
variable {d0 d1 : Word} {sct sc : Nat} {dnr : Bool}

theorem cpl_early (h : s.m.cplEarly tag f { sct := sct, sc := sc, dnr := dnr }) :
    exec (.cpl source gen tag d0 d1 sct sc dnr) s = .next s := by
  obtain ⟨hok, c, hc, hchecks, hshort⟩ := h
  refine State.next_on ?_
  simp only [hf, hc]
  exact if_pos (by simp [hok, hchecks, hshort])

theorem cpl_noCommand (hc : s.m.cmd? tag = none) :
    exec (.cpl source gen tag d0 d1 sct sc dnr) s =
      .next (s.withM (((s.m.answerAborts tag false).dropFwd f).acknowledge source tag)) := by
  refine State.next_on ?_
  simp only [hf, hc]
  rfl

theorem cpl_ends {c : Cmd} (hc : s.m.cmd? tag = some c) (hwhole : ¬s.m.cplEarly tag f { sct := sct, sc := sc, dnr := dnr })
    {x : Mach} (hx : ((s.m.answerAborts tag false).dropFwd f).memberEnds source tag c { sct := sct, sc := sc, dnr := dnr } d0 d1 = x) :
    exec (.cpl source gen tag d0 d1 sct sc dnr) s = .next (s.withM (x.acknowledge source tag)) := by
  subst hx
  refine State.next_on ?_
  simp only [hf, hc]
  refine if_neg fun hshort => hwhole ?_
  obtain ⟨⟨hok, hchecks⟩, hlt⟩ : (_ ∧ _) ∧ _ := by simpa using hshort
  exact ⟨hok, c, hc, hchecks, hlt⟩

end

theorem cancelReply_caught_noCommand (hc : ((s.m.answerAborts tag true).dropFwd f).cmd? tag = none) :
    exec (.cancelReply source gen tag true) s =
      .next (s.withM (((s.m.answerAborts tag true).dropFwd f).isolateGoes source)) := by
  refine State.next_on ?_
  simp only [hf, hc]
  rfl

theorem cancelReply_caught {c : Cmd} (hc : ((s.m.answerAborts tag true).dropFwd f).cmd? tag = some c) :
    exec (.cancelReply source gen tag true) s = .next (s.withM
      ((((s.m.answerAborts tag true).dropFwd f).failWith tag (if c.caught then c.status else St.abortRequested)).isolateGoes source)) := by
  refine State.next_on ?_
  simp only [hf, hc]
  rfl

theorem cancelReply_missed : exec (.cancelReply source gen tag false) s = .next (s.withM
    ((s.m.answerAborts tag false).updCmd tag fun k => { k with caught := false, status := Status.ok })) := by
  refine State.next_on ?_
  simp only [hf]
  rfl

end

/-! ## RESYNC_REPLY (10 R481) -/

/-- The manager waits for a RESYNC_REPLY of the member, under its present generation. -/
def Mach.resyncs (source gen : Nat) (m : Mach) : Prop :=
  m.hitch.role = 1 ∧ (m.member source).gen = gen ∧ (m.member source).hold = true

theorem Mach.resyncTest_iff {m : Mach} :
    (m.hitch.role ≠ 1 ∨ (m.member source).gen ≠ gen ∨ (m.member source).hold = false) ↔ ¬m.resyncs source gen := by
  rw [Mach.resyncs, not_and_or, not_and_or, Bool.not_eq_true]

/-- Commands outstanding at the member that it has not received, by the tags of its reply. -/
def Mach.notReceived (m : Mach) (source : Nat) (tags : List (Nat × Nat × Nat)) : List Fwd :=
  (m.fwdsOf source).filter fun f => match tags.find? (fun t => t.1 == f.stamp) with
    | some t => t.2.1 == 0
    | none => true

section
variable {tags : List (Nat × Nat × Nat)}

theorem resyncReply_ignored (h : ¬s.m.resyncs source gen) : exec (.resyncReply source gen tags) s = .next s :=
  State.next_on (if_pos (Mach.resyncTest_iff.mpr h))

theorem resyncReply_resumes (h : s.m.resyncs source gen) :
    let m := (s.m.updMember source fun x => { x with hold := false }).record 0x0A02 tags.length 0
    exec (.resyncReply source gen tags) s = .next (s.withM
      ((m.notReceived source tags).foldl (fun m f => m.sendCmd f.stamp source false) m)) :=
  State.next_on (if_neg (mt Mach.resyncTest_iff.mp (not_not.mpr h)))

end

/-! ## IMG_STS (10 R487, R488) -/

section
variable {r : Nat}

theorem imgSts_ignored (h : s.m.hitch.role ≠ 1 ∨ s.m.hitch.passWait.contains source = false) :
    exec (.imgSts source r) s = .next s :=
  State.next_on (if_pos h)

variable (hrole : s.m.hitch.role = 1) (hwait : s.m.hitch.passWait.contains source = true)
include hrole hwait

theorem imgSts_awaited : ¬(s.m.hitch.role ≠ 1 ∨ s.m.hitch.passWait.contains source = false) :=
  not_or.mpr ⟨not_not.mpr hrole, by rw [hwait]; decide⟩

theorem imgSts_staged : exec (.imgSts source 0) s = .next (s.withM
    (((s.m.updMember source fun x => { x with staged := s.m.img.hdr.map (fun h => h.version) }).onHitch fun h =>
      { h with passWait := s.m.hitch.passWait.filter fun k => k != source }).passEnds)) :=
  State.next_on ((if_neg (imgSts_awaited hrole hwait)).trans (if_pos rfl))

/-- A refusal of the header (1) keeps it from the members beyond; any other failure is the member's own. -/
theorem imgSts_refused (hr : r ≠ 0) :
    let left := s.m.hitch.passWait.filter fun k => k != source
    exec (.imgSts source r) s = .next (s.withM
      (((s.m.record 0x0A0A r 0).onHitch fun h =>
        { h with passWait := if r = 1 then left.filter (fun k => !s.m.beyond source k) else left, passBad := true }).passEnds)) :=
  State.next_on ((if_neg (imgSts_awaited hrole hwait)).trans (if_neg hr))

end

/-! ## REG_DATA and TALLY (10 R470, R472) -/

section
variable {offset : Nat} {v : Word}

/-- A read of the member's register waits (10 R470). -/
def Mach.awaitsReg (source offset : Nat) (m : Mach) : Prop :=
  m.hitch.role = 1 ∧ source ≠ 0 ∧ m.hitch.regPend.contains (0x0C000000 + (source - 1) * 0x00800000 + offset) = true

theorem Mach.regDataTest_iff {m : Mach} :
    (m.hitch.role ≠ 1 ∨ source = 0 ∨ m.hitch.regPend.contains (0x0C000000 + (source - 1) * 0x00800000 + offset) = false) ↔
      ¬m.awaitsReg source offset := by
  rw [Mach.awaitsReg, not_and_or, not_and_or, not_not, Bool.not_eq_true]

theorem regData_ignored (h : ¬s.m.awaitsReg source offset) : exec (.regData source offset v) s = .next s :=
  State.next_on (if_pos (Mach.regDataTest_iff.mpr h))

theorem regData_returns (h : s.m.awaitsReg source offset) : exec (.regData source offset v) s = .next (s.withM
    ((s.m.onHitch fun h => { h with regPend := h.regPend.erase (0x0C000000 + (source - 1) * 0x00800000 + offset) }).readReturns v)) :=
  State.next_on (if_neg (mt Mach.regDataTest_iff.mp (not_not.mpr h)))

end

section
variable {minute : Nat} {entries : List (Nat × TallyEntry)}

/-- A minute of the member is missing from the manager's sums (10 R472). -/
def Mach.awaitsTally (source minute : Nat) (m : Mach) : Prop := m.hitch.role = 1 ∧ m.plots.missing.contains (source, minute) = true

theorem Mach.tallyTest_iff {m : Mach} :
    (m.hitch.role ≠ 1 ∨ m.plots.missing.contains (source, minute) = false) ↔ ¬m.awaitsTally source minute := by
  rw [Mach.awaitsTally, not_and_or, Bool.not_eq_true]

/-- One entry of a member's minute is added to its plot, or to the totals. -/
def Mach.addMemberTally (minute : Nat) (m : Mach) (e : Nat × TallyEntry) : Mach :=
  let t := { e.2 with minute := minute }
  if e.1 = 0xFFFF then m.onPlots fun p => { p with totals := joinTally t p.totals }
  else if e.1 < 1024 then m.updPlot e.1 fun x => { x with ring := joinTally t x.ring } else m

theorem tally_ignored (h : ¬s.m.awaitsTally source minute) : exec (.tally source minute entries) s = .next s :=
  State.next_on (if_pos (Mach.tallyTest_iff.mpr h))

theorem tally_adds (h : s.m.awaitsTally source minute) : exec (.tally source minute entries) s = .next (s.withM
    ((entries.foldl (Mach.addMemberTally minute) s.m).onPlots fun p => { p with missing := p.missing.erase (source, minute) })) :=
  State.next_on (if_neg (mt Mach.tallyTest_iff.mp (not_not.mpr h)))

end
end

/-! ## The check of read data (10 R475; 06 R310) -/

section
variable {m : Mach} {c : Cmd} {k : Nat} {b : Block} {crcs : List Nat} (hb : b ≠ 0)
include hb

/-- The plaintext of a block that has been written. -/
def Mach.plainBytes (m : Mach) (c : Cmd) (k : Nat) (b : Block) : List Byte :=
  aesXts true (m.keyBytes (m.plot c.plot).key) (tweakOf (c.sqe.slba + k) c.sqe.nsid.toNat) (blockBytes b)

theorem Mach.inBlock_matches (h : grainCrcs (m.plainBytes c k b) = crcs) :
    m.inBlock c k b crcs = some (blockOf (m.plainBytes c k b)) :=
  (if_neg fun hz => hb hz.1).trans (if_pos h)

theorem Mach.inBlock_differs (h : grainCrcs (m.plainBytes c k b) ≠ crcs) : m.inBlock c k b crcs = none :=
  (if_neg fun hz => hb hz.1).trans (if_neg h)

end

/-- Settles O35: each frame has its effect on an outstanding command of the member's present generation, or on what waits for it, and otherwise
changes nothing. -/
theorem hitchManagerFramesComplete : Obligations.HitchManagerFramesComplete := by
  refine ⟨?unknown, ?noCommand, ?data, ?blocks, ?block, ?cpl, ?cancelReply, ?resyncReply, ?imgSts, ?regData, ?tally⟩
  case unknown => exact fun s source gen tag h => ⟨dataReq_unknown h, dataR_unknown h, cpl_unknown h, cancelReply_unknown h⟩
  case noCommand => exact fun s source gen tag f hf hc => ⟨dataReq_noCommand hf hc, dataR_noCommand hf hc⟩
  case data =>
    intro s source gen tag f c hf hc
    refine ⟨fun _ _ => dataReq_held hf hc, fun _ _ => dataReq_sends hf hc, fun _ _ _ => dataR_stray hf hc, fun bs crcs => ?_⟩
    exact ⟨dataR_moves hf hc,
      fun hplain hre => dataR_spoils hf hc hplain (if_pos hre),
      fun hplain hre => dataR_spoils hf hc hplain (if_neg (Bool.eq_false_iff.mp hre))⟩
  case blocks => exact fun _ _ _ _ _ hchecks => if_pos hchecks
  case block => exact fun _ _ _ _ _ => ⟨Mach.inBlock_matches, Mach.inBlock_differs⟩
  case cpl =>
    intro s source gen tag f d0 d1 sct sc dnr hf st short m after
    refine ⟨cpl_early hf, cpl_noCommand hf, fun c hc hwhole => ?_⟩
    exact ⟨fun hok => cpl_ends hf hc hwhole (Mach.memberEnds_ok hok), fun hbad => cpl_ends hf hc hwhole (Mach.memberEnds_failed hbad)⟩
  case cancelReply =>
    exact fun s source gen tag f hf =>
      ⟨cancelReply_caught_noCommand hf, fun c => cancelReply_caught hf, cancelReply_missed hf⟩
  case resyncReply => exact fun s source gen tags => ⟨resyncReply_ignored, resyncReply_resumes⟩
  case imgSts =>
    intro s source left
    exact ⟨fun h _ => imgSts_ignored h, fun hrole hwait => ⟨imgSts_staged hrole hwait, imgSts_refused hrole hwait Nat.one_ne_zero,
      fun r hr => (imgSts_refused hrole hwait (by omega)).trans (by rw [if_neg (show r ≠ 1 by omega)])⟩⟩
  case regData => exact fun s source offset v => ⟨regData_returns, regData_ignored⟩
  case tally => exact fun s source minute entries => ⟨tally_adds, tally_ignored⟩

end Sys2Proof.Machine

/-! # Frames of a manager to its worker (10 R469 to R477, R481, R483, R487, R489; 13 R585, R586) -/

namespace Sys2Proof.Machine

/-! ## CMD (10 R469, R474, R479, R481; 06 R310) -/

/-- The worker's record of a command that it has just received. -/
def newRecv (gen tag plot : Nat) : Recv :=
  { tag := tag, st := 1, gen := gen, plot := plot, wrBytes := 0, rdFrom := 0, status := Status.ok, dw0 := 0, dw1 := 0, out := [], crcs := [] }

/-- A command of a manager runs; one that has been received already only with the re-sense bit, and before it was cancelled. -/
def Mach.runCmd (gen tag plot : Nat) (admin resense : Bool) (e : Sqe) (m : Mach) : Mach :=
  let c := workerCmd tag plot m.clk.now admin resense e
  match m.recv? tag with
  | none => ((m.onHitch fun h => { h with recv := h.recv ++ [newRecv gen tag plot] }).onFront fun f =>
      { f with nextStamp := Nat.max f.nextStamp (tag + 1) }).launch c
  | some k => if resense = true ∧ k.st ≠ 3 then ((m.squash tag none).updRecv tag fun _ => newRecv gen tag plot).launch c else m

section
variable {s : State} {gen tag plot at_ : Nat} {admin resense : Bool} {e : Sqe} {m : Mach}

theorem Mach.cmd_goes (hworker : m.isWorker = true) (hserves : m.inService = true) : ¬(!m.isWorker || !m.inService) = true := by
  rw [hworker, hserves]
  decide

section
variable (hm : s.m.advance at_ = m)
include hm

theorem cmd_ignored (h : m.isWorker = false ∨ m.inService = false) :
    exec (.cmd gen tag plot admin resense e at_) s = .next (s.withM m) := by
  subst hm
  exact if_pos (by simpa only [State.on_m, Bool.or_eq_true, Bool.not_eq_true'] using h)

variable (hworker : m.isWorker = true) (hserves : m.inService = true)
include hworker hserves

theorem cmd_copies (htag : tag = 0) : exec (.cmd gen tag plot admin resense e at_) s = .next ((s.withM m).takeCopy e) := by
  have hgoes := Mach.cmd_goes hworker hserves
  subst hm
  exact (if_neg hgoes).trans (if_pos htag)

theorem cmd_runs (htag : tag ≠ 0) {x : Mach} (hx : m.runCmd gen tag plot admin resense e = x) :
    exec (.cmd gen tag plot admin resense e at_) s = .next (s.withM x) := by
  have hgoes := Mach.cmd_goes hworker hserves
  subst hm hx
  refine (if_neg hgoes).trans ((if_neg htag).trans (State.next_on ?_))
  simp only [Mach.runCmd, State.on_m, Bool.and_eq_true, bne_iff_ne]
  rfl

end

theorem Mach.runCmd_new (h : m.recv? tag = none) : m.runCmd gen tag plot admin resense e =
    ((m.onHitch fun h => { h with recv := h.recv ++ [newRecv gen tag plot] }).onFront fun f =>
      { f with nextStamp := Nat.max f.nextStamp (tag + 1) }).launch (workerCmd tag plot m.clk.now admin resense e) := by
  simp only [Mach.runCmd, h]

section
variable {k : Recv} (h : m.recv? tag = some k)
include h

theorem Mach.runCmd_again (hagain : resense = true ∧ k.st ≠ 3) : m.runCmd gen tag plot admin resense e =
    ((m.squash tag none).updRecv tag fun _ => newRecv gen tag plot).launch (workerCmd tag plot m.clk.now admin resense e) := by
  simp only [Mach.runCmd, h, if_pos hagain]

theorem Mach.runCmd_known (hnot : ¬(resense = true ∧ k.st ≠ 3)) : m.runCmd gen tag plot admin resense e = m := by
  simp only [Mach.runCmd, h, if_neg hnot]

end
end

/-! ## DATA_W (10 R475) -/

section
variable {s : State} {gen tag off : Nat} {blocks : List Block} {crcs : List Word}

theorem dataW_unknown (h : s.m.recv? tag = none) : exec (.dataW gen tag off blocks crcs) s = .next s := State.next_on (by simp only [h])

/-- Write data of a received command follow what has come. -/
def Mach.writeFollows (gen off : Nat) (r : Recv) (m : Mach) : Prop := m.isWorker = true ∧ r.st = 1 ∧ r.gen = gen ∧ r.wrBytes = off

theorem Mach.dataWTest_iff {m : Mach} {r : Recv} :
    (!m.isWorker || r.st != 1 || r.gen != gen || r.wrBytes != off) = true ↔ ¬m.writeFollows gen off r := by
  simp only [Mach.writeFollows, Bool.or_eq_true, Bool.not_eq_true', Bool.not_eq_true, bne_iff_ne, not_and_or, or_assoc, ne_eq]

section
variable {r : Recv} (h : s.m.recv? tag = some r)
include h

theorem dataW_ignored (hno : ¬s.m.writeFollows gen off r) : exec (.dataW gen tag off blocks crcs) s = .next s := by
  refine State.next_on ?_
  simp only [h]
  exact if_pos (Mach.dataWTest_iff.mpr hno)

theorem dataW_adds (hfollows : s.m.writeFollows gen off r) : exec (.dataW gen tag off blocks crcs) s = .next (s.withM
    ((s.m.updRecv tag fun k => { k with wrBytes := k.wrBytes + 4096 * blocks.length }).updCmd tag fun k =>
      { k with sqe := { k.sqe with blocks := k.sqe.blocks ++ blocks }, crcs := k.crcs ++ crcs.map fun w => w.toNat })) := by
  refine State.next_on ?_
  simp only [h]
  exact if_neg (mt Mach.dataWTest_iff.mp (not_not.mpr hfollows))

end

/-- A controller that is no worker takes no write data. -/
theorem dataW_idle (hidle : s.m.isWorker = false) : exec (.dataW gen tag off blocks crcs) s = .next s := by
  cases h : s.m.recv? tag with
  | none => exact dataW_unknown h
  | some r => exact dataW_ignored h fun hfollows => Bool.eq_false_iff.mp hidle hfollows.1

end

/-! ## CANCEL (10 R477; 04 R206 to R208) -/

/-- What a worker does about a CANCEL: a command that can be caught is squashed, and otherwise the answer says what became of the tag. -/
def Mach.cancelled (gen tag reason : Nat) (m : Mach) : Mach :=
  match m.recv? tag, m.cmd? tag with
  | some r, some c =>
    if r.gen ≠ gen then m
    else if r.st = 1 ∧ c.committed = false ∧ c.stage ≠ .done ∧ (reason ≠ 0 ∨ neverCaught c = false) then
      ((m.squash tag none).updRecv tag fun k => { k with st := 3 }).sendBack 0x15 tag (le 1 0)
    else m.sendBack 0x15 tag (le 1 1)
  | some r, none => if r.gen ≠ gen then m else m.sendBack 0x15 tag (le 1 (if r.st = 3 then 0 else 1))
  | none, _ => m.sendBack 0x15 tag (le 1 1)

section
variable {s : State} {gen tag reason : Nat}

theorem cancel_ignored (h : s.m.isWorker = false) : exec (.cancel gen tag reason) s = .next s := State.next_on (if_pos (by simp [h]))

theorem cancel_acts (hworker : s.m.isWorker = true) {x : Mach} (hx : s.m.cancelled gen tag reason = x) :
    exec (.cancel gen tag reason) s = .next (s.withM x) :=
  State.next_on ((if_neg (by simp [hworker])).trans hx)

variable {m : Mach}

theorem Mach.cancelled_unknown (h : m.recv? tag = none) : m.cancelled gen tag reason = m.sendBack 0x15 tag (le 1 1) := by
  simp only [Mach.cancelled, h]

section
variable {r : Recv} (hr : m.recv? tag = some r)
include hr

theorem Mach.cancelled_older (hgen : r.gen ≠ gen) : m.cancelled gen tag reason = m := by
  cases hc : m.cmd? tag
  all_goals
    simp only [Mach.cancelled, hr, hc]
    exact if_pos hgen

variable (hgen : r.gen = gen)
include hgen

theorem Mach.cancelled_ended (hc : m.cmd? tag = none) :
    m.cancelled gen tag reason = m.sendBack 0x15 tag (le 1 (if r.st = 3 then 0 else 1)) := by
  simp only [Mach.cancelled, hr, hc]
  exact if_neg (not_not.mpr hgen)

variable {c : Cmd} (hc : m.cmd? tag = some c)
include hc

theorem Mach.cancelled_caught
    (hcatch : r.st = 1 ∧ c.committed = false ∧ c.stage ≠ .done ∧ (reason ≠ 0 ∨ neverCaught c = false)) :
    m.cancelled gen tag reason = ((m.squash tag none).updRecv tag fun k => { k with st := 3 }).sendBack 0x15 tag (le 1 0) := by
  simp only [Mach.cancelled, hr, hc]
  exact (if_neg (not_not.mpr hgen)).trans (if_pos hcatch)

theorem Mach.cancelled_missed
    (hmiss : ¬(r.st = 1 ∧ c.committed = false ∧ c.stage ≠ .done ∧ (reason ≠ 0 ∨ neverCaught c = false))) :
    m.cancelled gen tag reason = m.sendBack 0x15 tag (le 1 1) := by
  simp only [Mach.cancelled, hr, hc]
  exact (if_neg (not_not.mpr hgen)).trans (if_neg hmiss)

end
end

/-! ## ACK, RESYNC and ORPHAN (10 R476, R481, R483) -/

section
variable {s : State} {tags : List Nat} {pairs : List (Nat × Nat)} {reason : Nat}

section
variable (h : s.m.isWorker = false)
include h

theorem ack_ignored : exec (.ack tags) s = .next s := State.next_on (if_neg (by simp [h]))
theorem resync_ignored : exec (.resync pairs) s = .next s := State.next_on (if_pos (by simp [h]))
theorem orphan_ignored : exec (.orphan reason) s = .next s := State.next_on (if_neg (by simp [h]))

end

section
variable (h : s.m.isWorker = true)
include h

theorem ack_drops : exec (.ack tags) s = .next (s.withM
    (s.m.onHitch fun h => { h with recv := h.recv.filter fun r => !(r.st == 2 && tags.contains r.tag) })) :=
  State.next_on (if_pos h)

theorem resync_answers : exec (.resync pairs) s = .next (s.withM
    (pairs.foldl (fun m t => m.resyncTag t.1 t.2) (s.m.sendBack 0x08 0 (pairs.flatMap fun t => s.m.resyncState t.1)))) :=
  State.next_on (if_neg (by simp [h]))

theorem orphan_acts : exec (.orphan reason) s = .next (s.withM s.m.orphaned) := State.next_on (if_pos h)

end
end

section
variable {m : Mach} {tag read : Nat}

theorem Mach.resyncTag_unknown (h : m.recv? tag = none) : m.resyncTag tag read = m := by simp only [Mach.resyncTag, h]

variable {r : Recv} (h : m.recv? tag = some r)
include h

theorem Mach.resyncTag_ended (hst : r.st = 2) :
    m.resyncTag tag read = (m.updRecv tag fun k => { k with rdFrom := read }).sendResult tag := by
  simp only [Mach.resyncTag, h, if_pos hst]

theorem Mach.resyncTag_cancelled (hst : r.st = 3) :
    m.resyncTag tag read = (m.updRecv tag fun k => { k with rdFrom := read }).sendBack 0x15 tag (le 1 0) := by
  simp only [Mach.resyncTag, h, if_neg (show r.st ≠ 2 by omega), if_pos hst]

theorem Mach.resyncTag_lacks (h2 : r.st ≠ 2) (h3 : r.st ≠ 3) {c : Cmd}
    (hc : (m.updRecv tag fun k => { k with rdFrom := read }).cmd? tag = some c) (hdata : c.stage = .data) (hhost : c.sqe.hostData = true) :
    m.resyncTag tag read =
      (m.updRecv tag fun k => { k with rdFrom := read }).sendBack 0x17 tag (le 4 r.wrBytes ++ le 4 (c.bytes - r.wrBytes)) := by
  simp only [Mach.resyncTag, h, if_neg h2, if_neg h3, hc]
  exact if_pos ⟨hdata, hhost⟩

end

/-! ## TIME (10 R471, R483) -/

section
variable {s : State} {gridNs pass latency at_ : Nat} {locked : Bool} {m : Mach} (hm : s.m.advance at_ = m)
include hm

theorem timeLossTimeout_orphans (hworker : m.isWorker = true) (hopen : m.hitch.orphaned = false)
    (hdue : m.hitch.lastTime + 10 * Config.edgesPerMs ≤ m.clk.now) : exec (.timeLossTimeout at_) s = .next (s.withM m.orphaned) := by
  subst hm
  refine State.next_on (if_neg ?_)
  simp only [hworker, hopen, hdue.not_gt]
  decide

theorem timeLossTimeout_ignored
    (h : m.isWorker = false ∨ m.hitch.orphaned = true ∨ m.clk.now < m.hitch.lastTime + 10 * Config.edgesPerMs) :
    exec (.timeLossTimeout at_) s = .next (s.withM m) := by
  subst hm
  exact State.next_on (if_pos (by simpa only [Bool.or_eq_true, Bool.not_eq_true', decide_eq_true_eq, or_assoc] using h))

theorem time_ignored (h : m.isWorker = false) : exec (.time gridNs pass latency locked at_) s = .next (s.withM m) := by
  subst hm
  exact State.next_on (if_pos (by rw [h]; decide))

theorem time_adopts (h : m.isWorker = true) : exec (.time gridNs pass latency locked at_) s = .next (s.withM
    ((m.onHitch fun h => { h with lastTime := m.clk.now, mgrLocked := locked, orphaned := false }).dialogueOk
      ((gridNs : Int) + latency - m.gridNs) ((gridNs : Int) + latency))) := by
  subst hm
  exact State.next_on (if_neg (by rw [h]; decide))

end

/-! ## Images (10 R487, R489; 13 R585, R586) -/

section
variable {s : State} {port : Nat} {bytes : List Byte}

section
variable {named : Bool} (h : s.m.ownPort port = false ∨ s.m.hitch.role ≠ 2)
include h

theorem imgHdr_ignored : exec (.imgHdr port named bytes) s = .next s := State.next_on (if_pos (by simpa using h))
theorem imgBlk_ignored : exec (.imgBlk port named bytes) s = .next s := State.next_on (if_pos (by simpa using h))

end

section
variable (hown : s.m.ownPort port = true) (hrole : s.m.hitch.role = 2)
include hown hrole

theorem img_takes : ¬(!s.m.ownPort port || s.m.hitch.role != 2) = true := by simp [hown, hrole]

theorem imgHdr_relays : exec (.imgHdr port false bytes) s = .next (s.withM (s.m.sendBody 0x20 0 (1 - port) 0 bytes)) :=
  State.next_on ((if_neg (img_takes hown hrole)).trans (if_pos rfl))

theorem imgBlk_relays : exec (.imgBlk port false bytes) s = .next (s.withM (s.m.sendBody 0x21 0 (1 - port) 0 bytes)) :=
  State.next_on ((if_neg (img_takes hown hrole)).trans (if_pos rfl))

theorem imgHdr_busy (hbusy : s.m.stagingBusy 2 = true) : exec (.imgHdr port true bytes) s = .next (s.withM (s.m.imgStatus 3)) :=
  State.next_on ((if_neg (img_takes hown hrole)).trans ((if_neg (by decide)).trans (if_pos hbusy)))

section
variable (hfree : s.m.stagingBusy 2 = false)
include hfree

theorem imgHdr_refuses (hk : s.m.headerCheck s.m.floorNow (ImageHdr.ofBytes bytes) ≠ 0) :
    exec (.imgHdr port true bytes) s = .next (s.withM
      ((s.m.refuseImage (s.m.headerCheck s.m.floorNow (ImageHdr.ofBytes bytes))).imgStatus 1)) :=
  State.next_on ((if_neg (img_takes hown hrole)).trans ((if_neg (by decide)).trans
    ((if_neg (Bool.eq_false_iff.mp hfree)).trans (if_pos hk))))

theorem imgHdr_stages (hk : s.m.headerCheck s.m.floorNow (ImageHdr.ofBytes bytes) = 0) :
    exec (.imgHdr port true bytes) s = .next (s.withM
      (((s.m.onImg Img.emptied).stageHeader 2 bytes).sendBody 0x20 0 (1 - port) 0 bytes)) :=
  State.next_on ((if_neg (img_takes hown hrole)).trans ((if_neg (by decide)).trans
    ((if_neg (Bool.eq_false_iff.mp hfree)).trans (if_neg (not_not.mpr hk)))))

end

theorem imgBlk_stray (h : s.m.img.route ≠ 2 ∨ s.m.img.stage ≠ 1) : exec (.imgBlk port true bytes) s = .next s :=
  State.next_on ((if_neg (img_takes hown hrole)).trans ((if_neg (by decide)).trans (if_pos h)))

theorem imgBlk_stores (hroute : s.m.img.route = 2) (hstage : s.m.img.stage = 1) :
    let r := s.m.stageBody bytes
    let n := r.2.sendBody 0x21 0 (1 - port) 0 bytes
    exec (.imgBlk port true bytes) s =
      .next (s.withM (if r.1 = false then n.imgStatus 2 else if n.img.stage = 2 then n.imgStatus 0 else n)) := by
  refine State.next_on ((if_neg (img_takes hown hrole)).trans ((if_neg (by decide)).trans ((if_neg (by simp [hroute, hstage])).trans ?_)))
  simp only [Bool.not_eq_true']

end
end

/-- The version of the image that is staged. -/
def Mach.stagedVersion (m : Mach) : Nat := match m.img.hdr with | some h => h.version | none => 0

/-- What IMG_COMMIT does on a worker that runs, by its action. -/
def Mach.commitStaged (action : Nat) (m : Mach) : Mach :=
  let k := 1 - m.img.running
  if action = 2 then
    match m.useStatus k with
    | none => (m.onImg fun i => { i with nextSlot := some k }).commitEnds 0 1
    | some _ => m.commitEnds 0 2
  else if m.img.stage ≠ 2 ∨ 3 < action then (m.commitEnds 0 2).reportVersion
  else if action = 1 ∧ m.notBelow k m.stagedVersion = false then m.commitEnds 0 2
  else m.startSlotWrite k 0 action

section
variable {m : Mach} {action : Nat} (hact : action = 2)
include hact

theorem Mach.commitStaged_uses (h : m.useStatus (1 - m.img.running) = none) :
    m.commitStaged action = (m.onImg fun i => { i with nextSlot := some (1 - m.img.running) }).commitEnds 0 1 := by
  simp only [Mach.commitStaged, if_pos hact, h]

theorem Mach.commitStaged_unusable (h : m.useStatus (1 - m.img.running) ≠ none) : m.commitStaged action = m.commitEnds 0 2 := by
  obtain ⟨st, hst⟩ := Option.ne_none_iff_exists'.mp h
  simp only [Mach.commitStaged, if_pos hact, hst]

end

/-- A worker takes an IMG_COMMIT: it is awake, and no other commit runs. -/
def Mach.takesCommit (m : Mach) : Prop := m.hitch.role = 2 ∧ m.awake = true ∧ m.committing = false

theorem Mach.commitTest_iff {m : Mach} : (m.hitch.role ≠ 2 ∨ m.awake = false ∨ m.committing = true) ↔ ¬m.takesCommit := by
  rw [Mach.takesCommit, not_and_or, not_and_or, Bool.not_eq_true, Bool.not_eq_false]

section
variable {s : State} {action : Nat}

theorem imgCommit_ignored (h : ¬s.m.takesCommit) : exec (.imgCommit action) s = .next s :=
  State.next_on (if_pos (Mach.commitTest_iff.mpr h))

variable (h : s.m.takesCommit)
include h

theorem imgCommit_recovers (hrec : s.m.boot.recovery = true) : exec (.imgCommit action) s = .next (s.withM
    (if s.m.img.stage = 2 ∧ action ≠ 2 then s.m.startSlotWrite 0 0 2 else s.m)) :=
  State.next_on ((if_neg (mt Mach.commitTest_iff.mp (not_not.mpr h))).trans (if_pos hrec))

theorem imgCommit_runs (hrec : s.m.boot.recovery = false) {x : Mach} (hx : s.m.commitStaged action = x) :
    exec (.imgCommit action) s = .next (s.withM x) :=
  State.next_on ((if_neg (mt Mach.commitTest_iff.mp (not_not.mpr h))).trans ((if_neg (Bool.eq_false_iff.mp hrec)).trans hx))

end

/-! ## REG_RD and REG_WR (10 R470; 15 R626) -/

section
variable {s : State} {offset : Nat} {v : Word}

section
variable (h : s.m.isWorker = false)
include h

theorem regRd_ignored : exec (.regRd offset) s = .next s := State.next_on (if_pos (by simp [h]))
theorem regWr_ignored : exec (.regWr offset v) s = .next s := if_neg (by simp [h])

end

section
variable (h : s.m.isWorker = true)
include h

theorem regRd_reads (hlt : offset / 4 * 4 < 0x00400000) :
    let r := s.m.regRead s.cfg (placeOf (0x08000000 + offset / 4 * 4))
    exec (.regRd offset) s = .next (s.withM (r.2.sendBack 0x32 0 (le 4 (offset / 4 * 4) ++ le 4 r.1.toNat))) := by
  refine State.next_on ((if_neg (by simp [h])).trans ?_)
  simp only [if_pos hlt]

theorem regRd_beyond (hge : 0x00400000 ≤ offset / 4 * 4) :
    exec (.regRd offset) s = .next (s.withM (s.m.sendBack 0x32 0 (le 4 (offset / 4 * 4) ++ le 4 0))) := by
  refine State.next_on ((if_neg (by simp [h])).trans ?_)
  simp only [if_neg hge.not_gt]
  rfl

theorem regWr_writes (hlt : offset < 0x00400000) :
    exec (.regWr offset v) s = .next (s.bar2Write (0x08000000 + offset / 4 * 4) v 15) := if_pos (by simp [h, hlt])

theorem regWr_beyond (hge : 0x00400000 ≤ offset) : exec (.regWr offset v) s = .next s := if_neg (by simp [h, hge])

end
end

/-- Settles O36: each frame has its effect on an admitted worker; the branches of CMD, CANCEL, RESYNC and IMG_COMMIT are cases of `Mach.runCmd`,
`Mach.cancelled`, `Mach.resyncTag` and `Mach.commitStaged`. -/
theorem hitchWorkerFramesComplete : Obligations.HitchWorkerFramesComplete := by
  refine ⟨?cmd, ?dataW, ?cancel, ?acks, ?resyncTag, ?time, ?images, ?commit, ?regs⟩
  case cmd =>
    intro s gen tag plot at_ admin resense e m c r
    refine ⟨cmd_ignored rfl, cmd_copies rfl, fun hworker hserves htag => ?_⟩
    have runs {x : Mach} (hx : m.runCmd gen tag plot admin resense e = x) :
        exec (.cmd gen tag plot admin resense e at_) s = .next (s.withM x) := cmd_runs rfl hworker hserves htag hx
    exact ⟨fun h => runs (Mach.runCmd_new h), fun k h hre hst => runs (Mach.runCmd_again h ⟨hre, hst⟩),
      fun k h hno => runs (Mach.runCmd_known h fun ⟨hre, hst⟩ => hno.elim (fun hf => Bool.eq_false_iff.mp hf hre) hst)⟩
  case dataW => exact fun s gen tag off blocks crcs => ⟨dataW_unknown, fun r h => ⟨dataW_adds h, dataW_ignored h⟩⟩
  case cancel =>
    intro s gen tag reason answer
    refine ⟨cancel_ignored, fun hworker => ?_⟩
    have acts {x : Mach} (hx : s.m.cancelled gen tag reason = x) : exec (.cancel gen tag reason) s = .next (s.withM x) :=
      cancel_acts hworker hx
    exact ⟨fun h => acts (Mach.cancelled_unknown h), fun r h => ⟨fun hgen => acts (Mach.cancelled_older h hgen),
      fun hgen hc => acts (Mach.cancelled_ended h hgen hc),
      fun c hgen hc => ⟨fun hcatch => acts (Mach.cancelled_caught h hgen hc hcatch),
        fun hmiss => acts (Mach.cancelled_missed h hgen hc hmiss)⟩⟩⟩
  case acks =>
    exact fun s tags pairs reason => ⟨fun h => ⟨ack_ignored h, resync_ignored h, orphan_ignored h⟩,
      fun h => ⟨ack_drops h, resync_answers h, orphan_acts h⟩⟩
  case resyncTag =>
    exact fun m tag read => ⟨Mach.resyncTag_unknown, fun r h => ⟨Mach.resyncTag_ended h, Mach.resyncTag_cancelled h,
      fun c h2 h3 => Mach.resyncTag_lacks h h2 h3⟩⟩
  case time =>
    exact fun s at_ => ⟨timeLossTimeout_orphans rfl, timeLossTimeout_ignored rfl,
      fun gridNs pass latency locked => ⟨time_ignored rfl, time_adopts rfl⟩⟩
  case images =>
    exact fun s port named bytes => ⟨fun h => ⟨imgHdr_ignored h, imgBlk_ignored h⟩, fun hown hrole =>
      ⟨imgHdr_relays hown hrole, imgHdr_busy hown hrole, imgHdr_refuses hown hrole, imgHdr_stages hown hrole,
        imgBlk_relays hown hrole, imgBlk_stray hown hrole, imgBlk_stores hown hrole⟩⟩
  case commit =>
    intro s action k mine
    refine ⟨imgCommit_ignored, imgCommit_recovers, fun h hrec => ?_⟩
    have runs {x : Mach} := imgCommit_runs (x := x) (action := action) h hrec
    exact ⟨fun h2 huse => runs (Mach.commitStaged_uses h2 huse), fun h2 huse => runs (Mach.commitStaged_unusable h2 huse),
      fun h2 hbad => runs ((if_neg h2).trans (if_pos hbad)),
      fun h2 hstage h3 =>
        have hgood : ¬(s.m.img.stage ≠ 2 ∨ 3 < action) := by omega
        ⟨fun holder => runs ((if_neg h2).trans ((if_neg hgood).trans (if_pos holder))),
          fun hnewer => runs ((if_neg h2).trans ((if_neg hgood).trans (if_neg hnewer)))⟩⟩
  case regs =>
    exact fun s offset v => ⟨fun h => ⟨regRd_ignored h, regWr_ignored h⟩,
      fun h => ⟨regRd_reads h, regRd_beyond h, regWr_writes h, regWr_beyond h⟩⟩

end Sys2Proof.Machine

/-! # A standalone controller on a hitch port (10 R452, R453) -/

namespace Sys2Proof.Machine

section
variable {m : Mach} (h : m.hitch.role = 0)
include h

theorem Mach.ownPort_standalone (port : Nat) : m.ownPort port = false := by simp [Mach.ownPort, h]

theorem Mach.isWorker_standalone : m.isWorker = false := by simp [Mach.isWorker, h]

theorem Mach.noManager_standalone : m.hitch.role ≠ 1 := by rw [h]; decide

/-- Nothing that a standalone controller has is outstanding at a member. -/
theorem Mach.fwdOf_standalone (source gen tag : Nat) : m.fwdOf source gen tag = none := by
  unfold Mach.fwdOf
  split
  · exact if_neg fun hf => m.noManager_standalone h hf.1
  · rfl

end

/-- Settles O53: no port is its own, it is no worker and no manager, and nothing is forwarded, so that every row finds its test failed. -/
theorem hitchRowsIdleOnStandalone : Obligations.HitchRowsIdleOnStandalone := by
  intro s hrole
  have hport := Mach.ownPort_standalone hrole
  have hworker := Mach.isWorker_standalone hrole
  have hmanager := Mach.noManager_standalone hrole
  have hworks : s.m.hitch.role ≠ 2 := by rw [hrole]; decide
  refine ⟨fun port => ?ports, fun src gen tag => ?frames, fun _ => ack_ignored hworker, fun _ => resync_ignored hworker,
    fun _ => orphan_ignored hworker, fun _ => imgCommit_ignored fun h => hworks h.1, fun _ => regRd_ignored hworker,
    fun _ _ => regWr_ignored hworker, fun at_ => ?clocks⟩
  case ports =>
    have hoff := hport port
    exact ⟨fun _ => hitchTrainingDone_ignored (.inl hoff), fun _ => sidebandChange_ignored (.inl hoff),
      fun _ => hitchFrameCrcError_ignored (.inl hoff), fun _ => hitchFrameRelay_ignored (.inl hoff),
      fun _ => unknownFrameType_ignored (.inl hoff), fun _ _ => discover_ignored (.inl hoff), fun _ _ => announce_ignored (.inl hoff),
      fun _ _ => imgHdr_ignored (.inl hoff), fun _ _ => imgBlk_ignored (.inl hoff)⟩
  case frames =>
    have hfwd := Mach.fwdOf_standalone hrole src gen tag
    exact ⟨dataReq_unknown hfwd, dataR_unknown hfwd, cpl_unknown hfwd, cancelReply_unknown hfwd,
      fun _ => resyncReply_ignored fun h => hmanager h.1, fun _ _ _ => dataW_idle hworker, fun _ => cancel_ignored hworker,
      fun _ => imgSts_ignored (.inl hmanager), fun _ _ => regData_ignored fun h => hmanager h.1,
      fun _ _ => tally_ignored fun h => hmanager h.1⟩
  case clocks =>
    intro t
    have hrole' : (s.m.advance at_).hitch.role = 0 := hrole
    have hworker' := Mach.isWorker_standalone hrole'
    have hmanager' := Mach.noManager_standalone hrole'
    refine ⟨fun p => ?port, fun a p k => ?links, timeLossTimeout_ignored rfl (.inl hworker'), fun _ _ _ _ => time_ignored rfl hworker',
      fun _ _ _ _ _ _ => cmd_ignored rfl (.inl hworker')⟩
    case port =>
      have hoff := Mach.ownPort_standalone hrole' p
      exact ⟨hitchTrainingRetry_ignored rfl (.inl hoff), keepaliveSend_ignored rfl (.inl hoff), keepalive_ignored rfl (.inl hoff),
        keepaliveMiss_ignored rfl (.inl hoff), readmitTimer_ignored rfl fun h => hmanager' h.1⟩
    case links =>
      have hdeaf : ¬(s.m.advance at_).hearsLink a p := fun h => hmanager' h.2.1
      exact ⟨linkDown_ignored rfl hdeaf, linkUp_ignored rfl hdeaf⟩

end Sys2Proof.Machine

/-! # Non-operational power states: idle time, entry, drain and exit (11 R499 to R504) -/

namespace Sys2Proof.Machine

section
variable {s : State} {at_ : Nat} {m : Mach} (hm : s.m.advance at_ = m)

/-! ## APST_IDLE_TIMEOUT (11 R504) -/

/-- The transition of the present power state: the state it enters, and its idle time in ms (11 R504). -/
def Mach.apstNext (m : Mach) : Nat × Nat := m.power.apstIdle.getD m.power.ps (0, 0)

/-- The idle time of the transition has run in service, with nothing in flight and nothing to fetch. -/
def Mach.apstDue (m : Mach) : Prop :=
  m.inService = true ∧ m.power.apst = true ∧ m.mayIdle = true ∧ m.power.entering = none ∧ m.quiet = true ∧ m.anyFetchable = false ∧
    m.apstNext.2 ≠ 0 ∧ m.power.ps < m.apstNext.1 ∧ m.power.idleAt + m.apstNext.2 * Config.edgesPerMs ≤ m.clk.now

theorem Mach.apstDue_iff (m : Mach) :
    (m.inService && m.power.apst && m.mayIdle && m.power.entering.isNone && m.quiet && !m.anyFetchable && decide (m.apstNext.2 ≠ 0) &&
      decide (m.power.ps < m.apstNext.1) && decide (m.power.idleAt + m.apstNext.2 * Config.edgesPerMs ≤ m.clk.now)) = true ↔
      m.apstDue := by
  simp [Mach.apstDue, and_assoc]

section
include hm

theorem apstIdleTimeout_enters (h : m.apstDue) : exec (.apstIdleTimeout at_) s = .next (s.withM
    (m.onPower fun p => { p with entering := some m.apstNext.1, entryCmd := 0, closing := false })) := by
  subst hm
  exact State.next_on (if_pos ((Mach.apstDue_iff _).mpr h))

theorem apstIdleTimeout_waits (h : ¬m.apstDue) : exec (.apstIdleTimeout at_) s = .next (s.withM m) := by
  subst hm
  exact State.next_on (if_neg (mt (Mach.apstDue_iff _).mp h))

end

/-! ## NONOP_ENTRY (11 R499) -/

/-- An entry with nothing in flight, and no power failure or trip, whose acres have not begun to close. -/
def Mach.entryStarts (m : Mach) : Prop :=
  m.power.entering ≠ none ∧ m.power.closing = false ∧ m.quiet = true ∧ m.power.pfail = false ∧ m.heat.active = false

theorem Mach.entryHeld_iff {m : Mach} (he : m.power.entering ≠ none) :
    (m.power.closing || !m.quiet || m.power.pfail || m.heat.active) = true ↔ ¬m.entryStarts := by
  simp only [Mach.entryStarts, he, ne_eq, not_false_eq_true, true_and, not_and_or, Bool.or_eq_true, Bool.not_eq_true', Bool.not_eq_false,
    Bool.not_eq_true, or_assoc]

/-- Grants stop for the entry. -/
def Mach.closeAcres (m : Mach) : Mach := m.onPower fun p => { p with closing := true, closeAt := none }

/-- Every running erase that may be suspended is. -/
def Mach.suspendErases (m : Mach) : Mach :=
  (m.erasing.filter (fun d => decide ((m.die d).suspends < 64))).foldl (fun m d => m.suspendDie d m.clk.now) m

section
include hm

theorem exec_nonopEntry_eq : exec (.nonopEntry at_) s = .next (s.withM
    (match m.power.entering with
    | none => m
    | some _ =>
      if m.power.closing || !m.quiet || m.power.pfail || m.heat.active then m
      else if 3 ≤ m.power.ps then m.closeAcres.trySleep s.cfg
      else m.closeAcres.suspendErases.beginClosing)) := by
  subst hm
  rfl

theorem nonopEntry_starts (h : m.entryStarts) : exec (.nonopEntry at_) s = .next (s.withM
    (if 3 ≤ m.power.ps then m.closeAcres.trySleep s.cfg else m.closeAcres.suspendErases.beginClosing)) := by
  obtain ⟨ps, he⟩ := Option.ne_none_iff_exists'.mp h.1
  rw [exec_nonopEntry_eq hm, he]
  exact congrArg (Host.Outcome.next <| s.withM ·) (if_neg (mt (Mach.entryHeld_iff h.1).mp (not_not.mpr h)))

theorem nonopEntry_waits (h : ¬m.entryStarts) : exec (.nonopEntry at_) s = .next (s.withM m) := by
  rw [exec_nonopEntry_eq hm]
  split
  next => rfl
  next ps he => rw [if_pos ((Mach.entryHeld_iff (he ▸ Option.some_ne_none ps)).mpr h)]

theorem nonopEntry_closes (h : m.entryStarts) (hps : m.power.ps < 3) :
    exec (.nonopEntry at_) s = .next (s.withM m.closeAcres.suspendErases.beginClosing) := by
  rw [nonopEntry_starts hm h, if_neg hps.not_ge]

theorem nonopEntry_sleeps (h : m.entryStarts) (hps : 3 ≤ m.power.ps) :
    exec (.nonopEntry at_) s = .next (s.withM (m.closeAcres.trySleep s.cfg)) := by
  rw [nonopEntry_starts hm h, if_pos hps]

end

/-! ## DOMAIN_DRAIN_DONE and DRAIN_BOUND_EXPIRY (11 R499, R500) -/

/-- The ports in service that no entry to self-refresh waits at. -/
def Mach.portsToSleep (m : Mach) : List Nat :=
  (List.range m.nAcres).filter fun a => m.acreUp a && (m.port a).st == 2 && !(m.port a).srWanted

/-- The acres of `ports` but acre 0 save their SRAM for PS4. -/
def Mach.saveFor (ps : Nat) (ports : List Nat) (m : Mach) : Mach :=
  if ps = 4 then (ports.filter (fun a => decide (a ≠ 0))).foldl (fun m a => m.saveSram a) m else m

/-- The ports are asked to enter self-refresh. -/
def Mach.askSleep (ports : List Nat) (m : Mach) : Mach :=
  ports.foldl (fun m a => m.updPort a fun p => { p with srWanted := true, srForRate := false, srReq := m.clk.now }) m

/-- What the drain of an entry waits for: its acres are closed, and no chunk and no operation of a die runs. -/
theorem Mach.drainWaits_iff (m : Mach) :
    (!m.power.closing || m.power.closeAt.isNone || m.chunksRun || m.diesRun) = true ↔
      m.power.closing = false ∨ m.power.closeAt = none ∨ m.chunksRun = true ∨ m.diesRun = true := by
  simp [or_assoc]

include hm

theorem exec_domainDrainDone_eq : exec (.domainDrainDone at_) s = .next (s.withM
    (match m.power.entering with
    | none => m
    | some ps =>
      if !m.power.closing || m.power.closeAt.isNone || m.chunksRun || m.diesRun then m
      else ((m.saveFor ps m.portsToSleep).askSleep m.portsToSleep).trySleep s.cfg)) := by
  subst hm
  rfl

theorem domainDrainDone_waits
    (h : m.power.entering = none ∨ m.power.closing = false ∨ m.power.closeAt = none ∨ m.chunksRun = true ∨ m.diesRun = true) :
    exec (.domainDrainDone at_) s = .next (s.withM m) := by
  rw [exec_domainDrainDone_eq hm]
  split
  next => rfl
  next ps he => rw [if_pos (m.drainWaits_iff.mpr (h.resolve_left (he ▸ Option.some_ne_none ps)))]

theorem domainDrainDone_drains {ps t : Nat} (he : m.power.entering = some ps) (hclosing : m.power.closing = true)
    (hclosed : m.power.closeAt = some t) (hchunks : m.chunksRun = false) (hdies : m.diesRun = false) :
    exec (.domainDrainDone at_) s = .next (s.withM
      (((m.saveFor ps m.portsToSleep).askSleep m.portsToSleep).trySleep s.cfg)) := by
  have hdrained := mt m.drainWaits_iff.mp (by simp [hclosing, hclosed, hchunks, hdies])
  rw [exec_domainDrainDone_eq hm, he]
  exact congrArg (Host.Outcome.next <| s.withM ·) (if_neg hdrained)

theorem exec_drainBoundExpiry_eq : exec (.drainBoundExpiry at_) s = .next (s.withM
    (match m.power.closeAt with
    | some t => if m.power.closing && m.chunksRun && decide (t + 200 * Config.edgesPerUs ≤ m.clk.now) then m.refuseEntry 1 else m
    | none => m)) := by
  subst hm
  rfl

theorem drainBoundExpiry_refuses {t : Nat} (hclosed : m.power.closeAt = some t) (hclosing : m.power.closing = true)
    (hchunks : m.chunksRun = true) (hdue : t + 200 * Config.edgesPerUs ≤ m.clk.now) :
    exec (.drainBoundExpiry at_) s = .next (s.withM (m.refuseEntry 1)) := by
  rw [exec_drainBoundExpiry_eq hm, hclosed]
  exact congrArg (Host.Outcome.next <| s.withM ·) (if_pos (by simp [hclosing, hchunks, hdue]))

/-- No refusal unless the acres are closed, a chunk still runs, and 200 µs have passed. -/
theorem drainBoundExpiry_waits (h : m.power.closing = false ∨ m.chunksRun = false ∨
      ∀ t, m.power.closeAt = some t → m.clk.now < t + 200 * Config.edgesPerUs) :
    exec (.drainBoundExpiry at_) s = .next (s.withM m) := by
  rw [exec_drainBoundExpiry_eq hm]
  split
  next t hclosed =>
    have hno : ¬(m.power.closing && m.chunksRun && decide (t + 200 * Config.edgesPerUs ≤ m.clk.now)) = true := by
      obtain hopen | hnone | hearly := h
      · simp [hopen]
      · simp [hnone]
      · simp [hearly t hclosed]
    rw [if_neg hno]
  next => rfl

/-! ## NONOP_EXIT (11 R503) -/

theorem exec_nonopExit_eq : exec (.nonopExit at_) s = .next (s.withM
    (match m.power.want with
    | some ps => m.wake s.cfg ps
    | none => m)) := by
  subst hm
  rfl

theorem nonopExit_idle (hw : m.power.want = none) : exec (.nonopExit at_) s = .next (s.withM m) := by
  rw [exec_nonopExit_eq hm, hw]

theorem nonopExit_wakes {ps : Nat} (hw : m.power.want = some ps) : exec (.nonopExit at_) s = .next (s.withM (m.wake s.cfg ps)) := by
  rw [exec_nonopExit_eq hm, hw]

end

/-- Settles O39: one lemma for each way in which these rows act or wait. -/
theorem powerStateCommandsComplete : Obligations.PowerStateCommandsComplete := by
  refine ⟨?apst, ?entry, ?drain, ?exit⟩
  case apst => exact fun _ _ => ⟨apstIdleTimeout_enters rfl, apstIdleTimeout_waits rfl⟩
  case entry => exact fun _ _ => ⟨nonopEntry_waits rfl, nonopEntry_closes rfl, nonopEntry_sleeps rfl⟩
  case drain =>
    intro s at_ m
    refine ⟨domainDrainDone_waits rfl, fun _ _ => domainDrainDone_drains rfl, fun _ => drainBoundExpiry_refuses rfl, fun h => ?off,
      fun t hclosed hearly => ?early⟩
    case off =>
      obtain hnone | hopen | hidle := h
      · exact drainBoundExpiry_waits rfl (.inr (.inr fun _ hclosed => nomatch hnone.symm.trans hclosed))
      · exact drainBoundExpiry_waits rfl (.inl hopen)
      · exact drainBoundExpiry_waits rfl (.inr (.inl hidle))
    case early => exact drainBoundExpiry_waits rfl (.inr (.inr fun u hu => Option.some.inj (hclosed.symm.trans hu) ▸ hearly))
  case exit => exact fun _ _ => ⟨nonopExit_idle rfl, fun _ => nonopExit_wakes rfl⟩

end Sys2Proof.Machine

/-! # The throttle, the current-sense inputs and the self-checks of the diodes (11 R508 to R516) -/

namespace Sys2Proof.Machine

section
variable {s : State}

/-! ## THROTTLE_EVAL and ISNS_SAMPLE (11 R508, R509) -/

theorem throttleEval_evaluates (hawake : s.m.awake = true) (hdue : s.m.heat.evalAt + 100 ≤ s.m.grid.passes) :
    exec .throttleEval s = .next (s.withM (s.m.onHeat fun h => { h with evalAt := s.m.grid.passes }).evalStep) :=
  State.next_on (if_neg (by simp [hawake, hdue]))

theorem throttleEval_waits (h : s.m.awake = false ∨ s.m.grid.passes < s.m.heat.evalAt + 100) : exec .throttleEval s = .next s :=
  State.next_on (if_pos (by simpa using h))

theorem isnsSample_samples {v : List Nat} (hawake : s.m.awake = true) : exec (.isnsSample v) s = .next (s.withM
    ((List.range s.m.nGroups).foldl (fun m g => m.sample g (v.getD g 0)) s.m)) :=
  State.next_on (if_neg (by simp [hawake]))

theorem isnsSample_asleep {v : List Nat} (hasleep : s.m.awake = false) : exec (.isnsSample v) s = .next s :=
  State.next_on (if_pos (by simp [hasleep]))

/-! ## What a self-check finds (11 R513) -/

section
variable {a b : Nat} {r : Int}

theorem selfCheck_open (hopen : 1000 < b) : selfCheck a b r = 1 := if_pos hopen

variable (hb : b ≤ 1000)
include hb

theorem selfCheck_shorted (hshort : a < 200 ∨ ((b : Int) - a).natAbs < 20) : selfCheck a b r = 2 := by
  rw [selfCheck, if_neg hb.not_gt, if_pos hshort]

variable (ha : 200 ≤ a) (hd : 20 ≤ ((b : Int) - a).natAbs)
include ha hd

theorem selfCheck_outOfRange (hr : r < -960 ∨ 2560 < r) : selfCheck a b r = 3 := by
  rw [selfCheck, if_neg hb.not_gt, if_neg (not_or.mpr ⟨ha.not_gt, hd.not_gt⟩), if_pos hr]

theorem selfCheck_working (hlow : -960 ≤ r) (hhigh : r ≤ 2560) : selfCheck a b r = 0 := by
  rw [selfCheck, if_neg hb.not_gt, if_neg (not_or.mpr ⟨ha.not_gt, hd.not_gt⟩), if_neg (not_or.mpr ⟨hlow.not_gt, hhigh.not_gt⟩)]

end

/-! ## DIODE_SELF_CHECK (11 R513, R516) -/

section
variable {d a b : Nat} {r : Int}

theorem diodeSelfCheck_ignored (h : s.m.awake = false ∨ s.m.nDiodes ≤ d) : exec (.diodeSelfCheck d a b r) s = .next s :=
  State.next_on (if_pos (by simpa using h))

/-- What a self-check that finds `k` does to a diode that is there. -/
def Mach.checked (d k : Nat) (r : Int) (m : Mach) : Mach :=
  if (m.diode d).fail = 0 then (if k = 0 then m else m.diodeFails d k)
  else if k ≠ 0 then m.updDiode d fun y => { y with fail := k, good := 0 }
  else if (m.diode d).good + 1 < 10 then m.updDiode d fun y => { y with good := y.good + 1 }
  else ((m.updDiode d fun y => { y with fail := 0, est := false, good := 0, temp := r }).noteFailed).record 0x0B04 d 0

variable (hawake : s.m.awake = true) (hd : d < s.m.nDiodes)
include hawake hd

theorem exec_diodeSelfCheck_eq : exec (.diodeSelfCheck d a b r) s = .next (s.withM (s.m.checked d (selfCheck a b r) r)) :=
  State.next_on (if_neg (by simp [hawake, hd]))

section
variable {k : Nat} (hcheck : selfCheck a b r = k) (hk : k ≠ 0)
include hcheck hk

theorem diodeSelfCheck_fails (hworks : (s.m.diode d).fail = 0) :
    exec (.diodeSelfCheck d a b r) s = .next (s.withM (s.m.diodeFails d k)) := by
  rw [exec_diodeSelfCheck_eq hawake hd, hcheck, Mach.checked, if_pos hworks, if_neg hk]

theorem diodeSelfCheck_failsAgain (hfailed : (s.m.diode d).fail ≠ 0) : exec (.diodeSelfCheck d a b r) s = .next (s.withM
    (s.m.updDiode d fun y => { y with fail := k, good := 0 })) := by
  rw [exec_diodeSelfCheck_eq hawake hd, hcheck, Mach.checked, if_neg hfailed, if_pos hk]

end

variable (hcheck : selfCheck a b r = 0)
include hcheck

theorem diodeSelfCheck_passes (hworks : (s.m.diode d).fail = 0) : exec (.diodeSelfCheck d a b r) s = .next s := by
  rw [exec_diodeSelfCheck_eq hawake hd, hcheck, Mach.checked, if_pos hworks, if_pos rfl]
  rfl

variable (hfailed : (s.m.diode d).fail ≠ 0)
include hfailed

theorem diodeSelfCheck_counts (hfew : (s.m.diode d).good + 1 < 10) : exec (.diodeSelfCheck d a b r) s = .next (s.withM
    (s.m.updDiode d fun y => { y with good := y.good + 1 })) := by
  rw [exec_diodeSelfCheck_eq hawake hd, hcheck, Mach.checked, if_neg hfailed, if_neg (not_not.mpr rfl), if_pos hfew]

theorem diodeSelfCheck_returns (hten : 10 ≤ (s.m.diode d).good + 1) : exec (.diodeSelfCheck d a b r) s = .next (s.withM
    (((s.m.updDiode d fun y => { y with fail := 0, est := false, good := 0, temp := r }).noteFailed).record 0x0B04 d 0)) := by
  rw [exec_diodeSelfCheck_eq hawake hd, hcheck, Mach.checked, if_neg hfailed, if_neg (not_not.mpr rfl), if_neg hten.not_gt]

end

end

/-- Settles O40: the rows act as their lemmas say; a self-check acts by the kind that it finds, and by whether the diode works. -/
theorem heatCommandsComplete : Obligations.HeatCommandsComplete := by
  refine ⟨fun _ => ⟨throttleEval_evaluates, throttleEval_waits⟩, fun _ _ => ⟨isnsSample_samples, isnsSample_asleep⟩, ?check⟩
  intro s d a b r good fails
  refine ⟨diodeSelfCheck_ignored, fun hawake hd => ?_⟩
  have hfails {k : Nat} (hk : k ≠ 0) (hcheck : selfCheck a b r = k) : fails k :=
    ⟨diodeSelfCheck_fails hawake hd hcheck hk, diodeSelfCheck_failsAgain hawake hd hcheck hk⟩
  have hgood : good → selfCheck a b r = 0 := fun ⟨ha, hdiff, hb, hlow, hhigh⟩ => selfCheck_working hb ha hdiff hlow hhigh
  exact ⟨fun hopen => hfails (by decide) (selfCheck_open hopen), fun hb hshort => hfails (by decide) (selfCheck_shorted hb hshort),
    fun hb ha hdiff hr => hfails (by decide) (selfCheck_outOfRange hb ha hdiff hr),
    fun h => diodeSelfCheck_passes hawake hd (hgood h), fun h => diodeSelfCheck_counts hawake hd (hgood h),
    fun h => diodeSelfCheck_returns hawake hd (hgood h)⟩

end Sys2Proof.Machine

/-! # The thermal trip and the power-fail dump (11 R519 to R528; 12 R535, R536; 16 R655) -/

namespace Sys2Proof.Machine

section
variable {s : State} {at_ : Nat} {m : Mach} (hm : s.m.advance at_ = m)

/-! ## TRIP_SAMPLE (11 R519, R520, R522) -/

/-- The readings that the always-on domain compares, by diode. -/
def Mach.tripReadings (v : List Int) (m : Mach) : List (Nat × Int) := (List.range m.nDiodes).map fun d => (d, m.tripReading v d)

/-- Each diode counts its samples in a row at or above 130 °C. -/
def Mach.noteHot (ts : List (Nat × Int)) (m : Mach) : Mach :=
  ts.foldl (fun m t => m.updDiode t.1 fun x => { x with hot := if tripLimit ≤ t.2 then Nat.min 2 (x.hot + 1) else 0 }) m

/-- Since when every diode has been below 100 °C during a trip. -/
def Mach.noteCool (ts : List (Nat × Int)) (m : Mach) : Mach :=
  m.onHeat fun h => { h with coolAt := if h.active && ts.all (fun t => decide (t.2 < coolLimit)) then (match h.coolAt with
    | some t => some t
    | none => some m.clk.now) else none }

/-- The machine once a sample has been compared. -/
def Mach.tripCompared (v : List Int) (m : Mach) : Mach := (m.noteHot (m.tripReadings v)).noteCool (m.tripReadings v)

/-- The first diode that two samples in a row found at or above 130 °C. -/
def Mach.twiceHot (m : Mach) : Option Nat := (List.range m.nDiodes).find? fun d => decide (2 ≤ (m.diode d).hot)

include hm

theorem tripSample_held {v : List Int} (hheld : m.clk.coldHeld = true) : exec (.tripSample v at_) s = .next (s.withM m) := by
  subst hm
  exact State.next_on (if_pos hheld)

theorem exec_tripSample_eq {v : List Int} (hfree : m.clk.coldHeld = false) : exec (.tripSample v at_) s = .next (s.withM
    (if (m.tripCompared v).heat.active then m.tripCompared v
    else match (m.tripCompared v).twiceHot with
      | some d => (m.tripCompared v).trip s.cfg d (hottest ((m.tripReadings v).map (fun t => t.2)))
      | none => m.tripCompared v)) := by
  subst hm
  exact State.next_on (if_neg (by simp [hfree]))

theorem tripSample_compares {v : List Int} (hfree : m.clk.coldHeld = false)
    (h : (m.tripCompared v).heat.active = true ∨ (m.tripCompared v).twiceHot = none) :
    exec (.tripSample v at_) s = .next (s.withM (m.tripCompared v)) := by
  rw [exec_tripSample_eq hm hfree]
  obtain hactive | hnone := h
  · rw [if_pos hactive]
  · rw [hnone, ite_self]

theorem tripSample_trips {v : List Int} {d : Nat} (hfree : m.clk.coldHeld = false) (hidle : (m.tripCompared v).heat.active = false)
    (htwice : (m.tripCompared v).twiceHot = some d) : exec (.tripSample v at_) s = .next (s.withM
      ((m.tripCompared v).trip s.cfg d (hottest ((m.tripReadings v).map (fun t => t.2))))) := by
  rw [exec_tripSample_eq hm hfree, if_neg (by simp [hidle]), htwice]

/-! ## TRIP_DUMP_DONE and TRIP_BACKSTOP (11 R520, R521) -/

theorem exec_tripDumpDone_eq : exec (.tripDumpDone at_) s = .next (s.withM
    (if !m.heat.active || m.heat.gated then m
    else if (if m.dumpEnds then m.endDump else m).power.dumpDoneF then (if m.dumpEnds then m.endDump else m).gate
    else if m.dumpEnds then m.endDump else m)) := by
  subst hm
  rfl

theorem exec_tripBackstop_eq : exec (.tripBackstop at_) s = .next (s.withM
    (if !m.heat.active || m.heat.gated || m.power.dumpDoneF || decide (m.clk.now < m.heat.tripAt + 250 * Config.edgesPerMs) then m
    else ((m.gate).onHeat fun h => { h with backstop := true }).record 0x0B07 (ceilDiv m.stg.dirty mib) 0)) := by
  subst hm
  rfl

theorem tripDumpDone_ignored (h : m.heat.active = false ∨ m.heat.gated = true) :
    exec (.tripDumpDone at_) s = .next (s.withM m) := by
  rw [exec_tripDumpDone_eq hm, if_pos (by simpa using h)]

theorem tripBackstop_ignored (h : m.heat.active = false ∨ m.heat.gated = true ∨ m.power.dumpDoneF = true ∨
      m.clk.now < m.heat.tripAt + 250 * Config.edgesPerMs) : exec (.tripBackstop at_) s = .next (s.withM m) := by
  rw [exec_tripBackstop_eq hm, if_pos (by simpa [or_assoc] using h)]

section
variable (hactive : m.heat.active = true) (hopen : m.heat.gated = false)
include hactive hopen

theorem tripDumpDone_ends (hends : m.dumpEnds = true) : exec (.tripDumpDone at_) s = .next (s.withM m.endDump.gate) := by
  have hdone : m.endDump.power.dumpDoneF = true := rfl
  rw [exec_tripDumpDone_eq hm, if_neg (by simp [hactive, hopen]), if_pos hends, if_pos hdone]

theorem tripDumpDone_gates (hdone : m.power.dumpDoneF = true) : exec (.tripDumpDone at_) s = .next (s.withM m.gate) := by
  have hends : ¬m.dumpEnds = true := by simp [Mach.dumpEnds, hdone]
  rw [exec_tripDumpDone_eq hm, if_neg (by simp [hactive, hopen]), if_neg hends, if_pos hdone]

theorem tripDumpDone_waits (hends : m.dumpEnds = false) (hdone : m.power.dumpDoneF = false) :
    exec (.tripDumpDone at_) s = .next (s.withM m) := by
  rw [exec_tripDumpDone_eq hm, if_neg (by simp [hactive, hopen]), if_neg (Bool.eq_false_iff.mp hends), if_neg (Bool.eq_false_iff.mp hdone)]

theorem tripBackstop_gates (hdone : m.power.dumpDoneF = false) (hdue : m.heat.tripAt + 250 * Config.edgesPerMs ≤ m.clk.now) :
    exec (.tripBackstop at_) s = .next (s.withM
      (((m.gate).onHeat fun h => { h with backstop := true }).record 0x0B07 (ceilDiv m.stg.dirty mib) 0)) := by
  rw [exec_tripBackstop_eq hm, if_neg (by simp [hactive, hopen, hdone, hdue])]

end

/-! ## POWER_FAIL and SUPPLY_OUT_OF_LIMITS (11 R524, R528; 12 R536; 16 R655) -/

theorem powerFail_fails {x : Mach} (hx : m.powerFails s.cfg = x) : exec (.powerFail at_) s = .next (s.withM x) := by
  subst hm
  exact State.next_on hx

theorem exec_supplyOutOfLimits_eq {us : Nat} : exec (.supplyOutOfLimits us at_) s = .next (s.withM
    (if decide (us < 2) || m.power.pfail || !m.awake then m
    else (m.powerFails s.cfg).onPower fun p => { p with pfailOffAt := some m.clk.now })) := by
  subst hm
  rfl

theorem supplyOutOfLimits_ignored {us : Nat} (h : us < 2 ∨ m.power.pfail = true ∨ m.awake = false) :
    exec (.supplyOutOfLimits us at_) s = .next (s.withM m) := by
  rw [exec_supplyOutOfLimits_eq hm, if_pos (by simpa [or_assoc] using h)]

/-- A supply that fails acts as a power failure that is over at once. -/
theorem supplyOutOfLimits_fails {us : Nat} {x : Mach} (hx : m.powerFails s.cfg = x) (hawake : m.awake = true) (hus : 2 ≤ us)
    (hgood : m.power.pfail = false) : exec (.supplyOutOfLimits us at_) s = .next (s.withM
      (x.onPower fun p => { p with pfailOffAt := some m.clk.now })) := by
  rw [exec_supplyOutOfLimits_eq hm, if_neg (by simp [hawake, hgood, hus.not_gt]), hx]

end

/-- The power failure that a controller notes before it acts on it. -/
def Mach.notePfail (m : Mach) : Mach := m.onPower fun p => { p with pfail := true, pfailOffAt := none }

section
variable {c : Cfg} {m : Mach}

theorem Mach.awake_of_inService (h : m.inService = true) : m.awake = true := by
  rw [Mach.inService, beq_iff_eq] at h
  rw [Mach.awake, h]
  rfl

theorem Mach.powerFails_asleep (hasleep : m.awake = false) : m.powerFails c = m := if_pos (by simp [hasleep])

variable (hawake : m.awake = true)
include hawake

theorem Mach.powerFails_eq : m.powerFails c =
    if m.power.dumping then m.notePfail.onPower fun p => { p with dumpCause := if p.dumpCause = 3 then 1 else p.dumpCause }
    else if m.heat.active then m.notePfail
    else if m.inService then m.notePfail.beginDump c 1
    else m.notePfail.onPower fun p => { p with dumping := true, dumpCause := 1, dumpAt := m.clk.now, dumpDoneF := true } :=
  if_neg (by simp [hawake])

theorem Mach.powerFails_joins (hdumping : m.power.dumping = true) :
    m.powerFails c = m.notePfail.onPower fun p => { p with dumpCause := if p.dumpCause = 3 then 1 else p.dumpCause } := by
  rw [Mach.powerFails_eq hawake, if_pos hdumping]

variable (hquiet : m.power.dumping = false)
include hquiet

theorem Mach.powerFails_tripped (hactive : m.heat.active = true) : m.powerFails c = m.notePfail := by
  rw [Mach.powerFails_eq hawake, if_neg (by simp [hquiet]), if_pos hactive]

variable (hcool : m.heat.active = false)
include hcool

theorem Mach.powerFails_dumps (hserves : m.inService = true) : m.powerFails c = m.notePfail.beginDump c 1 := by
  rw [Mach.powerFails_eq hawake, if_neg (by simp [hquiet]), if_neg (by simp [hcool]), if_pos hserves]

theorem Mach.powerFails_starting (hstarting : m.inService = false) : m.powerFails c =
    m.notePfail.onPower fun p => { p with dumping := true, dumpCause := 1, dumpAt := m.clk.now, dumpDoneF := true } := by
  rw [Mach.powerFails_eq hawake, if_neg (by simp [hquiet]), if_neg (by simp [hcool]), if_neg (by simp [hstarting])]

end

section
variable {s n : State} {at_ : Nat} (hn : (s.on fun _ m => m.advance at_) = n)

/-! ## TRIP_RESTART (11 R522, R528) -/

/-- A gated controller has stayed below 100 °C for 30 s, and no power failure holds its restart. -/
def Mach.tripOver (m : Mach) : Prop :=
  m.heat.active = true ∧ m.heat.gated = true ∧ (∃ t, m.heat.coolAt = some t ∧ t + 30 * Config.edgesPerSec ≤ m.clk.now) ∧
    (m.power.pfail = false ∨ m.pfailOver = true)

/-- The test of the row for the 30 s. -/
def Mach.cooled (m : Mach) : Bool :=
  match m.heat.coolAt with
  | some t => decide (t + 30 * Config.edgesPerSec ≤ m.clk.now)
  | none => false

theorem Mach.cooled_iff (m : Mach) : m.cooled = true ↔ ∃ t, m.heat.coolAt = some t ∧ t + 30 * Config.edgesPerSec ≤ m.clk.now := by
  unfold Mach.cooled
  split
  next t ht => simp [ht]
  next hnone => simp [hnone]

theorem Mach.tripOver_iff (m : Mach) :
    (m.heat.active && m.heat.gated && m.cooled && (!m.power.pfail || m.pfailOver)) = true ↔ m.tripOver := by
  simp only [Mach.tripOver, ← Mach.cooled_iff, Bool.and_eq_true, Bool.or_eq_true, Bool.not_eq_true', and_assoc]

section
include hn

theorem tripRestart_restarts (h : n.m.tripOver) : exec (.tripRestart at_) s = .next
    (n.restart.on fun _ m => m.record 0x0B08 ((n.m.clk.now - n.m.heat.tripAt) / Config.edgesPerSec) 0) := by
  subst hn
  exact if_pos ((Mach.tripOver_iff _).mpr h)

theorem tripRestart_waits (h : ¬n.m.tripOver) : exec (.tripRestart at_) s = .next n := by
  subst hn
  exact if_neg (mt (Mach.tripOver_iff _).mp h)

end

/-! ## DUMP_DONE (11 R524; 12 R535) -/

section
include hn

theorem exec_dumpDone_eq : exec (.dumpDone at_) s =
    if !n.m.dumpEnds then .next n
    else if n.m.endDump.power.dumpCause = 3 then
      .next (((n.on fun _ m => m.endDump).warmReset (n.m.endDump.bar0 0).nssro false).on fun _ m =>
        m.record 0x0C0A ((n.m.clk.now - n.m.power.dumpAt) / Config.edgesPerMs) 0)
    else .next (n.on fun _ m => m.endDump) := by
  subst hn
  rfl

theorem dumpDone_waits (hruns : n.m.dumpEnds = false) : exec (.dumpDone at_) s = .next n := by
  rw [exec_dumpDone_eq hn, if_pos (by simp [hruns])]

theorem dumpDone_ends (hends : n.m.dumpEnds = true) (hcause : n.m.endDump.power.dumpCause ≠ 3) :
    exec (.dumpDone at_) s = .next (n.on fun _ m => m.endDump) := by
  rw [exec_dumpDone_eq hn, if_neg (by simp [hends]), if_neg hcause]

theorem dumpDone_resets (hends : n.m.dumpEnds = true) (hcause : n.m.endDump.power.dumpCause = 3) :
    exec (.dumpDone at_) s = .next
      (((n.on fun _ m => m.endDump).warmReset (n.m.endDump.bar0 0).nssro false).on fun _ m =>
        m.record 0x0C0A ((n.m.clk.now - n.m.power.dumpAt) / Config.edgesPerMs) 0) := by
  rw [exec_dumpDone_eq hn, if_neg (by simp [hends]), if_pos hcause]

end

/-! ## POWERFAIL_DEASSERT (11 R527) -/

/-- The power failure of a controller without a trip is over: the dump is done, and PWRFAIL_N has been deasserted for 100 ms since `t`. -/
def Mach.failureOver (t : Nat) (m : Mach) : Prop :=
  m.power.dumpDoneF = true ∧ t + 100 * Config.edgesPerMs ≤ m.clk.now ∧ m.heat.active = false

theorem Mach.failureOver_iff {m : Mach} {t : Nat} (hoff : m.power.pfailOffAt = some t) :
    (m.pfailOver && !m.heat.active) = true ↔ m.failureOver t := by
  simp [Mach.pfailOver, Mach.failureOver, hoff, and_assoc]

section
include hn

theorem exec_powerfailDeassert_eq : exec (.powerfailDeassert at_) s =
    if !n.m.power.pfail then .next n
    else if n.m.power.pfailOffAt.isNone then .next (n.on fun _ m => m.onPower fun p => { p with pfailOffAt := some m.clk.now })
    else if n.m.pfailOver && !n.m.heat.active then .next n.restart
    else .next n := by
  subst hn
  rfl

theorem powerfailDeassert_ignored (hgood : n.m.power.pfail = false) : exec (.powerfailDeassert at_) s = .next n := by
  rw [exec_powerfailDeassert_eq hn, if_pos (by simp [hgood])]

variable (hpfail : n.m.power.pfail = true)
include hpfail

theorem powerfailDeassert_notes (hoff : n.m.power.pfailOffAt = none) : exec (.powerfailDeassert at_) s = .next
    (n.on fun _ m => m.onPower fun p => { p with pfailOffAt := some m.clk.now }) := by
  rw [exec_powerfailDeassert_eq hn, if_neg (by simp [hpfail]), if_pos (by simp [hoff])]

variable {t : Nat} (hoff : n.m.power.pfailOffAt = some t)
include hoff

theorem powerfailDeassert_restarts (h : n.m.failureOver t) : exec (.powerfailDeassert at_) s = .next n.restart := by
  rw [exec_powerfailDeassert_eq hn, if_neg (by simp [hpfail]), if_neg (by simp [hoff]), if_pos ((Mach.failureOver_iff hoff).mpr h)]

theorem powerfailDeassert_waits (h : ¬n.m.failureOver t) : exec (.powerfailDeassert at_) s = .next n := by
  rw [exec_powerfailDeassert_eq hn, if_neg (by simp [hpfail]), if_neg (by simp [hoff]), if_neg (mt (Mach.failureOver_iff hoff).mp h)]

end

end

/-- Settles O41: one lemma for each way in which these rows act or wait. A power failure and a supply finding share what `powerFails` does. -/
theorem tripAndDumpCommandsComplete : Obligations.TripAndDumpCommandsComplete := by
  refine ⟨?sample, ?gate, ?restart, ?fail, ?dump⟩
  case sample =>
    exact fun s v at_ => ⟨tripSample_held rfl, fun hfree => ⟨tripSample_compares rfl hfree, fun _ => tripSample_trips rfl hfree⟩⟩
  case gate =>
    intro s at_ m
    refine ⟨fun h => ⟨tripDumpDone_ignored rfl h, tripBackstop_ignored rfl (h.imp_right .inl)⟩, fun hactive hopen => ?_⟩
    exact ⟨tripDumpDone_ends rfl hactive hopen, tripDumpDone_gates rfl hactive hopen, tripDumpDone_waits rfl hactive hopen,
      tripBackstop_gates rfl hactive hopen, fun h => tripBackstop_ignored rfl (.inr (.inr h))⟩
  case restart => exact fun _ _ => ⟨tripRestart_restarts rfl, tripRestart_waits rfl⟩
  case fail =>
    intro s us at_ m p both
    have hboth {x : Mach} (hawake : m.awake = true) (hx : m.powerFails s.cfg = x) : both x :=
      ⟨powerFail_fails rfl hx, supplyOutOfLimits_fails rfl hx hawake⟩
    refine ⟨supplyOutOfLimits_ignored rfl, fun hasleep => powerFail_fails rfl (Mach.powerFails_asleep hasleep),
      fun hawake hdumping => hboth hawake (Mach.powerFails_joins hawake hdumping),
      fun hawake hquiet hactive => hboth hawake (Mach.powerFails_tripped hawake hquiet hactive), fun hquiet hcool hserves => ?_,
      fun hawake hquiet hcool hstarting => hboth hawake (Mach.powerFails_starting hawake hquiet hcool hstarting)⟩
    have hawake := Mach.awake_of_inService hserves
    exact hboth hawake (Mach.powerFails_dumps hawake hquiet hcool hserves)
  case dump =>
    exact fun s at_ => ⟨dumpDone_waits rfl, dumpDone_ends rfl, dumpDone_resets rfl, powerfailDeassert_ignored rfl,
      powerfailDeassert_notes rfl, fun _ hpfail hoff => ⟨powerfailDeassert_restarts rfl hpfail hoff, powerfailDeassert_waits rfl hpfail hoff⟩⟩

end Sys2Proof.Machine

/-! # Bring-up: the cold and the warm start, the phases, channel training and the host link (12 R533 to R549; 05 R231; 16 R661) -/

namespace Sys2Proof.Machine

section
variable {s : State} {at_ : Nat} {m : Mach} (hm : s.m.advance at_ = m)

/-! ## COLD_RESET_RELEASE (12 R533; 14 R601) -/

/-- The cold reset is released, and the powered-time counter starts at zero. -/
def Mach.coldReleased (m : Mach) : Mach :=
  m.onClk fun k => { k with powered := true, coldHeld := false, releasedAt := k.now, basesLoaded := false, secBase := 0, cycBase := 0 }

section
include hm

theorem exec_coldResetRelease_eq : exec (.coldResetRelease at_) s = .next (s.withM (if !m.clk.coldHeld then m else m.coldReleased)) := by
  subst hm
  rfl

theorem coldResetRelease_releases (hheld : m.clk.coldHeld = true) :
    exec (.coldResetRelease at_) s = .next (s.withM m.coldReleased) := by
  rw [exec_coldResetRelease_eq hm, if_neg (by simp [hheld])]

theorem coldResetRelease_ignored (hfree : m.clk.coldHeld = false) : exec (.coldResetRelease at_) s = .next (s.withM m) := by
  rw [exec_coldResetRelease_eq hm, if_pos (by simp [hfree])]

end

/-! ## WARM_START (12 R534, R538; 10 R452; 14 R601; 16 R661) -/

/-- A controller that is not awake may start: the supplies are good, PERST_N is high, and neither a reset, a trip nor a power failure holds it. -/
def Mach.mayStart (good high : Bool) (m : Mach) : Prop :=
  m.awake = false ∧ m.clk.coldHeld = false ∧ good = true ∧ high = true ∧ m.heat.active = false ∧ m.power.pfail = false

theorem Mach.not_mayStart_iff {good high : Bool} :
    (m.awake || m.clk.coldHeld || !good || !high || m.heat.active || m.power.pfail) = true ↔ ¬m.mayStart good high := by
  simp only [Mach.mayStart, not_and_or, Bool.or_eq_true, Bool.not_eq_true', Bool.not_eq_false, Bool.not_eq_true, or_assoc]

/-- A role on a ring opens both hitch ports, and any other leaves them in reset; ROLE 0b11 comes up standalone. -/
def Hitch.atStart (role : Nat) : Hitch :=
  { Hitch.reset with role := if role = 3 then 0 else role,
                     ports := if role = 1 ∨ role = 2 then [(0, { HPort.init with st := 1 }), (1, { HPort.init with st := 1 })] else [] }

/-- The straps are latched, the session is counted, and phase 1 runs with the boot flash in reset for 10 µs. -/
def Mach.warmStarted (straps : Straps) (m : Mach) : Mach :=
  ((m.onBoot fun b => { b with straps := { straps with role := straps.role % 4 }, phase := 1, warmAt := m.clk.now,
                               session := b.session + 1, flashMode := 0, spiReset := m.clk.now + 10 * Config.edgesPerUs }).onHitch fun _ =>
    Hitch.atStart (straps.role % 4)).loadBases

section
variable {straps : Straps} {good high : Bool}
include hm

theorem warmStart_starts (h : m.mayStart good high) : exec (.warmStart straps good high at_) s = .next (s.withM (m.warmStarted straps)) := by
  subst hm
  exact State.next_on (if_neg (mt Mach.not_mayStart_iff.mp (not_not.mpr h)))

theorem warmStart_ignored (h : ¬m.mayStart good high) : exec (.warmStart straps good high at_) s = .next (s.withM m) := by
  subst hm
  exact State.next_on (if_pos (Mach.not_mayStart_iff.mpr h))

end

end

/-! ## STARTUP_PHASE_DONE (12 R540; 16 R661) -/

/-- A DRAM port trains, which holds phase 4. -/
def Mach.portsTrain (m : Mach) : Bool := (List.range m.nAcres).any fun a => m.acreUp a && decide ((m.port a).attempt ≠ 0)

/-- A channel trains, which holds phase 6. -/
def Mach.chansTrain (m : Mach) : Bool := m.med.chans.any fun e => e.2.training && m.acreUp (chanAcre e.1)

/-- What the end of phase `k` does to the machine alone: of every phase but 7, which reads the saved configuration. -/
def Mach.phaseEnds (k : Nat) (info : PhaseInfo) (c : Cfg) (m : Mach) : Mach :=
  match k with
  | 1 => if m.clk.now < m.boot.spiReset then m else m.phaseOne info
  | 2 => m.phaseTwo c info
  | 3 => m.phaseThree c info
  | 4 => m.phaseFour c
  | 5 => m.phaseFive
  | 6 => m.phaseSix
  | 8 => m.complete c
  | _ => m

section
variable {info : PhaseInfo} {c : Cfg} {m : Mach}

/-- Asleep and in service no phase runs. -/
theorem Mach.phaseEnds_none {k : Nat} (h : k = 0 ∨ 9 ≤ k) : m.phaseEnds k info c = m := by
  unfold Mach.phaseEnds
  split
  case h_8 => rfl
  all_goals omega

theorem Mach.phaseFour_waits (h : m.portsTrain = true) : m.phaseFour c = m := if_pos h
theorem Mach.phaseFour_ends (h : m.portsTrain = false) : m.phaseFour c =
    ((List.range m.nAcres).foldl (fun m a => if m.fencingA a then m.fenceEnd c a 0 else m) m).onBoot fun b => { b with phase := 5 } :=
  if_neg (Bool.eq_false_iff.mp h)

theorem Mach.phaseSix_waits (h : m.chansTrain = true) : m.phaseSix = m := if_pos h
theorem Mach.phaseSix_ends (h : m.chansTrain = false) : m.phaseSix = m.onBoot fun b => { b with phase := 7 } :=
  if_neg (Bool.eq_false_iff.mp h)

end

section
variable {s n : State} {info : PhaseInfo} {at_ : Nat} (hn : (s.on fun _ m => m.advance at_) = n)
include hn

theorem exec_startupPhaseDone_eq : exec (.startupPhaseDone info at_) s =
    if !n.m.starting then .next n
    else if n.m.boot.phase = 7 then .next (n.phaseSeven info)
    else .next (n.withM (n.m.phaseEnds n.m.boot.phase info n.cfg)) := by
  subst hn
  rfl

theorem startupPhaseDone_stopped (hstop : n.m.starting = false) : exec (.startupPhaseDone info at_) s = .next n := by
  rw [exec_startupPhaseDone_eq hn, if_pos (by simp [hstop])]

theorem startupPhaseDone_idle (h : n.m.boot.phase = 0 ∨ 9 ≤ n.m.boot.phase) : exec (.startupPhaseDone info at_) s = .next n := by
  have hphase : n.m.boot.phase ≠ 7 := by omega
  rw [exec_startupPhaseDone_eq hn, if_neg hphase, Mach.phaseEnds_none h]
  exact ite_self _

section
variable (hstarting : n.m.starting = true)
include hstarting

theorem startupPhaseDone_seven (hphase : n.m.boot.phase = 7) : exec (.startupPhaseDone info at_) s = .next (n.phaseSeven info) := by
  rw [exec_startupPhaseDone_eq hn, if_neg (by simp [hstarting]), if_pos hphase]

theorem startupPhaseDone_ends {k : Nat} {x : Mach} (hphase : n.m.boot.phase = k) (hk : k ≠ 7) (hx : n.m.phaseEnds k info n.cfg = x) :
    exec (.startupPhaseDone info at_) s = .next (n.withM x) := by
  rw [exec_startupPhaseDone_eq hn, if_neg (by simp [hstarting]), if_neg (hphase ▸ hk), hphase, hx]

end

end

/-! ## NAND_TRAINING_DONE and NAND_TRAINING_TIMEOUT (12 R545, R546; 05 R231) -/

theorem Mach.updChan_congr {m : Mach} {ch : Nat} {f g : Chan → Chan} (h : f (m.chan ch) = g (m.chan ch)) :
    m.updChan ch f = m.updChan ch g :=
  congrArg (fun y => m.onMed fun x => { x with chans := Tbl.put Chan.init ch y x.chans }) h

/-- The next attempt of a channel's training is at this mode and rate, and begins at once. -/
def Mach.tryRate (ch : Nat) (r : Nat × Nat) (m : Mach) : Mach :=
  m.updChan ch fun y => { y with attempt := some r, heldRate := none, trainAt := m.clk.now }

theorem Mach.takeHeld_some {m : Mach} {ch : Nat} {r : Nat × Nat} (hheld : (m.chan ch).heldRate = some r) :
    m.takeHeld ch = m.tryRate ch r :=
  Mach.updChan_congr (by rw [hheld])

/-- More than 50 ms have gone since the attempt began. -/
def Mach.trainsLate (ch : Nat) (m : Mach) : Prop := (m.chan ch).trainAt + 160000000 < m.clk.now

section
variable {s : State} {ch : Nat}

theorem nandTrainingDone_ignored {r : TrainEnd} (hidle : s.m.chanTrains ch = false) : exec (.nandTrainingDone ch r) s = .next s :=
  State.next_on (if_pos (by simp [hidle]))

section
variable (htrains : s.m.chanTrains ch = true)
include htrains

theorem nandTrainingDone_trains (h : (s.m.chan ch).heldRate = none ∨ ¬s.m.trainsLate ch) :
    exec (.nandTrainingDone ch .passed) s = .next (s.withM (s.m.updChan ch Chan.trained)) := by
  refine State.next_on ((if_neg (by simp [htrains])).trans (if_neg ?_))
  obtain hnone | hearly := h
  · simp [hnone]
  · rw [Bool.and_eq_true, decide_eq_true_eq]
    exact fun ⟨_, hlate⟩ => hearly hlate

theorem nandTrainingDone_passedLate {r : Nat × Nat} (hheld : (s.m.chan ch).heldRate = some r) (hlate : s.m.trainsLate ch) :
    exec (.nandTrainingDone ch .passed) s = .next (s.withM (s.m.tryRate ch r)) := by
  refine State.next_on ((if_neg (by simp [htrains])).trans ((if_pos ?_).trans (Mach.takeHeld_some hheld)))
  rw [Bool.and_eq_true, decide_eq_true_eq]
  exact ⟨by simp [hheld], hlate⟩

theorem nandTrainingDone_failed {x : Mach} (hx : (if (s.m.chan ch).heldRate.isSome then s.m else s.m.nextRung s.cfg ch).takeHeld ch = x) :
    exec (.nandTrainingDone ch .failed) s = .next (s.withM x) :=
  State.next_on ((if_neg (by simp [htrains])).trans hx)

theorem nandTrainingDone_failedHeld {r : Nat × Nat} (hheld : (s.m.chan ch).heldRate = some r) :
    exec (.nandTrainingDone ch .failed) s = .next (s.withM (s.m.tryRate ch r)) :=
  nandTrainingDone_failed htrains (by rw [if_pos (by simp [hheld]), Mach.takeHeld_some hheld])

theorem nandTrainingDone_failedFirst (hnone : (s.m.chan ch).heldRate = none) :
    exec (.nandTrainingDone ch .failed) s = .next (s.withM ((s.m.nextRung s.cfg ch).takeHeld ch)) :=
  nandTrainingDone_failed htrains (by rw [if_neg (by simp [hnone])])

end

section
variable {at_ : Nat} {m : Mach} (hm : s.m.advance at_ = m)
include hm

theorem exec_nandTrainingTimeout_eq : exec (.nandTrainingTimeout ch at_) s = .next (s.withM
    (if !m.chanTrains ch || (m.chan ch).heldRate.isSome || decide (m.clk.now < (m.chan ch).trainAt + 160000000) then m
    else m.nextRung s.cfg ch)) := by
  subst hm
  rfl

theorem nandTrainingTimeout_waits
    (h : m.chanTrains ch = false ∨ (m.chan ch).heldRate ≠ none ∨ m.clk.now < (m.chan ch).trainAt + 160000000) :
    exec (.nandTrainingTimeout ch at_) s = .next (s.withM m) := by
  rw [exec_nandTrainingTimeout_eq hm, if_pos (by simpa [Option.isSome_iff_ne_none, or_assoc] using h)]

theorem nandTrainingTimeout_lowers (htrains : m.chanTrains ch = true) (hnone : (m.chan ch).heldRate = none)
    (hdue : (m.chan ch).trainAt + 160000000 ≤ m.clk.now) :
    exec (.nandTrainingTimeout ch at_) s = .next (s.withM (m.nextRung s.cfg ch)) := by
  rw [exec_nandTrainingTimeout_eq hm, if_neg (by simp [htrains, hnone, hdue])]

end

end

/-! ## HOST_LINK_TRAINED and EQUALIZATION_DONE (12 R547 to R549; 10 R453) -/

section
variable {s : State} {port : Nat}

/-- The straps give a controller that is no worker this host port. -/
def Mach.hasHostPort (port : Nat) (m : Mach) : Prop :=
  m.awake = true ∧ m.hitch.role ≠ 2 ∧ (port = 0 ∨ port = 1 ∧ m.boot.straps.portMode = true)

theorem Mach.not_hasHostPort_iff {m : Mach} :
    (!m.awake || decide (m.hitch.role = 2) || decide (2 ≤ port) || (decide (port = 1) && !m.boot.straps.portMode)) = true ↔
      ¬m.hasHostPort port := by
  have hport : 2 ≤ port ∨ (port = 1 ∧ m.boot.straps.portMode = false) ↔ ¬(port = 0 ∨ port = 1 ∧ m.boot.straps.portMode = true) := by
    cases m.boot.straps.portMode <;> simp <;> omega
  simp only [Mach.hasHostPort, not_and_or, Bool.or_eq_true, Bool.and_eq_true, Bool.not_eq_true', decide_eq_true_eq, or_assoc, hport,
    Bool.not_eq_true, not_not]

/-- Data Link Active on the port; equalization runs. -/
def Mach.linkTrained (port : Nat) (m : Mach) : Mach :=
  (m.onBoot fun b => { b with link := Tbl.put false port true b.link, eq := Tbl.put false port true b.eq }).onGrid fun g =>
    { g with linkUp := Tbl.put false port true g.linkUp }

theorem hostLinkTrained_trains (h : s.m.hasHostPort port) : exec (.hostLinkTrained port) s = .next (s.withM (s.m.linkTrained port)) :=
  State.next_on (if_neg (mt Mach.not_hasHostPort_iff.mp (not_not.mpr h)))

theorem hostLinkTrained_ignored (h : ¬s.m.hasHostPort port) : exec (.hostLinkTrained port) s = .next s :=
  State.next_on (if_pos (Mach.not_hasHostPort_iff.mpr h))

theorem equalizationDone_ignored {r : Option Nat} (hidle : Tbl.get false port s.m.boot.eq = false) :
    exec (.equalizationDone port r) s = .next s :=
  State.next_on (if_pos (by simp [hidle]))

section
variable (heq : Tbl.get false port s.m.boot.eq = true)
include heq

theorem equalizationDone_ends : exec (.equalizationDone port none) s = .next (s.withM
    (s.m.onBoot fun b => { b with eq := Tbl.put false port false b.eq, heldSpeed := Tbl.put 0 port 0 b.heldSpeed })) :=
  State.next_on (if_neg (by simp [heq]))

theorem equalizationDone_holds {r : Nat} : exec (.equalizationDone port (some r)) s = .next (s.withM
    ((s.m.onBoot fun b => { b with heldSpeed := Tbl.put 0 port r b.heldSpeed }).record 0x0C04 r 0)) :=
  State.next_on (if_neg (by simp [heq]))

end

end

/-- Settles O42: one lemma for each way in which these rows act or wait; of a phase, what its end does is `Mach.phaseEnds`, but for phase 7. -/
theorem startupCommandsComplete : Obligations.StartupCommandsComplete := by
  refine ⟨?cold, ?warm, ?phase, ?train, ?link, ?equalize⟩
  case cold => exact fun s at_ => ⟨coldResetRelease_releases rfl, coldResetRelease_ignored rfl⟩
  case warm => exact fun s straps good high at_ => ⟨warmStart_starts rfl, warmStart_ignored rfl⟩
  case phase =>
    intro s info at_ n
    refine ⟨fun h => h.elim (startupPhaseDone_stopped rfl) (startupPhaseDone_idle rfl), fun hstarting => ?_⟩
    have ends {k : Nat} {x : Mach} (hphase : n.m.boot.phase = k) (hk : k ≠ 7) (hx : n.m.phaseEnds k info n.cfg = x) :
        exec (.startupPhaseDone info at_) s = .next (n.withM x) := startupPhaseDone_ends rfl hstarting hphase hk hx
    exact ⟨fun h hreset => ends h (by decide) (if_pos hreset),
      fun h hread => ends h (by decide) (if_neg hread.not_gt),
      fun h => ends h (by decide) rfl,
      fun h => ends h (by decide) rfl,
      fun h hport => ends h (by decide) (Mach.phaseFour_waits hport),
      fun h hport => ends h (by decide) (Mach.phaseFour_ends hport),
      fun h => ends h (by decide) rfl,
      fun h hchan => ends h (by decide) (Mach.phaseSix_waits hchan),
      fun h hchan => ends h (by decide) (Mach.phaseSix_ends hchan),
      fun h => startupPhaseDone_seven rfl hstarting h,
      fun h => ends h (by decide) rfl⟩
  case train =>
    intro s ch at_ late take m
    refine ⟨fun hidle _ => nandTrainingDone_ignored hidle, fun htrains => ?_, nandTrainingTimeout_waits rfl,
      nandTrainingTimeout_lowers rfl⟩
    exact ⟨nandTrainingDone_trains htrains, fun _ => nandTrainingDone_passedLate htrains,
      fun _ => nandTrainingDone_failedHeld htrains, nandTrainingDone_failedFirst htrains⟩
  case link => exact fun s port => ⟨hostLinkTrained_trains, hostLinkTrained_ignored⟩
  case equalize =>
    exact fun s port => ⟨fun hidle _ => equalizationDone_ignored hidle,
      fun heq => ⟨equalizationDone_ends heq, fun _ => equalizationDone_holds heq⟩⟩

end Sys2Proof.Machine

/-! # Resets from outside and a loss of power (12 R533 to R537, R561; 02 R82; 15 R621) -/

namespace Sys2Proof.Machine

/-! ## A reset from outside (12 R535, R536) -/

section
variable {s : State}

/-- Before its warm start a controller has nothing to reset; a reset that finds a dump running waits for it. -/
theorem State.outsideReset_waits (h : s.m.awake = false ∨ s.m.power.dumping = true ∧ s.m.power.dumpDoneF = false) :
    s.outsideReset = s := by
  unfold State.outsideReset
  obtain hasleep | ⟨hdumping, hruns⟩ := h
  · exact if_pos (by simp [hasleep])
  · rw [if_pos (by simp [hdumping, hruns] : (s.m.power.dumping && !s.m.power.dumpDoneF) = true), ite_self]

section
variable (hawake : s.m.awake = true)
include hawake

theorem State.outsideReset_dumps (hserves : s.m.inService = true) (hquiet : s.m.power.dumping = false) :
    s.outsideReset = s.on fun c m => m.beginDump c 3 :=
  (if_neg (by simp [hawake])).trans ((if_neg (by simp [hquiet])).trans (if_pos (by simp [hserves, hquiet])))

theorem State.outsideReset_afterDump (hdumping : s.m.power.dumping = true) (hdone : s.m.power.dumpDoneF = true) :
    s.outsideReset = s.warmReset (s.m.bar0 0).nssro false :=
  (if_neg (by simp [hawake])).trans ((if_neg (by simp [hdone])).trans (if_neg (by simp [hdumping])))

theorem State.outsideReset_starting (hstarting : s.m.inService = false) (hquiet : s.m.power.dumping = false) :
    s.outsideReset = s.warmReset (s.m.bar0 0).nssro false :=
  (if_neg (by simp [hawake])).trans ((if_neg (by simp [hquiet])).trans (if_neg (by simp [hstarting])))

end

end

/-! ## PERST_ASSERT and NVM_SUBSYSTEM_RESET (12 R535, R536; 15 R621) -/

/-- The link of a host port goes down. -/
def Mach.dropLink (port : Nat) (m : Mach) : Mach :=
  m.onBoot fun b => { b with link := Tbl.put false port false b.link, eq := Tbl.put false port false b.eq }

/-- What PERST_N does on its assertion edge: the link of port 0 goes down, NSSRO clears, and a grid that needed the port is free. -/
def Mach.perstEdge (c : Cfg) (m : Mach) : Mach :=
  (((m.updBar0 0 fun b => { b with nssro := false }).dropLink 0).onGrid fun g =>
    { g with linkUp := Tbl.put false 0 false g.linkUp }).linkFree c

section
variable {s : State} {at_ : Nat}

theorem exec_perstAssert_eq : exec (.perstAssert at_) s = .next (s.on fun c m => (m.advance at_).perstEdge c).outsideReset := rfl

theorem nvmSubsystemReset_resets (hup : s.m.barUp 0 = true) : exec (.nvmSubsystemReset 0 0x4E564D65) s =
    .next (s.on fun _ m => m.updBar0 0 fun b => { b with nssro := true }).outsideReset :=
  if_pos ⟨rfl, rfl, hup⟩

theorem nvmSubsystemReset_ignored {p : Nat} {v : Word} (h : p ≠ 0 ∨ v ≠ 0x4E564D65 ∨ s.m.barUp 0 = false) :
    exec (.nvmSubsystemReset p v) s = .next s :=
  if_neg fun ⟨hp, hv, hup⟩ => by simp [hp, hv, hup] at h

end

/-! ## PERST1_ASSERT (12 R537; 02 R82) -/

/-- The plots of port 1 become Absent, as if its VF Enable had been cleared. -/
def Mach.clearPort1 (m : Mach) : Mach :=
  ((m.plotsOn 1 (Tbl.get 0 1 m.plots.vfEn)).foldl (fun m p => m.makeAbsent p) m).onPlots fun x =>
    { x with vfEn := Tbl.put 0 1 0 x.vfEn }

/-- What PERST1_N does on its assertion edge. -/
def Mach.perst1Edge (c : Cfg) (m : Mach) : Mach :=
  ((m.clearPort1.dropLink 1).onGrid fun g =>
    { g with linkUp := Tbl.put false 1 false g.linkUp, ptmEn := Tbl.put false 1 false g.ptmEn }).linkFree c

section
variable {s : State} {at_ : Nat} {m : Mach} (hm : s.m.advance at_ = m)
include hm

theorem exec_perst1Assert_eq : exec (.perst1Assert at_) s = .next (s.withM
    (if !m.awake || !m.boot.straps.portMode then m else m.perst1Edge s.cfg)) := by
  subst hm
  rfl

theorem perst1Assert_ignored (h : m.awake = false ∨ m.boot.straps.portMode = false) :
    exec (.perst1Assert at_) s = .next (s.withM m) := by
  rw [exec_perst1Assert_eq hm, if_pos (by simpa using h)]

theorem perst1Assert_resets (hawake : m.awake = true) (hmode : m.boot.straps.portMode = true) :
    exec (.perst1Assert at_) s = .next (s.withM (m.perst1Edge s.cfg)) := by
  rw [exec_perst1Assert_eq hm, if_neg (by simp [hawake, hmode])]

end

/-! ## LOSS_OF_POWER (12 R561) -/

/-- A loss of power resets the always-on domain too, but for the saved value of feature 0xC3, and holds the cold reset. -/
def Mach.powerLost (m : Mach) : Mach :=
  let n := m.warmReset true false false
  { n with
      heat := { Heat.reset with savedC3 := n.heat.savedC3 }, power := Power.reset, polez := Polez.reset,
      clk := { n.clk with powered := false, coldHeld := true, basesLoaded := false, secBase := 0, cycBase := 0, releasedAt := n.clk.now } }

theorem exec_lossOfPower_eq (s : State) :
    exec .lossOfPower s = .next { cfg := Cfg.reset [], pending := s.pending, m := s.m.powerLost } := rfl

/-- Settles O43: PERST_N and NSSR share what `State.outsideReset` does after each has done its own part; the other two rows act on the machine at once. -/
theorem resetCommandsComplete : Obligations.ResetCommandsComplete := by
  refine ⟨?outside, ?perst1, exec_lossOfPower_eq⟩
  case outside =>
    intro s at_ n k resets
    have hresets {c : Instr} {x : State} (hc : exec c s = .next x.outsideReset) : resets c x := by
      have answers {t : State} (ht : x.outsideReset = t) : exec c s = .next t := hc.trans (congrArg Host.Outcome.next ht)
      exact ⟨fun h => answers (State.outsideReset_waits h),
        fun hawake hserves hquiet => answers (State.outsideReset_dumps hawake hserves hquiet),
        fun hawake hdumping hdone => answers (State.outsideReset_afterDump hawake hdumping hdone),
        fun hawake hstarting hquiet => answers (State.outsideReset_starting hawake hstarting hquiet)⟩
    exact ⟨hresets exec_perstAssert_eq, fun hup => hresets (nvmSubsystemReset_resets hup), fun _ _ => nvmSubsystemReset_ignored⟩
  case perst1 => exact fun s at_ => ⟨perst1Assert_ignored rfl, perst1Assert_resets rfl⟩

end Sys2Proof.Machine

/-! # Steps, and what every command keeps (00_scope; 02 R113; 10 R469, R470; 12 R540, R555; 15 R625, R627) -/

namespace Sys2Proof.Machine

/-- Settles O46: the queue's shape decides the branch of `step`. -/
theorem stepRunsFrontCommand : Obligations.StepRunsFrontCommand := by
  intro s c rest h
  rw [step, h]

/-- Settles O51: every command answers a next state that keeps the queue (`exec_keeps`). -/
theorem everyCommandAnswersAndKeepsTheQueue : Obligations.EveryCommandAnswersAndKeepsTheQueue := fun c s =>
  let ⟨t, ht, hk⟩ := exec_keeps c s
  ⟨t, ht, hk.1⟩

/-! ## Which commands may change the configuration (02 R113; 10 R469, R470; 12 R540, R555; 15 R625) -/

section
variable {s : State}

/-- A register write keeps the configuration when what the register does keeps it. -/
theorem State.barWrite_cfg {addr : Nat} {reach guarded : Bool} {be : BitVec 4} {f : State → State} (hf : (f s).cfg = s.cfg) :
    (s.barWrite addr reach guarded be f).cfg = s.cfg := by
  unfold State.barWrite
  split_ifs
  case neg => exact hf
  all_goals rfl

/-- A write beyond the last register of its kind does nothing. -/
theorem State.cfg_ite_self {beyond : Prop} [Decidable beyond] {t : State} (h : t.cfg = s.cfg) : (if beyond then s else t).cfg = s.cfg := by
  split
  · rfl
  · exact h

theorem State.intStsWrite_cfg (v : Word) (be : BitVec 4) : (s.intStsWrite v be).cfg = s.cfg := State.barWrite_cfg rfl
theorem State.intSetWrite_cfg (v : Word) (be : BitVec 4) : (s.intSetWrite v be).cfg = s.cfg := State.barWrite_cfg rfl
theorem State.nandWpWrite_cfg (swath i : Nat) (v : Word) (be : BitVec 4) : (s.nandWpWrite swath i v be).cfg = s.cfg :=
  State.cfg_ite_self (State.barWrite_cfg rfl)
theorem State.bootWpWrite_cfg (i : Nat) (v : Word) (be : BitVec 4) : (s.bootWpWrite i v be).cfg = s.cfg :=
  State.cfg_ite_self (State.barWrite_cfg rfl)
theorem State.pltCfgWrite_cfg (p : Nat) (v : Word) (be : BitVec 4) : (s.pltCfgWrite p v be).cfg = s.cfg :=
  State.cfg_ite_self (State.barWrite_cfg rfl)
theorem State.isoCmdWrite_cfg (p : Nat) (v : Word) (be : BitVec 4) : (s.isoCmdWrite p v be).cfg = s.cfg :=
  State.cfg_ite_self (State.barWrite_cfg rfl)

end

/-- The outcome is a next state with the configuration of `s`. -/
def AnswersSameCfg (s : State) (o : Host.Outcome State Fault Refusal) : Prop := ∃ t, o = .next t ∧ t.cfg = s.cfg

theorem AnswersSameCfg.next {s t : State} (h : t.cfg = s.cfg) : AnswersSameCfg s (.next t) := ⟨t, rfl, h⟩
theorem AnswersSameCfg.on (s : State) (f : Cfg → Mach → Mach) : AnswersSameCfg s (.next (s.on f)) := .next rfl

theorem AnswersSameCfg.cfg {s t : State} {o : Host.Outcome State Fault Refusal} (h : o = .next t) : AnswersSameCfg s o → t.cfg = s.cfg :=
  fun ⟨u, hu, hcfg⟩ => by
    cases hu.symm.trans h
    exact hcfg

theorem execRcRegisterRead_sameCfg (w : BarWindow) (o : Nat) (s : State) : AnswersSameCfg s (execRcRegisterRead w o s) := by
  cases w <;> exact .on ..

/-- Settles O52: the writes of registers that hold no configuration keep it, and of the rows that are not named every other one acts on
the machine alone. -/
theorem onlyConfigurationRowsChangeConfiguration : Obligations.OnlyConfigurationRowsChangeConfiguration := by
  intro c s t h
  cases c
  case registerWrite | furCfgWrite | furCtrlWrite | hubCtrlWrite | hubLedCtrlWrite | dirtyCfgWrite | dramRateRequest | taskEnd
      | setFeaturesFurrowGrid | cmd | regWr | perstAssert | nvmSubsystemReset | dumpDone | tripRestart | powerfailDeassert
      | lossOfPower | startupPhaseDone | slotWriteDone => trivial
  case rcRegisterRead w o => exact AnswersSameCfg.cfg h (execRcRegisterRead_sameCfg w o s)
  case hubIntStsClear v be => exact AnswersSameCfg.cfg h (.next (State.intStsWrite_cfg v be))
  case hubIntSetWrite v be => exact AnswersSameCfg.cfg h (.next (State.intSetWrite_cfg v be))
  case mgdNandWpWrite swath i v be => exact AnswersSameCfg.cfg h (.next (State.nandWpWrite_cfg swath i v be))
  case mgdBootWpWrite i v be => exact AnswersSameCfg.cfg h (.next (State.bootWpWrite_cfg i v be))
  case pltCfgWrite p v be => exact AnswersSameCfg.cfg h (.next (State.pltCfgWrite_cfg p v be))
  case isoApply p v be => exact AnswersSameCfg.cfg h (.next (State.isoCmdWrite_cfg p v be))
  all_goals exact AnswersSameCfg.cfg h (.on ..)

end Sys2Proof.Machine

/-! # Register writes that are dropped (15 R625, R627, R635, R637) -/

namespace Sys2Proof.Machine

section
variable {s : State} {i : Instr} {addr : Nat} {reach guarded : Bool} {be : BitVec 4} {f : State → State}
  (hwrite : exec i s = .next (s.barWrite addr reach guarded be f))
include hwrite

theorem exec_bar_asleep (hdown : s.m.deviceUp = false) : exec i s = .next s := by
  rw [hwrite, State.barWrite, if_pos (by simp [hdown])]

variable (hup : s.m.deviceUp = true)
include hup

theorem exec_bar_unreachable (hreach : reach = false) : exec i s = .next (s.withM (s.m.wrDrop 3 addr)) := by
  rw [hwrite, State.barWrite, if_neg (by simp [hup]), if_pos (by simp [hreach])]
  rfl

variable (hreach : reach = true)
include hreach

theorem exec_bar_partial (hbe : be ≠ 15) : exec i s = .next (s.withM (s.m.wrDrop 1 addr)) := by
  rw [hwrite, State.barWrite, if_neg (by simp [hup]), if_neg (by simp [hreach]), if_pos hbe]
  rfl

theorem exec_bar_guarded (hbe : be = 15) (hguarded : guarded = true) (hguard : s.cfg.wrGuard = true) :
    exec i s = .next (s.withM (s.m.wrDrop 2 addr)) := by
  rw [hwrite, State.barWrite, if_neg (by simp [hup]), if_neg (by simp [hreach]), if_neg (by simp [hbe]),
    if_pos (by simp [hguarded, hguard])]
  rfl

end

section
variable {s : State} {acre : Nat} (hacre : acre < 4) (v : Word) (be : BitVec 4)
include hacre

theorem exec_furCtrlWrite_bar {bed : Nat} (hbed : bed < 32) :
    exec (.furCtrlWrite acre bed v be) s = .next (s.barWrite (acreBase acre + 0x800 + 4 * bed) (s.m.reachable acre) true be
      fun s => s.setBedP (32 * acre + bed) (Word.bits v 4 0)) :=
  congrArg Host.Outcome.next (if_pos ⟨hbed, hacre⟩)

theorem exec_dramRateRequest_bar :
    exec (.dramRateRequest acre v be) s = .next (s.barWrite (acreBase acre + 0xC08) (s.m.reachable acre) true be fun s =>
      if dramRates.contains (Word.bits v 9 0) then
        { s with cfg := { s.cfg with rateTarget := Tbl.put 0x370 acre (Word.bits v 9 0) s.cfg.rateTarget },
                 m := s.m.rateAsk acre (Word.bits v 9 0) }
      else s) :=
  congrArg Host.Outcome.next (if_neg hacre.not_ge)

end

/-- Settles O12: each row is a write of a register (`State.barWrite`), which drops it for the first of the causes that holds. -/
theorem droppedWritesOnlyCount : Obligations.DroppedWritesOnlyCount := by
  refine ⟨?asleep, ?partly, ?guarded, ?unreachable, ?drop⟩
  case asleep =>
    intro s v be acre bed hdown hacre hbed
    exact ⟨exec_bar_asleep rfl hdown, exec_bar_asleep (exec_furCtrlWrite_bar hacre v be hbed) hdown,
      exec_bar_asleep (exec_dramRateRequest_bar hacre v be) hdown, exec_bar_asleep rfl hdown, exec_bar_asleep rfl hdown,
      exec_bar_asleep rfl hdown, exec_bar_asleep rfl hdown, exec_bar_asleep rfl hdown⟩
  case partly =>
    intro s v be acre bed hup hbe hacre hbed hreach
    exact ⟨exec_bar_partial rfl hup rfl hbe, exec_bar_partial (exec_furCtrlWrite_bar hacre v be hbed) hup hreach hbe,
      exec_bar_partial (exec_dramRateRequest_bar hacre v be) hup hreach hbe, exec_bar_partial rfl hup rfl hbe,
      exec_bar_partial rfl hup rfl hbe, exec_bar_partial rfl hup rfl hbe, exec_bar_partial rfl hup rfl hbe,
      exec_bar_partial rfl hup rfl hbe⟩
  case guarded =>
    intro s v acre bed hup hguard hacre hbed hreach
    exact ⟨exec_bar_guarded rfl hup rfl rfl rfl hguard,
      exec_bar_guarded (exec_furCtrlWrite_bar hacre v 15 hbed) hup hreach rfl rfl hguard,
      exec_bar_guarded (exec_dramRateRequest_bar hacre v 15) hup hreach rfl rfl hguard⟩
  case unreachable =>
    intro s v be acre bed hup hacre hbed hreach
    exact ⟨exec_bar_unreachable (exec_furCtrlWrite_bar hacre v be hbed) hup hreach,
      exec_bar_unreachable (exec_dramRateRequest_bar hacre v be) hup hreach⟩
  case drop => exact fun _ _ _ => rfl

end Sys2Proof.Machine

/-! # Reads of BAR2 and values of two halves (15 R625 to R628, R631; 10 R470) -/

namespace Sys2Proof.Machine

section
variable {c : Cfg} {m : Mach} {pl : Place}

/-- A register that is reached returns its latched half, where one is taken, and its value otherwise, and its RC fields clear. -/
theorem Mach.regRead_reached (h : m.placeReach pl = true) :
    m.regRead c pl = ((m.halves c pl).1.getD ((m.placeReg c pl).getD 0), (m.halves c pl).2.rcClear pl) :=
  if_neg (by rw [h]; decide)

theorem Mach.regRead_unreached (h : m.placeReach pl = false) : m.regRead c pl = (0xFFFFFFFF, m) := if_pos h

variable {o : Nat} (hup : m.deviceUp = true) (hlt : o < 0x10000000)
include hup hlt

theorem Mach.bar2Read_place : m.bar2Read c o =
    match placeOf (o / 4 * 4) with
    | .member n r =>
      if m.hitch.role = 1 ∧ (m.member n).st = 1 ∧ r < 0x00400000 then
        (m.onHitch fun h => { h with regPend := h.regPend ++ [o / 4 * 4] }).sendBody 0x30 n (m.pathPort n) 0 (le 4 r)
      else m.readReturns (if m.placeReach (.member n r) then 0 else 0xFFFFFFFF)
    | pl => (m.regRead c pl).2.readReturns (m.regRead c pl).1 :=
  if_neg (by simp only [hup]; simp; omega)

/-- A read of a register that is no member's. -/
theorem Mach.bar2Read_own (hown : ∀ n r, placeOf (o / 4 * 4) ≠ .member n r) :
    m.bar2Read c o = (m.regRead c (placeOf (o / 4 * 4))).2.readReturns (m.regRead c (placeOf (o / 4 * 4))).1 := by
  rw [Mach.bar2Read_place hup hlt]
  generalize placeOf (o / 4 * 4) = pl at hown ⊢
  cases pl with
  | member n r => exact absurd rfl (hown n r)
  | _ => rfl

/-- A read in the window of a member that is up asks it for the register. -/
theorem Mach.bar2Read_member {n r : Nat} (hpl : placeOf (o / 4 * 4) = .member n r) (hrole : m.hitch.role = 1)
    (hmember : (m.member n).st = 1) (hr : r < 0x00400000) : m.bar2Read c o =
      (m.onHitch fun h => { h with regPend := h.regPend ++ [o / 4 * 4] }).sendBody 0x30 n (m.pathPort n) 0 (le 4 r) := by
  rw [Mach.bar2Read_place hup hlt, hpl]
  exact if_pos ⟨hrole, hmember, hr⟩

/-- The window of a member that is not up reads as ones. -/
theorem Mach.bar2Read_memberDown {n r : Nat} (hpl : placeOf (o / 4 * 4) = .member n r) (hreach : m.placeReach (.member n r) = false) :
    m.bar2Read c o = m.readReturns 0xFFFFFFFF := by
  rw [Mach.bar2Read_place hup hlt, hpl]
  have hdown : ¬(m.hitch.role = 1 ∧ (m.member n).st = 1 ∧ r < 0x00400000) := fun h => by simp [Mach.placeReach, h.2.1] at hreach
  simp only [if_neg hdown, hreach, Bool.false_eq_true, if_false]

end

/-! ## LO_REGISTER_READ of a value of two halves (15 R631) -/

theorem loRegisterRead_hub {s : State} {o : Nat} (hup : s.m.deviceUp = true) (hlt : o < 0x10000) (hword : o / 4 * 4 = o) :
    let h := s.m.halves s.cfg (.hub o)
    exec (.loRegisterRead o) s = .next (s.withM ((h.2.rcClear (.hub o)).readReturns (h.1.getD ((s.m.hubReg s.cfg o).getD 0)))) := by
  have hpl : placeOf (o / 4 * 4) = .hub o := by rw [hword]; exact if_pos hlt
  refine State.next_on ?_
  rw [Mach.bar2Read_own hup (by omega) (by simp [hpl]), hpl, Mach.regRead_reached rfl]
  rfl

/-- Settles O16: each register is one of the hub block, and `Mach.halves` says which half it takes or latches. -/
theorem splitValuesReadConsistently : Obligations.SplitValuesReadConsistently := fun _ hup =>
  ⟨loRegisterRead_hub hup (by decide) rfl, loRegisterRead_hub hup (by decide) rfl, loRegisterRead_hub hup (by decide) rfl,
    loRegisterRead_hub hup (by decide) rfl, loRegisterRead_hub hup (by decide) rfl, loRegisterRead_hub hup (by decide) rfl⟩

end Sys2Proof.Machine

/-! # HUB_SCRATCH, HUB_INT_EN and HUB_INT_SET (15 R625, R639, R642) -/

namespace Sys2Proof.Machine

/-- Offsets of the hub block whose registers have a row of their own, but for MGD_BOOT_WPi. -/
def hubOwnRows : List Nat := [0x04, 0x10, 0x18, 0x20, 0x500, 0xB00]

section
variable {s : State} {o : Nat} (v : Word) (hlt : o < 0x10000) (hword : o % 4 = 0) (hrow : o ∉ hubOwnRows)
  (hwp : ¬(0xA00 ≤ o ∧ o < 0xA80)) (hreg : (s.m.hubReg s.cfg o).isSome = true)
include hlt hword hrow hwp hreg

/-- A write of a register of the hub block with no row of its own. -/
theorem State.bar2Write_hub (be : BitVec 4) :
    s.bar2Write o v be = s.barWrite o true (guardedPlace (.hub o)) be (State.placeWrite (.hub o) v) := by
  have hoff : o / 4 * 4 = o := Nat.div_mul_cancel (Nat.dvd_of_mod_eq_zero hword)
  rw [State.bar2Write, hoff, if_neg (by omega), show placeOf o = .hub o from if_pos hlt]
  split
  case h_11 => exact (if_neg hwp).trans (if_pos hreg)
  all_goals simp_all [hubOwnRows]

theorem registerWrite_hub (hup : s.m.deviceUp = true) (hguard : guardedPlace (.hub o) = true → s.cfg.wrGuard = false) :
    exec (.registerWrite .device o v 15) s = .next (State.placeWrite (.hub o) v s) := by
  rw [exec_registerWrite_device_eq, State.bar2Write_hub v hlt hword hrow hwp hreg, State.barWrite_full hup rfl]
  rwa [or_iff_not_imp_left, Bool.not_eq_false]

end

/-! ## HUB_SCRATCH (15 R642) -/

section
variable {i : Nat} (hi : i < 4)
include hi

theorem Mach.hubReg_scratch (m : Mach) (c : Cfg) : m.hubReg c (0x30 + 4 * i) = some (Tbl.get 0 i c.scratch) := by
  interval_cases i <;> rfl

theorem registerWrite_scratch {s : State} (v : Word) (hup : s.m.deviceUp = true) :
    exec (.registerWrite .device (0x30 + 4 * i) v 15) s =
      .next { s with cfg := { s.cfg with scratch := Tbl.put 0 i v s.cfg.scratch } } := by
  interval_cases i <;> exact registerWrite_hub v (by decide) rfl (by decide) (by decide) rfl hup nofun

end

/-- Settles O17: a controller reset and a plot reset are no configuration rows (`onlyConfigurationRowsChangeConfiguration`); a warm reset
hands the table on, and a loss of power takes the reset configuration of an empty one. -/
theorem scratchKeptThroughWarmReset : Obligations.ScratchKeptThroughWarmReset := by
  refine ⟨fun s i v hup hi => registerWrite_scratch hi v hup, fun m c i hi => Mach.hubReg_scratch hi m c, fun _ _ _ => rfl,
    fun s t at_ p port h => ?resets, fun s t h => ?power, rfl⟩
  case resets =>
    obtain hcontroller | hplot | hdone := h
    · exact congrArg Cfg.scratch (onlyConfigurationRowsChangeConfiguration _ s t hcontroller)
    · exact congrArg Cfg.scratch (onlyConfigurationRowsChangeConfiguration _ s t hplot)
    · exact congrArg Cfg.scratch (onlyConfigurationRowsChangeConfiguration _ s t hdone)
  case power =>
    cases (exec_lossOfPower_eq s).symm.trans h
    rfl

/-! ## HUB_INT_EN and HUB_INT_SET (15 R638, R639) -/

/-- The bits of HUB_INT_STS that have events are 20:0. -/
theorem intMask_getLsbD {i : Nat} (hi : i < 32) : intMask.getLsbD i = decide (i ≤ 20) := by
  revert i
  decide

/-- Settles O18: HUB_INT_EN is a register of the hub block with no row of its own, and HUB_INT_SET has its own effect
(`State.barWrite_full`). -/
theorem interruptEnableAndSetFollowTheirRule : Obligations.InterruptEnableAndSetFollowTheirRule := by
  refine ⟨fun s v hup => ?enable, fun _ _ => ⟨rfl, rfl⟩, fun _ => rfl, fun s v hup => ?set⟩
  case enable => exact registerWrite_hub v (by decide) rfl (by decide) (by decide) rfl hup nofun
  case set =>
    refine ⟨_, congrArg Host.Outcome.next (State.barWrite_full hup rfl (.inl rfl)), rfl, fun i hi => ?_⟩
    have hbit : (s.m.hub.intSts ||| (v &&& intMask)).getLsbD i = (s.m.hub.intSts.getLsbD i || (v.getLsbD i && decide (i ≤ 20))) := by
      rw [BitVec.getLsbD_or, BitVec.getLsbD_and, intMask_getLsbD hi]
    exact hbit

end Sys2Proof.Machine

/-! # Registers, Media Guard, placement and isolation (15 R619 to R639; 05 R279 to R281; 09 R415, R420 to R425) -/

namespace Sys2Proof.Machine

/-! ## Reads (15 R620, R623, R625 to R628, R631; 09 R415; 10 R470) -/

section
variable (s : State)

theorem exec_loRegisterRead_eq (o : Nat) : exec (.loRegisterRead o) s = .next (s.withM (s.m.bar2Read s.cfg o)) := rfl
theorem exec_rcRegisterRead_device_eq (o : Nat) : exec (.rcRegisterRead .device o) s = .next (s.withM (s.m.bar2Read s.cfg o)) := rfl

variable {s} {port fn o : Nat}

theorem Mach.awake_of_barTakes {m : Mach} (h : m.barTakes port fn = true) : m.awake = true := by
  simp only [Mach.barTakes, Mach.barUp, Mach.fnUp, Bool.and_eq_true] at h
  exact h.1.1.1.1

section
variable (hlt : o < 0x4000)
include hlt

theorem bar0Read_answers (htakes : s.m.barTakes port fn = true) :
    exec (.rcRegisterRead (.bar0 port fn) o) s = .next (s.withM (s.m.readReturns (s.m.bar0Dword fn (o / 4 * 4)))) :=
  State.next_on ((if_neg (by simp [Mach.awake_of_barTakes htakes]; omega)).trans (if_pos htakes))

theorem bar4Read_answers (htakes : s.m.barTakes port fn = true) :
    exec (.rcRegisterRead (.bar4 port fn) o) s = .next (s.withM (s.m.readReturns (s.m.bar4Dword fn (o / 4 * 4)))) :=
  State.next_on (if_neg (by simp [htakes]; omega))

/-- A parked function answers CAP and zeros (09 R415). -/
theorem bar0Read_parked (hawake : s.m.awake = true) (htakes : s.m.barTakes port fn = false) (hparked : s.m.parkedFn port fn = true) :
    exec (.rcRegisterRead (.bar0 port fn) o) s = .next (s.withM (s.m.readReturns
      (if o / 4 * 4 = 0 then capLow else if o / 4 * 4 = 4 then capHigh else 0))) :=
  State.next_on ((if_neg (by simp [hawake]; omega)).trans
    ((if_neg (Bool.eq_false_iff.mp htakes)).trans (if_pos hparked)))

end

section
variable (hup : s.m.fnUp fn = true) (hport : s.m.plotPort fn = port)
include hup hport

theorem configRead_answers :
    exec (.rcRegisterRead (.config port fn) o) s = .next (s.withM (s.m.readReturns (if o / 4 * 4 = 4 then
      BitVec.ofNat 32 ((if s.m.plots.mseOff.contains fn then 0 else 2) + (if s.m.plots.bmeOff.contains fn then 0 else 4))
      else Config.configDword port fn (o / 4 * 4)))) :=
  State.next_on (if_neg (by simp [hup, hport]))

theorem configWrite_command {v : Word} {be : BitVec 4} (ho : o / 4 = 1) (hbe : be.getLsbD 0 = true) :
    exec (.registerWrite (.config port fn) o v be) s = .next (s.withM (s.m.onPlots fun x =>
      { x with mseOff := listed x.mseOff fn (!v.getLsbD 1), bmeOff := listed x.bmeOff fn (!v.getLsbD 2) })) :=
  State.next_on (if_neg (by simp [hup, hport, ho, hbe]))

end
end

/-! ## Writes that every byte enable lets through -/

section
variable {s : State} {v : Word} (hup : s.m.deviceUp = true)
include hup

theorem hubIntStsClear_clears :
    exec (.hubIntStsClear v 15) s = .next (s.withM (s.m.onHub fun h => { h with intSts := h.intSts &&& ~~~v })) :=
  congrArg Host.Outcome.next (State.barWrite_full hup rfl (.inl rfl))

theorem hubIntSetWrite_sets :
    exec (.hubIntSetWrite v 15) s = .next (s.withM (s.m.onHub fun h => { h with intSts := h.intSts ||| (v &&& intMask) })) :=
  congrArg Host.Outcome.next (State.barWrite_full hup rfl (.inl rfl))

theorem mgdNandWpWrite_protects {swath i : Nat} (hswath : swath < 32) (hi : i < 16) (hreach : s.m.reachable (swath / 8) = true) :
    exec (.mgdNandWpWrite swath i v 15) s = .next (s.withM (s.m.protectBits false ((64 * swath + 4 * i) * 8) 32 v)) :=
  congrArg Host.Outcome.next ((if_neg (by omega)).trans (State.barWrite_full hup hreach (.inl rfl)))

theorem mgdBootWpWrite_protects {i : Nat} (hi : i < 32) :
    exec (.mgdBootWpWrite i v 15) s = .next (s.withM (s.m.protectBits true (32 * i) 32 v)) :=
  congrArg Host.Outcome.next ((if_neg hi.not_ge).trans (State.barWrite_full hup rfl (.inl rfl)))

end

/-! ## MGD_WINDOW_OPEN (05 R279) -/

theorem mgdWindowOpen_opens {s : State} {m : Mach} {sector ops at_ : Nat} {boot : Bool} (hm : s.m.advance at_ = m) (hawake : m.awake = true)
    (hone : 1 ≤ ops) (hmost : ops ≤ 65535) (hsector : sector < (if boot then 128 else m.nDies * 8)) :
    exec (.mgdWindowOpen sector boot ops at_) s = .next (s.withM (m.openWindow boot sector ops)) := by
  subst hm
  refine State.next_on (if_neg ?_)
  cases boot <;> (simp [hawake] at hsector ⊢; omega)

/-! ## PLT_CFG (09 R420) -/

/-- The plot's PORT is set and saved. -/
def Mach.movePlot (p : Nat) (v : Word) (m : Mach) : Mach :=
  (m.updPlot p fun x => { x with port := v.getLsbD 0, portSaved := v.getLsbD 0 }).saveHub 0x11

section
variable {s : State} {v : Word} {p : Nat} (hup : s.m.deviceUp = true) (hp : p < 1024)
include hup hp

theorem pltCfgWrite_takes : exec (.pltCfgWrite p v 15) s = .next (s.withM
    (if p = 0 ∨ s.m.boot.straps.portMode = false ∨ !((s.m.plot p).st == .absent || (s.m.plot p).st == .frozen) then s.m
     else if (s.m.plot p).st = .absent ∧ (s.m.movePlot p v).vfOn p = true then
       (s.m.movePlot p v).updPlot p fun x => { x with st := .ready, after := .ready }
     else s.m.movePlot p v)) :=
  congrArg Host.Outcome.next ((if_neg hp.not_ge).trans (State.barWrite_full hup rfl (.inl rfl)))

theorem pltCfgWrite_ignored (h : p = 0 ∨ s.m.boot.straps.portMode = false ∨ ((s.m.plot p).st ≠ .frozen ∧ (s.m.plot p).st ≠ .absent)) :
    exec (.pltCfgWrite p v 15) s = .next s := by
  rw [pltCfgWrite_takes hup hp, if_pos]
  · rfl
  · simpa [and_comm] using h

theorem isoApply_starts : exec (.isoApply p v 15) s = .next
    (if v.getLsbD 0 then s.withM (s.m.updPlot p fun x => { x with isoBusy := true }) else s) := by
  refine (congrArg Host.Outcome.next ((if_neg hp.not_ge).trans (State.barWrite_full hup rfl (.inl rfl)))).trans ?_
  simp only [State.on_eq_withM]
  split <;> rfl

variable (h0 : p ≠ 0) (hmode : s.m.boot.straps.portMode = true)
include h0 hmode

theorem pltCfgWrite_frozen (hst : (s.m.plot p).st = .frozen) : exec (.pltCfgWrite p v 15) s = .next (s.withM (s.m.movePlot p v)) := by
  rw [pltCfgWrite_takes hup hp, if_neg (by simp [h0, hmode, hst]), if_neg (by simp [hst])]

theorem pltCfgWrite_absent (hst : (s.m.plot p).st = .absent) : exec (.pltCfgWrite p v 15) s = .next (s.withM
    (if (s.m.movePlot p v).vfOn p then (s.m.movePlot p v).updPlot p fun x => { x with st := .ready, after := .ready }
     else s.m.movePlot p v)) := by
  rw [pltCfgWrite_takes hup hp, if_neg (by simp [h0, hmode, hst])]
  simp only [hst, true_and]

end

/-! ## ISO_APPLY_DONE (09 R423, R425) -/

section
variable (m : Mach) (p : Nat)

/-- Beds that the mask of a plot adds to its group or takes from it. -/
def Mach.isoChanges : List Nat := (List.range 128).filter fun b => (m.plot p).isoMask.getLsbD b != ((m.bed b).owner == p + 1)

/-- The first change that may not be made, with its RESULT. -/
def Mach.isoRefusal : Option (Nat × Nat) :=
  (m.isoChanges p).findSome? fun b =>
    if m.isoCheck p b ((m.plot p).isoMask.getLsbD b) = 0 then none else some (b, m.isoCheck p b ((m.plot p).isoMask.getLsbD b))

/-- The group of a bed once the mask of a plot is applied. -/
def Mach.isoOwnerOf (b : Nat) : Nat := if (m.plot p).isoMask.getLsbD b then p + 1 else 0

/-- Every change is made, and the acres of the beds are saved. -/
def Mach.isoMake (p : Nat) (m : Mach) : Mach :=
  let n := ((m.isoChanges p).foldl (fun n b => n.updBed b fun y => { y with owner := m.isoOwnerOf p b }) m).onBoot fun y =>
    { y with isoOwner := (m.isoChanges p).foldl (fun t b => Tbl.put 0 b (m.isoOwnerOf p b) t) y.isoOwner }
  ((dedup ((m.isoChanges p).map bedAcre)).foldl (fun m a => m.saveRec (recKey 4 a)) n).updPlot p fun x =>
    { x with isoBusy := false, isoResult := 0 }

/-- The end of an apply that runs: every change is made, or none. -/
def Mach.isoEnd (p : Nat) (m : Mach) : Mach :=
  match m.isoRefusal p with
  | some (b, r) => (m.updPlot p fun x => { x with isoBusy := false, isoResult := r, isoBed := b }).record 0x0905 r 0
  | none => m.isoMake p

variable {s : State} {p} (hbusy : (s.m.plot p).isoBusy = true)
include hbusy

theorem exec_isoApplyDone_busy : exec (.isoApplyDone p) s = .next (s.withM (s.m.isoEnd p)) :=
  State.next_on (if_neg (Bool.not_eq_false _ ▸ hbusy))

theorem isoApplyDone_refuses {b r : Nat} (h : s.m.isoRefusal p = some (b, r)) :
    exec (.isoApplyDone p) s = .next (s.withM
      ((s.m.updPlot p fun x => { x with isoBusy := false, isoResult := r, isoBed := b }).record 0x0905 r 0)) := by
  rw [exec_isoApplyDone_busy hbusy, Mach.isoEnd, h]

theorem isoApplyDone_makes (h : s.m.isoRefusal p = none) : exec (.isoApplyDone p) s = .next (s.withM (s.m.isoMake p)) := by
  rw [exec_isoApplyDone_busy hbusy, Mach.isoEnd, h]

end

/-! ## PLT_ISO_MASK0 of plot 1 (09 R424) -/

theorem registerWrite_isoMask {s : State} {v : Word} (hup : s.m.deviceUp = true) :
    exec (.registerWrite .device 0x08001010 v 15) s = .next (s.withM (s.m.updPlot 1 fun x =>
      { x with isoMask := (x.isoMask &&& ~~~(0xFFFFFFFF#128)) ||| v.setWidth 128 })) := by
  have hwrite : s.bar2Write 0x08001010 v 15 = s.isoMaskWrite 1 0 v 15 := rfl
  rw [exec_registerWrite_device_eq, hwrite, State.isoMaskWrite, State.barWrite_full hup rfl (.inl rfl)]
  simp [State.on_eq_withM]

/-- Settles O15: one lemma for each way in which these commands act. -/
theorem registerCommandsComplete : Obligations.RegisterCommandsComplete := by
  refine ⟨?reads, ?bars, ?config, fun _ _ _ _ _ _ _ => ⟨rfl, rfl⟩, fun _ _ _ => ⟨rfl, rfl, rfl, rfl, rfl, rfl⟩, ?hub, ?ints, ?nandWp,
    ?bootWp, ?windowOpen, fun _ _ => rfl, ?placement, ?isolation, fun _ _ hup _ => registerWrite_isoMask hup⟩
  case reads =>
    intro s o hup hlt pl h done ones
    refine ⟨fun hown => ?own, fun n r hpl => ?member⟩
    case own =>
      have hread := Mach.bar2Read_own (c := s.cfg) hup hlt hown
      refine ⟨fun hreach => ?_, fun hreach => ?_⟩
      · rw [exec_loRegisterRead_eq, exec_rcRegisterRead_device_eq, hread, Mach.regRead_reached hreach]
        exact ⟨rfl, rfl⟩
      · rw [exec_loRegisterRead_eq, exec_rcRegisterRead_device_eq, hread, Mach.regRead_unreached hreach]
        exact ⟨rfl, rfl⟩
    case member =>
      refine ⟨fun hrole hmember hr => ?_, fun hreach => ?_⟩
      · rw [exec_rcRegisterRead_device_eq, Mach.bar2Read_member hup hlt hpl hrole hmember hr]
      · rw [exec_rcRegisterRead_device_eq, Mach.bar2Read_memberDown hup hlt hpl (hpl ▸ hreach)]
  case bars =>
    exact fun s port fn o hlt =>
      ⟨fun htakes => ⟨bar0Read_answers hlt htakes, bar4Read_answers hlt htakes⟩, bar0Read_parked hlt⟩
  case config => exact fun s port fn o v be hup hport => ⟨configRead_answers hup hport, configWrite_command hup hport⟩
  case hub => exact fun s o v hup hlt hword hrow hwp hreg hguard => registerWrite_hub v hlt hword hrow hwp hreg hup hguard
  case ints => exact fun s v hup => ⟨hubIntStsClear_clears hup, hubIntSetWrite_sets hup⟩
  case nandWp => exact fun _ _ _ _ hup hswath => mgdNandWpWrite_protects hup hswath
  case bootWp => exact fun _ _ _ hup hi => mgdBootWpWrite_protects hup hi
  case windowOpen =>
    intro s sector ops at_ boot m w n hawake hone hmost hsector
    rw [mgdWindowOpen_opens rfl hawake hone hmost hsector]
    cases boot <;> rfl
  case placement =>
    exact fun s p v hup hp => ⟨pltCfgWrite_frozen hup hp, pltCfgWrite_absent hup hp, pltCfgWrite_ignored hup hp, isoApply_starts hup hp⟩
  case isolation =>
    intro s p x held changes check hbusy
    exact ⟨fun b r => isoApplyDone_refuses hbusy, isoApplyDone_makes hbusy⟩

end Sys2Proof.Machine

/-! # What the configuration registers read after a reset (15 R634, R638, R639, R641, R642; 04 R183; 02 R89 to R92, R112; 05 R264, R281; 07 R345, R357, R383) -/

namespace Sys2Proof.Machine

/-! ## The hub block -/

/-- Configuration registers of the hub block, with the values that their tables give them at reset. -/
def hubResetValues : List (Nat × Word) :=
  [(0x04, 0), (0x10, 0), (0x14, 0), (0x20, 0), (0x364, 0x4004), (0x500, 0x00080A01), (0x504, 0), (0x510, 0), (0x514, 0), (0x518, 0),
    (0xB00, 0x10)]

section
variable {m : Mach} (scratch : Tbl Word)

theorem Mach.hubReg_atReset (hgrid : m.grid = Grid.reset) (hints : m.hub.intSts = 0) :
    ∀ e ∈ hubResetValues, m.hubReg (Cfg.reset scratch) e.1 = some e.2 := by
  have reads {n : Mach} {o : Nat} {v : Word} (l : List (Nat × Nat)) (hl : n.hubReg (Cfg.reset scratch) o = some (fields l))
      (hv : fields l = v) : n.hubReg (Cfg.reset scratch) o = some v := hl.trans (congrArg some hv)
  have ofGrid {o : Nat} {v : Word} (h : ({ m with grid := Grid.reset } : Mach).hubReg (Cfg.reset scratch) o = some v) :
      m.hubReg (Cfg.reset scratch) o = some v :=
    (congrArg (fun g => ({ m with grid := g } : Mach).hubReg (Cfg.reset scratch) o) hgrid).trans h
  simp only [hubResetValues, List.forall_mem_cons]
  exact ⟨reads [(0, 31), (0, 0)] rfl (by decide), congrArg some hints, rfl, rfl, reads [(0x40, 8), (4, 0)] rfl (by decide),
    reads [(8, 16), (10, 8), (0, 1), (1, 0)] rfl (by decide), ofGrid (reads [(0, 16), (0, 8), (0, 7), (0, 0)] rfl (by decide)),
    ofGrid rfl, ofGrid (.trans (b := some (BitVec.ofNat 32 (0 / 2 ^ 32))) rfl (by decide)), ofGrid rfl, reads [(0, 31), (0x10, 0)] rfl (by decide), nofun⟩

/-- Every MGD_BOOT_WP register reads all ones while no boot sector's protection has been written. -/
theorem Mach.hubReg_bootWp_atReset (hwp : m.med.bootWp = []) (c : Cfg) {i : Nat} (hi : i < 32) :
    m.hubReg c (0xA00 + 4 * i) = some 0xFFFFFFFF := by
  have hread : m.hubReg c (0xA00 + 4 * i) = some (Tbl.get 0xFFFFFFFF i m.med.bootWp) := by interval_cases i <;> rfl
  rw [hread, hwp]
  rfl

/-! ## Acre and swath blocks -/

section
variable {a : Nat}

theorem Mach.acreReg_arb_atReset : m.acreReg (Cfg.reset scratch) a 0xC04 = some 0x000A0004 := by
  have hread : m.acreReg (Cfg.reset scratch) a 0xC04 = some (fields [(0x0A, 16), (4, 0)]) := by simp [Mach.acreReg, Cfg.reset]
  rw [hread]
  decide

theorem Mach.acreReg_rate_atReset (hports : m.ports = []) : m.acreReg (Cfg.reset scratch) a 0xC08 = some 0x370 := by
  have hread : m.acreReg (Cfg.reset scratch) a 0xC08 = some (fields [(0, 31), (0x370, 0)]) := by
    simp [Mach.acreReg, Mach.port, hports, Cfg.reset, Port.init, b2n]
  rw [hread]
  decide

/-- P of FUR_CTRL stands in bits 4:0, below every other field. -/
theorem fields_furCtrl_low (held wd bound p : Nat) :
    (fields [(held, 24), (wd, 16), (bound, 5), (p, 0)]).extractLsb' 0 5 = BitVec.ofNat 5 p := by
  have hsum : sumBy (fun (e : Nat × Nat) => e.1 * 2 ^ e.2) [(held, 24), (wd, 16), (bound, 5), (p, 0)] =
      32 * (held * 2 ^ 19 + wd * 2 ^ 11 + bound) + p := by
    simp only [sumBy, List.foldl]
    ring
  apply BitVec.eq_of_toNat_eq
  rw [fields, hsum, BitVec.extractLsb'_toNat, BitVec.toNat_ofNat, BitVec.toNat_ofNat, Nat.shiftRight_zero,
    Nat.mod_mod_of_dvd _ (by decide), Nat.mul_add_mod]

theorem Mach.acreReg_furCtrl_atReset {b : Nat} (hb : b < 32) :
    ∃ w, m.acreReg (Cfg.reset scratch) a (0x800 + 4 * b) = some w ∧ w.extractLsb' 0 5 = 1 := by
  rw [Mach.acreReg, if_neg (by omega), if_pos (by omega)]
  exact ⟨_, rfl, fields_furCtrl_low ..⟩

end

theorem Mach.swathReg_ers_atReset (sw : Nat) : m.swathReg (Cfg.reset scratch) sw 0x410 = some 0x00400258 := by
  have hread : m.swathReg (Cfg.reset scratch) sw 0x410 = some (fields [(0x40, 16), (0x258, 0)]) := by
    simp [Mach.swathReg, Cfg.reset, low]
  rw [hread]
  decide

end

/-- Settles O48: State.reset and a warm reset of any state give the grid, HUB_INT_STS, the boot flash's protection and the ports their
reset values, and the configuration that of a reset. -/
theorem resetGivesConfiguredValues : Obligations.ResetGivesConfiguredValues := by
  unfold Obligations.ResetGivesConfiguredValues
  intro hub good
  have reads {s : State} {scratch : Tbl Word} (hcfg : s.cfg = Cfg.reset scratch) (hgrid : s.m.grid = Grid.reset)
      (hints : s.m.hub.intSts = 0) (hwp : s.m.med.bootWp = []) (hports : s.m.ports = []) : good s := by
    refine ⟨?_, fun i hi => Mach.hubReg_bootWp_atReset hwp s.cfg hi, fun a _ => ?_, fun sw _ => ?_⟩
    · rw [hcfg]
      exact Mach.hubReg_atReset scratch hgrid hints
    · rw [hcfg]
      exact ⟨Mach.acreReg_arb_atReset scratch, Mach.acreReg_rate_atReset scratch hports, fun b => Mach.acreReg_furCtrl_atReset scratch⟩
    · rw [hcfg]
      exact Mach.swathReg_ers_atReset scratch sw
  refine ⟨reads rfl rfl rfl rfl rfl, fun i hi => Mach.hubReg_scratch hi _ _, fun s nssro restart => ?warm⟩
  case warm => exact ⟨reads rfl rfl rfl rfl rfl, fun i hi => Mach.hubReg_scratch hi _ _⟩

end Sys2Proof.Machine

/-! # The reads of the service port (13 R580 to R583, R594; 14 R615; 09 R441, R442; 12 R561) -/

namespace Sys2Proof.Machine

/-! ## A request (13 R580) -/

/-- The last response is sent again. -/
def Mach.polezAgain (m : Mach) : Mach := m.onPolez fun x => { x with answered := x.answered + 1 }

section
variable {m : Mach} {q op : Nat} {image ok : Bool} {f : Mach → Mach}

section
variable (hdown : m.polezUp = false)
include hdown

theorem Mach.polezReq_down : m.polezReq q op image f = m := if_pos (by rw [hdown]; rfl)
theorem Mach.polezSized_down : m.polezSized q op image ok f = m := Mach.polezReq_down hdown

end

variable (hup : m.polezUp = true)
include hup

section
variable (hlast : m.polez.last = some q)
include hlast

theorem Mach.polezReq_again : m.polezReq q op image f = m.polezAgain := (if_neg (by simp [hup])).trans (if_pos hlast)
theorem Mach.polezSized_again : m.polezSized q op image ok f = m.polezAgain := Mach.polezReq_again hup hlast

end

variable (hnew : m.polez.last ≠ some q)
include hnew

section
variable (hearly : (m.inService || (m.boot.recovery && image)) = false)
include hearly

theorem Mach.polezReq_early : m.polezReq q op image f = m.respond q op 4 [] :=
  (if_neg (by simp [hup])).trans ((if_neg hnew).trans (if_neg (Bool.eq_false_iff.mp hearly)))
theorem Mach.polezSized_early : m.polezSized q op image ok f = m.respond q op 4 [] := Mach.polezReq_early hup hnew hearly

end

variable (hready : (m.inService || (m.boot.recovery && image)) = true)
include hready

theorem Mach.polezReq_runs : m.polezReq q op image f = f m := (if_neg (by simp [hup])).trans ((if_neg hnew).trans (if_pos hready))

theorem Mach.polezSized_field (hok : ok = false) : m.polezSized q op image ok f = m.respond q op 2 [] :=
  (Mach.polezReq_runs hup hnew hready).trans (if_neg (Bool.eq_false_iff.mp hok))

theorem Mach.polezSized_runs (hok : ok = true) : m.polezSized q op image ok f = f m :=
  (Mach.polezReq_runs hup hnew hready).trans (if_pos hok)

end

/-! ## POLEZ_OPCODE_NOT_SUPPORTED (13 R580; 12 R561) -/

section
variable {s : State} {q op : Nat} (hop : polezOpcodes.contains op = false)
include hop

/-- An opcode that the port does not know is a request whose answer is OPCODE (13 R580). -/
theorem polezOpcodeNotSupported_asks {x : Mach} (hx : s.m.polezReq q op false (fun m => m.respond q op 1 []) = x) :
    exec (.polezOpcodeNotSupported q op) s = .next (s.withM x) :=
  State.next_on ((if_neg (Bool.eq_false_iff.mp hop)).trans hx)

theorem polezOpcodeNotSupported_answers (hup : s.m.polezUp = true) (hnew : s.m.polez.last ≠ some q) :
    exec (.polezOpcodeNotSupported q op) s = .next (s.withM (s.m.respond q op (if s.m.inService then 1 else 4) [])) := by
  refine polezOpcodeNotSupported_asks hop ?_
  cases hserves : s.m.inService with
  | true => exact Mach.polezReq_runs hup hnew (by rw [hserves]; rfl)
  | false => exact Mach.polezReq_early hup hnew (by rw [hserves, Bool.and_false]; rfl)

end

/-- Settles O37: each read is a request of its opcode (`Mach.polezReq`, `Mach.polezSized`), whose answer is the branch that its fields take. -/
theorem polezReadsComplete : Obligations.PolezReadsComplete := by
  refine ⟨?down, ?always, ?framing, ?early, ?inService, ?again⟩
  case down =>
    intro s q n op bs hdown
    have hreq {op : Nat} {f : Mach → Mach} : s.m.polezReq q op false f = s.m := Mach.polezReq_down hdown
    have hsized {op : Nat} {ok : Bool} {f : Mach → Mach} : s.m.polezSized q op false ok f = s.m := Mach.polezSized_down hdown
    refine ⟨State.next_on (if_pos (by simp [hdown])), State.next_on hreq, State.next_on hsized, State.next_on hsized, State.next_on hsized,
      ?_, State.next_on (if_pos (by simp [hdown]))⟩
    cases hop : polezOpcodes.contains op with
    | true => exact State.next_on (if_pos hop)
    | false => exact polezOpcodeNotSupported_asks hop hreq
  case always =>
    intro s q hup hnew
    exact ⟨State.next_on ((if_neg (by simp [hup])).trans (if_neg hnew)), fun op hop => polezOpcodeNotSupported_answers hop hup hnew,
      fun op hop => State.next_on (if_pos hop)⟩
  case framing => exact fun s n hup => State.next_on (if_neg (by simp [hup]))
  case early =>
    intro s q bs hup hserves hnew
    have hearly : (s.m.inService || (s.m.boot.recovery && false)) = false := by rw [hserves, Bool.and_false]; rfl
    have hsized {op : Nat} {ok : Bool} {f : Mach → Mach} : s.m.polezSized q op false ok f = s.m.respond q op 4 [] :=
      Mach.polezSized_early hup hnew hearly
    exact ⟨State.next_on (Mach.polezReq_early hup hnew hearly), State.next_on hsized, State.next_on hsized, State.next_on hsized⟩
  case inService =>
    intro s q bs hup hserves hnew
    have hready : (s.m.inService || (s.m.boot.recovery && false)) = true := by rw [hserves]; rfl
    have wrong {op n : Nat} {f : Mach → Mach} (h : bs.length ≠ n) : s.m.polezSized q op false (bs.length == n) f = s.m.respond q op 2 [] :=
      Mach.polezSized_field hup hnew hready (beq_false_of_ne h)
    have answers {op n : Nat} {f : Mach → Mach} {x : Mach} (h : bs.length = n) (hx : f s.m = x) :
        s.m.polezSized q op false (bs.length == n) f = x := (Mach.polezSized_runs hup hnew hready (beq_iff_eq.mpr h)).trans hx
    refine ⟨State.next_on (Mach.polezReq_runs hup hnew hready), fun h => ⟨State.next_on (wrong h), State.next_on (wrong h)⟩,
      fun h => ?book, fun h => ?tally, fun h => State.next_on (wrong h), fun h => ?plots⟩
    case book =>
      exact ⟨fun hok => State.next_on (answers h (if_neg (by simp [hok]))), fun hok => State.next_on (answers h (if_pos (by simp [hok])))⟩
    case tally =>
      exact ⟨fun hout => State.next_on (answers h (if_pos hout)), fun h1 h63 => State.next_on (answers h (if_neg (by omega)))⟩
    case plots =>
      exact ⟨fun h1 h255 hlast => State.next_on (answers h (if_neg (by omega))), fun hout => State.next_on (answers h (if_pos hout))⟩
  case again =>
    intro s q op bs hup hlast t
    have hreq {op : Nat} {f : Mach → Mach} : s.m.polezReq q op false f = s.m.polezAgain := Mach.polezReq_again hup hlast
    have hsized {op : Nat} {ok : Bool} {f : Mach → Mach} : s.m.polezSized q op false ok f = s.m.polezAgain :=
      Mach.polezSized_again hup hlast
    exact ⟨State.next_on ((if_neg (by simp [hup])).trans (if_pos hlast)), State.next_on hreq, State.next_on hsized,
      State.next_on hsized, State.next_on hsized, fun hop => polezOpcodeNotSupported_asks hop hreq⟩

end Sys2Proof.Machine

/-! # Image opcodes of the service port (13 R566, R575, R577, R584 to R586, R592) -/

namespace Sys2Proof.Machine

section
variable {m : Mach}

theorem Mach.polezImageReady_iff : (m.inService || (m.boot.recovery && true)) = true ↔ m.inService = true ∨ m.boot.recovery = true := by
  rw [Bool.and_true, Bool.or_eq_true]

/-! ## POLEZ_IMAGE_BLOCK (13 R584) -/

/-- What the port answers to a block of body bytes, and what the block leaves staged. -/
def Mach.placeBlock (answer : Nat → Mach → Mach) (bs : List Byte) (m : Mach) : Mach :=
  if m.stagingBusy 1 then answer 3 m
  else match m.img.hdr with
    | none => answer 6 m
    | some h =>
      if leAt bs 0 4 + (bs.length - 4) ≤ m.img.body then answer 0 m
      else if leAt bs 0 4 ≠ m.img.body then answer 6 m
      else if h.bodyLen < leAt bs 0 4 + (bs.length - 4) then answer 2 m
      else answer (if (m.stageBody (bs.drop 4)).1 then 0 else 7) (m.stageBody (bs.drop 4)).2

section
variable {answer : Nat → Mach → Mach} {bs : List Byte}

theorem Mach.placeBlock_busy (h : m.stagingBusy 1 = true) : m.placeBlock answer bs = answer 3 m := if_pos h

variable (hfree : m.stagingBusy 1 = false)
include hfree

theorem Mach.placeBlock_noHeader (hhdr : m.img.hdr = none) : m.placeBlock answer bs = answer 6 m := by
  rw [Mach.placeBlock, if_neg (Bool.eq_false_iff.mp hfree), hhdr]

variable {h : ImageHdr} (hhdr : m.img.hdr = some h)
include hhdr

theorem Mach.placeBlock_header : m.placeBlock answer bs =
    if leAt bs 0 4 + (bs.length - 4) ≤ m.img.body then answer 0 m
    else if leAt bs 0 4 ≠ m.img.body then answer 6 m
    else if h.bodyLen < leAt bs 0 4 + (bs.length - 4) then answer 2 m
    else answer (if (m.stageBody (bs.drop 4)).1 then 0 else 7) (m.stageBody (bs.drop 4)).2 := by
  rw [Mach.placeBlock, if_neg (Bool.eq_false_iff.mp hfree), hhdr]

end

/-! ## Commits (13 R584, R585) -/

/-- An Image Commit that names a slot, while no other route owns staging and no commit runs: `f` answers the status, and the machine once
the action has started. -/
def Mach.commitNamed (q : Nat) (bs : List Byte) (f : Nat → Mach → Nat × Mach) (m : Mach) : Mach :=
  if m.stagingBusy 1 then m.respond q 0x12 3 []
  else match m.polezSlot (leAt bs 1 1) with
    | none => m.respond q 0x12 2 []
    | some k => (f k m).2.respond q 0x12 (f k m).1 []

section
variable {q : Nat} {bs : List Byte} {f : Nat → Mach → Nat × Mach}

theorem Mach.commitNamed_busy (h : m.stagingBusy 1 = true) : m.commitNamed q bs f = m.respond q 0x12 3 [] := if_pos h

section
variable (hfree : m.stagingBusy 1 = false)
include hfree

theorem Mach.commitNamed_noSlot (h : m.polezSlot (leAt bs 1 1) = none) : m.commitNamed q bs f = m.respond q 0x12 2 [] := by
  rw [Mach.commitNamed, if_neg (Bool.eq_false_iff.mp hfree), h]

theorem Mach.commitNamed_slot {k st : Nat} {n : Mach} (h : m.polezSlot (leAt bs 1 1) = some k) (hf : f k m = (st, n)) :
    m.commitNamed q bs f = n.respond q 0x12 st [] := by
  rw [Mach.commitNamed, if_neg (Bool.eq_false_iff.mp hfree), h]
  simp only [hf]

end

/-- An Image Commit is answered by the row of its action, one of an action above 4 by that of action 0, and one of another length by every row. -/
theorem Mach.polezCommit_asks {action : Nat} (h : bs.length ≠ 4 ∨ leAt bs 0 1 = action ∨ (action = 0 ∧ 4 < leAt bs 0 1)) :
    m.polezCommit q action bs f = m.polezSized q 0x12 true (bs.length == 4 && leAt bs 0 1 == action) (Mach.commitNamed q bs f) :=
  if_neg (by omega)

end

/-! ## The write of the staged image -/

section
variable {k use : Nat}

theorem Mach.polezWrite_noImage (h : m.img.hdr = none ∨ m.img.stage ≠ 2) : m.polezWrite k use = m.polezRefused := by
  cases hhdr : m.img.hdr with
  | none => rw [Mach.polezWrite, hhdr]
  | some g =>
    rw [Mach.polezWrite, hhdr]
    exact if_pos (.inl (h.resolve_left (by simp [hhdr])))

variable {h : ImageHdr} (hhdr : m.img.hdr = some h)
include hhdr

theorem Mach.polezWrite_older (huse : use = 1) (hold : m.notBelow k h.version = false) : m.polezWrite k use = m.polezRefused := by
  rw [Mach.polezWrite, hhdr]
  exact if_pos (.inr ⟨huse, hold⟩)

theorem Mach.polezWrite_starts (hstage : m.img.stage = 2) (hnew : use = 1 → m.notBelow k h.version = true) :
    m.polezWrite k use = (0, m.startSlotWrite k 0 (if m.boot.recovery then 2 else use)) := by
  rw [Mach.polezWrite, hhdr]
  exact if_neg (by simp [hstage]; exact hnew)

end
end

/-- The five rows of Image Commit that a request of this payload reaches all leave the machine `x`. -/
def CommitsGive (s : State) (q : Nat) (bs : List Byte) (x : Mach) : Prop :=
  (bs.length ≠ 4 ∨ leAt bs 0 1 = 0 ∨ 4 < leAt bs 0 1 → exec (.polezCommitWrite q bs) s = .next (s.withM x)) ∧
  (bs.length ≠ 4 ∨ leAt bs 0 1 = 1 → exec (.polezCommitWriteUse q bs) s = .next (s.withM x)) ∧
  (bs.length ≠ 4 ∨ leAt bs 0 1 = 2 → exec (.polezCommitUseSlot q bs) s = .next (s.withM x)) ∧
  (bs.length ≠ 4 ∨ leAt bs 0 1 = 3 → exec (.polezCommitActivate q bs) s = .next (s.withM x)) ∧
  (bs.length ≠ 4 ∨ leAt bs 0 1 = 4 → exec (.polezCommitEmpty q bs) s = .next (s.withM x))

section
variable {s : State} {q : Nat} {bs : List Byte} {x : Mach}

/-- An Image Commit whose answer does not depend on its action, as `ok` can be true for a payload of 4 bytes alone. -/
theorem commitsGive_of_sized (hx : ∀ ok f, (ok = true → bs.length = 4) → s.m.polezSized q 0x12 true ok f = x) : CommitsGive s q bs x := by
  have named {action : Nat} {f : Nat → Mach → Nat × Mach}
      (h : bs.length ≠ 4 ∨ leAt bs 0 1 = action ∨ (action = 0 ∧ 4 < leAt bs 0 1)) : s.m.polezCommit q action bs f = x :=
    (Mach.polezCommit_asks h).trans (hx _ _ (by simp +contextual))
  exact ⟨fun h => State.next_on (named (by omega)), fun h => State.next_on (named (by omega)), fun h => State.next_on (named (by omega)),
    fun h => State.next_on (named (by omega)), fun h => State.next_on ((if_neg (by omega)).trans (hx _ _ (by simp)))⟩

section
variable (hup : s.m.polezUp = true) (hnew : s.m.polez.last ≠ some q) (hready : s.m.inService = true ∨ s.m.boot.recovery = true)
include hup hnew hready

theorem commitsGive_wrongLength (hlen : bs.length ≠ 4) : CommitsGive s q bs (s.m.respond q 0x12 2 []) :=
  commitsGive_of_sized fun _ _ hok =>
    Mach.polezSized_field hup hnew (Mach.polezImageReady_iff.mpr hready) (Bool.eq_false_iff.mpr fun h => hlen (hok h))

/-- An action above 4 is out of range (13 R584). -/
theorem polezCommitWrite_outOfRange (ha : 4 < leAt bs 0 1) :
    exec (.polezCommitWrite q bs) s = .next (s.withM (s.m.respond q 0x12 2 [])) :=
  State.next_on ((Mach.polezCommit_asks (.inr (.inr ⟨rfl, ha⟩))).trans
    (Mach.polezSized_field hup hnew (Mach.polezImageReady_iff.mpr hready) (by simp; omega)))

variable (hlen : bs.length = 4)
include hlen

/-- The row of an action has its effect. -/
theorem polezCommit_runs {i : Instr} {action : Nat} {f : Nat → Mach → Nat × Mach}
    (hrow : exec i s = .next (s.withM (s.m.polezCommit q action bs f))) (ha : leAt bs 0 1 = action)
    (hx : s.m.commitNamed q bs f = x) : exec i s = .next (s.withM x) := by
  rw [hrow, Mach.polezCommit_asks (.inr (.inl ha)),
    Mach.polezSized_runs hup hnew (Mach.polezImageReady_iff.mpr hready) (by simp [hlen, ha]), hx]

theorem polezCommitEmpty_runs (ha : leAt bs 0 1 = 4)
    (hx : (if s.m.stagingBusy 1 then s.m.respond q 0x12 3 [] else ((s.m.onImg Img.emptied).commitEnds 0 1).respond q 0x12 0 []) = x) :
    exec (.polezCommitEmpty q bs) s = .next (s.withM x) :=
  State.next_on ((if_neg (by omega)).trans
    ((Mach.polezSized_runs hup hnew (Mach.polezImageReady_iff.mpr hready) (beq_iff_eq.mpr hlen)).trans hx))

/-- An action in range whose answer does not depend on it. -/
theorem commitsGive_named (ha : leAt bs 0 1 ≤ 4) (hx : ∀ f, s.m.commitNamed q bs f = x)
    (hempty : leAt bs 0 1 = 4 → exec (.polezCommitEmpty q bs) s = .next (s.withM x)) : CommitsGive s q bs x :=
  ⟨fun h => polezCommit_runs hup hnew hready hlen rfl (by omega) (hx _), fun h => polezCommit_runs hup hnew hready hlen rfl (by omega) (hx _),
    fun h => polezCommit_runs hup hnew hready hlen rfl (by omega) (hx _), fun h => polezCommit_runs hup hnew hready hlen rfl (by omega) (hx _),
    fun h => hempty (by omega)⟩

end
end

/-- Settles O38: a header and a block are requests of their opcodes, and every commit is one whose rows answer by the action; what the actions
do to a slot is `Mach.commitNamed`. -/
theorem polezImageCommandsComplete : Obligations.PolezImageCommandsComplete := by
  refine ⟨?staging, ?commits⟩
  case staging =>
    intro s q bs at_ m ready both
    have sized {x : Nat → Mach} (hx : ∀ op ok f, m.polezSized q op true ok f = x op) : both x :=
      ⟨State.next_on (hx ..), State.next_on (hx ..)⟩
    refine ⟨fun hdown => sized fun _ _ _ => Mach.polezSized_down hdown, fun hup hlast => sized fun _ _ _ => Mach.polezSized_again hup hlast,
      fun hup hnew hnot => sized fun _ _ _ => Mach.polezSized_early hup hnew ?early, fun hup hnew hready => ?ready⟩
    case early => exact Bool.eq_false_iff.mpr fun h => hnot (Mach.polezImageReady_iff.mp h)
    case ready =>
      have hready := Mach.polezImageReady_iff.mpr hready
      have field {op : Nat} {ok : Bool} {f : Mach → Mach} (hok : ok = false) : m.polezSized q op true ok f = m.respond q op 2 [] :=
        Mach.polezSized_field hup hnew hready hok
      have runs {op : Nat} {ok : Bool} {f : Mach → Mach} {x : Mach} (hok : ok = true) (hx : f m = x) : m.polezSized q op true ok f = x :=
        (Mach.polezSized_runs hup hnew hready hok).trans hx
      refine ⟨fun h => State.next_on (field (beq_false_of_ne h)),
        fun h hbusy => State.next_on (runs (beq_iff_eq.mpr h) (if_pos hbusy)), fun h hfree => ?header,
        fun h => State.next_on (field (by simp; omega)), fun h5 h4096 => ?block⟩
      case header =>
        intro n k
        have hidle := Bool.eq_false_iff.mp hfree
        exact ⟨fun hk => State.next_on (runs (beq_iff_eq.mpr h) ((if_neg hidle).trans (if_neg (not_not.mpr hk)))),
          fun hk => State.next_on (runs (beq_iff_eq.mpr h) ((if_neg hidle).trans (if_pos hk)))⟩
      case block =>
        intro answer off len
        have stores {x : Mach} (hx : m.placeBlock (fun st m => m.respond q 0x11 st (le 4 m.img.body)) bs = x) :
            exec (.polezImageBlock q bs at_) s = .next (s.withM x) :=
          State.next_on (runs (by simp [h5, h4096]) hx)
        refine ⟨fun hbusy => stores (Mach.placeBlock_busy hbusy), fun hfree hhdr => stores (Mach.placeBlock_noHeader hfree hhdr),
          fun h hfree hhdr => ?_⟩
        have placed := Mach.placeBlock_header (answer := fun st m => m.respond q 0x11 st (le 4 m.img.body)) (bs := bs) hfree hhdr
        exact ⟨fun hin => stores (placed.trans (if_pos hin)),
          fun hout hne => stores (placed.trans ((if_neg hout.not_ge).trans (if_pos hne))),
          fun heq hlong => stores (placed.trans ((if_neg (by omega)).trans ((if_neg (not_not.mpr heq)).trans (if_pos hlong)))),
          fun heq hfits => stores (placed.trans ((if_neg (by omega)).trans ((if_neg (not_not.mpr heq)).trans (if_neg hfits.not_gt))))⟩
  case commits =>
    intro s q bs m ready a field all
    refine ⟨fun hdown => commitsGive_of_sized fun _ _ _ => Mach.polezSized_down hdown,
      fun hup hlast => commitsGive_of_sized fun _ _ _ => Mach.polezSized_again hup hlast,
      fun hup hnew hnot => commitsGive_of_sized fun _ _ _ => Mach.polezSized_early hup hnew ?early,
      commitsGive_wrongLength, fun hup hnew hready _ => polezCommitWrite_outOfRange hup hnew hready, fun hup hnew hready hlen ha hbusy => ?busy, fun hup hnew hready hlen hfree => ?free⟩
    case early => exact Bool.eq_false_iff.mpr fun h => hnot (Mach.polezImageReady_iff.mp h)
    case busy =>
      exact commitsGive_named hup hnew hready hlen ha (fun f => Mach.commitNamed_busy hbusy)
        fun h => polezCommitEmpty_runs hup hnew hready hlen h (if_pos hbusy)
    case free =>
      refine ⟨fun ha => polezCommitEmpty_runs hup hnew hready hlen ha (if_neg (Bool.eq_false_iff.mp hfree)),
        fun ha hslot => commitsGive_named hup hnew hready hlen ha.le (fun f => Mach.commitNamed_noSlot hfree hslot) (by omega),
        fun k hslot => ?slot⟩
      case slot =>
        intro done refused
        have acts {i : Instr} {action st : Nat} {f : Nat → Mach → Nat × Mach} {n : Mach}
            (hrow : exec i s = .next (s.withM (m.polezCommit q action bs f))) (ha : a = action) (hf : f k m = (st, n)) :
            exec i s = .next (s.withM (n.respond q 0x12 st [])) :=
          polezCommit_runs hup hnew hready hlen hrow ha (Mach.commitNamed_slot hfree hslot hf)
        refine ⟨fun hno => ?noImage, fun h hhdr hstage => ⟨fun hrec => ?recovery, fun hrec => ?writes⟩, fun ha hno => ?unusable, fun ha hrec huse => ?use,
          fun ha hrec hno => ?notActive, fun ha hrec huse => ?activate⟩
        case noImage =>
          exact ⟨fun ha => acts rfl ha (Mach.polezWrite_noImage hno), fun ha => acts rfl ha (Mach.polezWrite_noImage hno),
            fun ha hrec => acts rfl ha ((if_pos hrec).trans (Mach.polezWrite_noImage hno))⟩
        case recovery =>
          have starts {use : Nat} (huse : use ≠ 1) : m.polezWrite k use = (0, m.startSlotWrite k 0 2) := by
            rw [Mach.polezWrite_starts hhdr hstage fun h1 => absurd h1 huse, if_pos hrec]
          exact ⟨fun ha => acts rfl ha (starts (by decide)), fun ha => acts rfl ha (starts (by simp [hrec])),
            fun ha => acts rfl ha ((if_pos hrec).trans (starts (by decide)))⟩
        case writes =>
          have starts {use : Nat} (hok : use = 1 → m.notBelow k h.version = true) : m.polezWrite k use = (0, m.startSlotWrite k 0 use) := by
            rw [Mach.polezWrite_starts hhdr hstage hok, if_neg (by simp [hrec])]
          have huse : (if m.boot.recovery then 0 else 1) = 1 := if_neg (by simp [hrec])
          exact ⟨fun ha => acts rfl ha (starts nofun), fun ha hnewer => acts rfl ha (.trans (by rw [huse]) (starts fun _ => hnewer)),
            fun ha hold => acts rfl ha (Mach.polezWrite_older hhdr huse hold)⟩
        case unusable => exact acts rfl ha (if_pos (by simpa [Option.isSome_iff_ne_none] using hno))
        case use => exact acts rfl ha (if_neg (by simp [hrec, huse]))
        case notActive => exact acts rfl ha ((if_neg (by simp [hrec])).trans (if_pos (Option.isSome_iff_ne_none.mpr hno)))
        case activate =>
          refine acts rfl ha ((if_neg (by simp [hrec])).trans ((if_neg (by simp [huse])).trans ?_))
          simp only [Bool.or_eq_true, beq_iff_eq, Option.isNone_iff_eq_none]

end Sys2Proof.Machine

/-! # Firmware download, commits, slot writes and live activation (13 R574 to R578, R586 to R590; 04 R184) -/

namespace Sys2Proof.Machine

/-! ## FIRMWARE_IMAGE_DOWNLOAD (13 R576) -/

/-- The end of a piece that has been staged, by whether nothing was refused. -/
def Mach.pieceEnds (stamp : Nat) (r : Bool × Mach) : Mach := if r.1 then r.2.succeed stamp else r.2.failWith stamp St.invalidImage

/-- The piece at offset 0 begins a new image with the header that it carries; the staging area has been emptied. -/
def Mach.firstPiece (stamp : Nat) (e : Sqe) (m : Mach) : Mach :=
  let h := ImageHdr.ofBytes e.data
  if dlLen e < 4096 then m.failWith stamp St.invalidField
  else if m.headerCheck m.floorNow h ≠ 0 then (m.refuseImage (m.headerCheck m.floorNow h)).failWith stamp St.invalidImage
  else if 4096 + h.bodyLen < dlLen e then m.failWith stamp St.invalidImage
  else if dlLen e < 4096 + h.bodyLen ∧ dlLen e % 4096 ≠ 0 then m.failWith stamp St.invalidField
  else Mach.pieceEnds stamp (if dlLen e = 4096 then (true, m.stageHeader 0 e.data)
    else (m.stageHeader 0 e.data).stageBody (window e.data 4096 (dlLen e - 4096)))

/-- A piece that continues the image of header `h`. -/
def Mach.nextPiece (stamp : Nat) (e : Sqe) (h : ImageHdr) (m : Mach) : Mach :=
  if 4096 + h.bodyLen < dlOff e + dlLen e then m.failWith stamp St.invalidImage
  else if dlOff e + dlLen e < 4096 + h.bodyLen ∧ dlLen e % 4096 ≠ 0 then m.failWith stamp St.invalidField
  else Mach.pieceEnds stamp (m.stageBody (window e.data 0 (dlLen e)))

/-- The effect of a Firmware Image Download of plot 0. -/
def Mach.downloadTask (stamp : Nat) (c : Cmd) (m : Mach) : Mach :=
  if m.stagingBusy 0 then m.failWith stamp St.fwProhibited
  else if dlOff c.sqe = 0 then (m.onImg Img.emptied).firstPiece stamp c.sqe
  else if dlOff c.sqe ≠ m.img.hdrBytes + m.img.body then m.failWith stamp St.invalidField
  else match m.img.hdr with
    | none => m.failWith stamp St.invalidField
    | some h => m.nextPiece stamp c.sqe h

theorem exec_firmwareImageDownload_eq (s : State) (stamp at_ : Nat) : exec (.firmwareImageDownload stamp at_) s =
    .next (s.withM ((s.m.advance at_).admin0 stamp 0x11 (Mach.downloadTask stamp))) := rfl

section
variable {stamp : Nat} {c : Cmd} {m : Mach}

theorem Mach.downloadTask_busy (h : m.stagingBusy 0 = true) : m.downloadTask stamp c = m.failWith stamp St.fwProhibited := if_pos h

variable (hfree : m.stagingBusy 0 = false)
include hfree

theorem Mach.downloadTask_first (hoff : dlOff c.sqe = 0) : m.downloadTask stamp c = (m.onImg Img.emptied).firstPiece stamp c.sqe :=
  (if_neg (Bool.eq_false_iff.mp hfree)).trans (if_pos hoff)

variable (hoff : dlOff c.sqe ≠ 0)
include hoff

theorem Mach.downloadTask_stray (h : dlOff c.sqe ≠ m.img.hdrBytes + m.img.body ∨ m.img.hdr = none) :
    m.downloadTask stamp c = m.failWith stamp St.invalidField := by
  rw [Mach.downloadTask, if_neg (Bool.eq_false_iff.mp hfree), if_neg hoff]
  split
  · rfl
  · rw [h.resolve_left ‹_›]

theorem Mach.downloadTask_next {h : ImageHdr} (hnext : dlOff c.sqe = m.img.hdrBytes + m.img.body) (hhdr : m.img.hdr = some h) :
    m.downloadTask stamp c = m.nextPiece stamp c.sqe h := by
  rw [Mach.downloadTask, if_neg (Bool.eq_false_iff.mp hfree), if_neg hoff, if_neg (not_not.mpr hnext), hhdr]

end

section
variable {stamp : Nat} {e : Sqe} {m : Mach}

theorem Mach.firstPiece_short (hlen : dlLen e < 4096) : m.firstPiece stamp e = m.failWith stamp St.invalidField := if_pos hlen

theorem Mach.firstPiece_refused (hlen : 4096 ≤ dlLen e) (hk : m.headerCheck m.floorNow (ImageHdr.ofBytes e.data) ≠ 0) :
    m.firstPiece stamp e = (m.refuseImage (m.headerCheck m.floorNow (ImageHdr.ofBytes e.data))).failWith stamp St.invalidImage :=
  (if_neg hlen.not_gt).trans (if_pos hk)

section
variable (hlen : 4096 ≤ dlLen e) (hk : m.headerCheck m.floorNow (ImageHdr.ofBytes e.data) = 0)
include hlen hk

theorem Mach.firstPiece_long (hlong : 4096 + (ImageHdr.ofBytes e.data).bodyLen < dlLen e) :
    m.firstPiece stamp e = m.failWith stamp St.invalidImage :=
  (if_neg hlen.not_gt).trans ((if_neg (not_not.mpr hk)).trans (if_pos hlong))

theorem Mach.firstPiece_ragged (hpart : dlLen e < 4096 + (ImageHdr.ofBytes e.data).bodyLen) (hrag : dlLen e % 4096 ≠ 0) :
    m.firstPiece stamp e = m.failWith stamp St.invalidField :=
  (if_neg hlen.not_gt).trans ((if_neg (not_not.mpr hk)).trans ((if_neg (by omega)).trans (if_pos ⟨hpart, hrag⟩)))

theorem Mach.firstPiece_stages (hfits : dlLen e ≤ 4096 + (ImageHdr.ofBytes e.data).bodyLen)
    (hwhole : dlLen e < 4096 + (ImageHdr.ofBytes e.data).bodyLen → dlLen e % 4096 = 0) : m.firstPiece stamp e =
      Mach.pieceEnds stamp (if dlLen e = 4096 then (true, m.stageHeader 0 e.data)
        else (m.stageHeader 0 e.data).stageBody (window e.data 4096 (dlLen e - 4096))) :=
  (if_neg hlen.not_gt).trans ((if_neg (not_not.mpr hk)).trans ((if_neg (by omega)).trans (if_neg (by tauto))))

end

variable {h : ImageHdr}

theorem Mach.nextPiece_long (hlong : 4096 + h.bodyLen < dlOff e + dlLen e) :
    m.nextPiece stamp e h = m.failWith stamp St.invalidImage := if_pos hlong

theorem Mach.nextPiece_ragged (hpart : dlOff e + dlLen e < 4096 + h.bodyLen) (hrag : dlLen e % 4096 ≠ 0) :
    m.nextPiece stamp e h = m.failWith stamp St.invalidField :=
  (if_neg (by omega)).trans (if_pos ⟨hpart, hrag⟩)

theorem Mach.nextPiece_stages (hfits : dlOff e + dlLen e ≤ 4096 + h.bodyLen)
    (hwhole : dlOff e + dlLen e < 4096 + h.bodyLen → dlLen e % 4096 = 0) :
    m.nextPiece stamp e h = Mach.pieceEnds stamp (m.stageBody (window e.data 0 (dlLen e))) :=
  (if_neg (by omega)).trans (if_neg (by tauto))

end

/-! ## The body of an image (13 R565 check 8, R575) -/

/-- The machine once body bytes have been appended. -/
def Mach.withBody (bytes : List Byte) (m : Mach) : Mach :=
  m.onImg fun i => { i with body := i.body + bytes.length, staged := i.staged ++ bytes, lastAt := m.clk.now }

section
variable {m : Mach} {h : ImageHdr} {bytes : List Byte} (hhdr : m.img.hdr = some h)
include hhdr

theorem Mach.stageBody_header : m.stageBody bytes =
    if (m.withBody bytes).img.body < h.bodyLen then (true, m.withBody bytes)
    else if leAt (sha384 ((m.withBody bytes).img.staged.drop 4096)) 0 48 = h.digest then
      (true, (m.withBody bytes).onImg fun i => { i with stage := 2 })
    else (false, (m.withBody bytes).refuseImage 8) := by
  rw [Mach.stageBody, hhdr]
  rfl

end

/-! ## Firmware Commit (13 R577) -/

/-- The effect of a Firmware Commit whose row does `f` on the slot that the command names. -/
def Mach.commitTask (stamp : Nat) (f : Nat → Mach → Mach) (c : Cmd) (m : Mach) : Mach :=
  if c.plot ≠ 0 then m.failWith stamp St.invalidOpcode
  else if m.committing then m.failWith stamp St.fwProhibited
  else if 4 ≤ fwAction c.sqe then m.commitFails stamp St.invalidField
  else match m.fwSlot (fwSlotField c.sqe) with
    | none => m.commitFails stamp St.invalidFwSlot
    | some k => f k m

section
variable {s : State} {stamp : Nat} {c : Cmd} (h : s.m.AdminActs stamp 0x10 c)
include h

/-- The row of the command's action, and of a plot other than 0 every row, ends in the command's effect. -/
theorem Mach.AdminActs.commitEffect {i : Instr} {ok : Nat → Bool} {f : Nat → Mach → Mach} {x : Mach}
    (hrow : exec i s = .next (s.withM (s.m.commit stamp ok f))) (hok : ok (fwAction c.sqe) = true)
    (hx : (s.m.dropTasks stamp).commitTask stamp f c = x) : exec i s = .next (s.withM (x.actsOnce stamp)) :=
  h.effectIf (p := fun c => c.plot != 0 || ok (fwAction c.sqe)) (f := Mach.commitTask stamp f) hrow (by rw [hok, Bool.or_true]) (.inl rfl) hx

/-- The four rows of Firmware Commit, where the effect does not depend on the action. -/
theorem Mach.AdminActs.commitRows {x : Mach} (hx : ∀ f, (s.m.dropTasks stamp).commitTask stamp f c = x) :
    let o := Host.Outcome.next (s.withM (x.actsOnce stamp))
    (fwAction c.sqe = 0 ∨ 4 ≤ fwAction c.sqe → exec (.fwCommitReplace stamp) s = o) ∧
    (fwAction c.sqe = 1 → exec (.fwCommitReplaceUse stamp) s = o) ∧
    (fwAction c.sqe = 2 → exec (.fwCommitUseSlot stamp) s = o) ∧ (fwAction c.sqe = 3 → exec (.fwCommitActivate stamp) s = o) :=
  ⟨fun ha => h.commitEffect rfl (by simpa using ha) (hx _), fun ha => h.commitEffect rfl (by simpa using ha) (hx _),
    fun ha => h.commitEffect rfl (by simpa using ha) (hx _), fun ha => h.commitEffect rfl (by simpa using ha) (hx _)⟩

end

section
variable {stamp : Nat} {c : Cmd} {m : Mach} {f : Nat → Mach → Mach}

theorem Mach.commitTask_otherPlot (hplot : c.plot ≠ 0) : m.commitTask stamp f c = m.failWith stamp St.invalidOpcode := if_pos hplot

section
variable (hplot : c.plot = 0)
include hplot

theorem Mach.commitTask_busy (hbusy : m.committing = true) : m.commitTask stamp f c = m.failWith stamp St.fwProhibited :=
  (if_neg (not_not.mpr hplot)).trans (if_pos hbusy)

variable (hfree : m.committing = false)
include hfree

theorem Mach.commitTask_unsupported (ha : 4 ≤ fwAction c.sqe) : m.commitTask stamp f c = m.commitFails stamp St.invalidField :=
  (if_neg (not_not.mpr hplot)).trans ((if_neg (Bool.eq_false_iff.mp hfree)).trans (if_pos ha))

variable (ha : fwAction c.sqe < 4)
include ha

theorem Mach.commitTask_noSlot (hslot : m.fwSlot (fwSlotField c.sqe) = none) :
    m.commitTask stamp f c = m.commitFails stamp St.invalidFwSlot := by
  rw [Mach.commitTask, if_neg (not_not.mpr hplot), if_neg (Bool.eq_false_iff.mp hfree), if_neg ha.not_ge, hslot]

theorem Mach.commitTask_slot {k : Nat} (hslot : m.fwSlot (fwSlotField c.sqe) = some k) : m.commitTask stamp f c = f k m := by
  rw [Mach.commitTask, if_neg (not_not.mpr hplot), if_neg (Bool.eq_false_iff.mp hfree), if_neg ha.not_ge, hslot]

end

variable {slot use : Nat}

theorem Mach.commitWrite_noImage (h : m.img.hdr = none ∨ m.img.stage ≠ 2) :
    m.commitWrite stamp slot use = m.commitFails stamp St.invalidImage := by
  cases hhdr : m.img.hdr with
  | none => rw [Mach.commitWrite, hhdr]
  | some g =>
    rw [Mach.commitWrite, hhdr]
    exact if_pos (h.resolve_left (by simp [hhdr]))

section
variable {h : ImageHdr} (hhdr : m.img.hdr = some h) (hstage : m.img.stage = 2)
include hhdr hstage

theorem Mach.commitWrite_older (huse : use = 1) (hold : m.notBelow slot h.version = false) :
    m.commitWrite stamp slot use = m.commitFails stamp St.fwProhibited := by
  rw [Mach.commitWrite, hhdr]
  exact (if_neg (not_not.mpr hstage)).trans (if_pos ⟨huse, hold⟩)

theorem Mach.commitWrite_starts (hnew : use = 1 → m.notBelow slot h.version = true) :
    m.commitWrite stamp slot use = (m.startSlotWrite slot stamp use).setStage stamp .media := by
  rw [Mach.commitWrite, hhdr]
  exact (if_neg (not_not.mpr hstage)).trans (if_neg (by simpa using hnew))

end

/-! ## Activation of a slot (13 R586) -/

section
variable {cmd : Nat} {same refused : Mach → Mach}

theorem Mach.activateSlot_same (h : m.slotVersion slot = m.img.version) :
    m.activateSlot slot cmd same refused = same (m.commitEnds cmd 1) := if_pos h

variable (hother : m.slotVersion slot ≠ m.img.version)
include hother

theorem Mach.activateSlot_starts (h : m.activateBlock slot = none) : m.activateSlot slot cmd same refused = m.startActivation slot cmd := by
  rw [Mach.activateSlot, if_neg hother, h]

theorem Mach.activateSlot_blocked {r : Nat × Bool} (h : m.activateBlock slot = some r) :
    let n := m.commitEnds cmd r.1
    m.activateSlot slot cmd same refused = refused
      (if r.2 then n.record 0x0D06 (match n.img.runHdr with | some r => r.stateFmt | none => 0) 0 else n) := by
  rw [Mach.activateSlot, if_neg hother, h] <;> rfl

end
end

/-! ## SLOT_WRITE_DONE (13 R578, R585) -/

section
variable {s : State} {ok : Bool}

theorem slotWriteDone_idle (h : s.m.img.writing = none ∨ s.m.img.hdr = none) : exec (.slotWriteDone ok) s = .next s := by
  show execSlotWriteDone ok s = .next s
  unfold execSlotWriteDone
  split
  next hw hh => simp [hw, hh] at h
  next => rfl

/-- The staging area is empty again, and the write has ended. -/
def Mach.slotWritten (m : Mach) : Mach := m.onImg fun i => { i.emptied with writing := none }

/-- The slot holds the image from now on. -/
def Mach.slotGood (slot cmd use : Nat) (h : ImageHdr) (m : Mach) : Mach :=
  ((((m.onImg fun i =>
    { i with slots := Tbl.put Slot.init slot { hdr := some h, bodyOk := true } i.slots, valid := i.valid ++ [slot],
             nextSlot := if use = 1 then some slot else i.nextSlot }).record 0x0D02 slot 0).commitEnds cmd 1).finish cmd
      (if use = 1 then St.fwNeedsReset else Status.ok) 0).afterWrite slot use

/-- The slot's image cannot be used: LAST_RES 3. -/
def Mach.slotBad (slot cmd : Nat) (m : Mach) : Mach :=
  ((m.record 0x0D03 slot 0).commitEnds cmd 3).failWith cmd St.fwProhibited

section
variable {slot cmd use : Nat} {h : ImageHdr} (hwriting : s.m.img.writing = some (slot, cmd, use)) (hhdr : s.m.img.hdr = some h)
include hwriting hhdr

theorem slotWriteDone_good (hok : (ok && s.m.headerCheck s.m.floorNow h == 0) = true) :
    let t := s.withM (s.m.slotWritten.slotGood slot cmd use h)
    exec (.slotWriteDone ok) s = .next (if use = 2 then t.warmReset false false else t) := by
  show execSlotWriteDone ok s = _
  unfold execSlotWriteDone
  rw [hwriting, hhdr]
  simp only [hok, if_true, and_true]
  rfl

theorem slotWriteDone_bad (hbad : (ok && s.m.headerCheck s.m.floorNow h == 0) = false) :
    exec (.slotWriteDone ok) s = .next (s.withM (s.m.slotWritten.slotBad slot cmd)) := by
  show execSlotWriteDone ok s = _
  unfold execSlotWriteDone
  rw [hwriting, hhdr]
  simp only [hbad, Bool.false_eq_true, and_false, if_false]
  rfl

end
end

/-! ## SWATH_SWITCH and CORE_SWITCH (13 R587 to R590; 10 R489) -/

section
variable {s : State} {ok : Bool}

theorem swathSwitch_idle (h : s.m.img.act = none) : exec (.swathSwitch ok) s = .next s := by
  refine State.next_on (x := s.m) ?_
  simp only [h]

theorem coreSwitch_idle (h : s.m.img.act = none) : exec .coreSwitch s = .next s := by
  refine State.next_on (x := s.m) ?_
  simp only [h]

variable {a : Activ} (hact : s.m.img.act = some a)
include hact

theorem coreSwitch_waits (h : a.waiting = true ∨ a.back.isSome = true ∨ s.m.toSwitch a ≠ []) : exec .coreSwitch s = .next s := by
  refine State.next_on (x := s.m) ?_
  simp only [hact]
  exact if_pos (by simpa [or_assoc] using h)

theorem swathSwitch_waits (hwait : a.waiting = true) : exec (.swathSwitch ok) s = .next (s.withM s.m.activationGo) := by
  refine State.next_on ?_
  simp only [hact, hwait, if_true]

variable (hgoes : a.waiting = false)
include hgoes

/-! ### A reversal (13 R589) -/

section
variable {l : List Nat} (hback : a.back = some l)
include hback

theorem swathSwitch_reversed (hleft : l.filter (fun sw => s.m.acreUp (swathAcre sw)) = []) :
    exec (.swathSwitch ok) s = .next (s.withM (s.m.reverseGo a [])) := by
  refine State.next_on ?_
  simp only [hact, hgoes, hback, hleft, Bool.false_eq_true, if_false]

theorem swathSwitch_reverses {sw : Nat} {rest : List Nat} (hleft : l.filter (fun sw => s.m.acreUp (swathAcre sw)) = sw :: rest) :
    exec (.swathSwitch ok) s = .next (s.withM (if s.m.swathEmpty sw then (s.m.reverseGo a rest).placeHeld else s.m)) := by
  refine State.next_on ?_
  simp only [hact, hgoes, hback, hleft, Bool.false_eq_true, if_false]

end

/-! ### Swaths and cores, one after another (13 R588) -/

variable (hback : a.back = none)
include hback

theorem swathSwitch_turn {sw : Nat} {rest : List Nat} (hleft : s.m.toSwitch a = sw :: rest) :
    let m := s.m.onImg fun i => { i with act := some { a with swaths := sw :: rest } }
    exec (.swathSwitch ok) s = .next (s.withM (if !m.swathEmpty sw then m
      else if ok then (m.onImg fun i => { i with act := some { a with swaths := rest, done := a.done ++ [sw] } }).placeHeld
      else m.onImg fun i => { i with act := some { a with swaths := [], back := some (sw :: a.done.reverse) } })) := by
  refine State.next_on ?_
  simp only [hact, hgoes, hback, hleft, Bool.false_eq_true, if_false]

variable (hleft : s.m.toSwitch a = [])
include hleft

theorem swathSwitch_over : exec (.swathSwitch ok) s = .next (s.withM (s.m.onImg fun i => { i with act := some { a with swaths := [] } })) := by
  refine State.next_on ?_
  simp only [hact, hgoes, hback, hleft, Bool.false_eq_true, if_false]

theorem coreSwitch_counts (hcores : a.cores < 3) :
    exec .coreSwitch s = .next (s.withM (s.m.onImg fun i => { i with act := some { a with swaths := [], cores := a.cores + 1 } })) := by
  refine State.next_on ?_
  simp only [hact]
  exact (if_neg (by simp [hgoes, hback, hleft])).trans (if_pos hcores)

/-- What the slot's image has become once the fourth core has switched. -/
def Mach.activated (a : Activ) (h : ImageHdr) (m : Mach) : Mach :=
  let n := (m.raiseFloors a.slot h).onImg fun i =>
    { i.emptied with act := none, running := a.slot, runHdr := some h, version := h.version,
                     nextSlot := if i.nextSlot = some a.slot then none else i.nextSlot }
  ((n.record 0x0D04 ((n.clk.now - a.at_) / Config.edgesPerMs) 0).commitEnds a.cmd 1).succeed a.cmd

variable (hcores : 3 ≤ a.cores)
include hcores

theorem coreSwitch_noImage (hhdr : (s.m.slot a.slot).hdr = none) : exec .coreSwitch s = .next s := by
  refine State.next_on (x := s.m) ?_
  simp only [hact, hhdr]
  exact (if_neg (by simp [hgoes, hback, hleft])).trans (if_neg hcores.not_gt)

theorem coreSwitch_ends {h : ImageHdr} (hhdr : (s.m.slot a.slot).hdr = some h) : exec .coreSwitch s = .next (s.withM
    (if a.cmd = 0 then (s.m.activated a h).reportVersion else (s.m.activated a h).commitMembers h.version)) := by
  refine State.next_on ?_
  simp only [hact, hhdr]
  exact (if_neg (by simp [hgoes, hback, hleft])).trans (if_neg hcores.not_gt)

end

section
variable {m : Mach} {a : Activ} {left : List Nat}

theorem Mach.reverseGo_goes (h : ∃ sw ∈ left, m.acreUp (swathAcre sw) = true) :
    m.reverseGo a left = m.onImg fun i => { i with act := some { a with back := some left } } :=
  if_pos (List.any_eq_true.mpr h)

theorem Mach.reverseGo_ends (h : ∀ sw ∈ left, m.acreUp (swathAcre sw) = false) : m.reverseGo a left =
    ((((((m.onImg fun i => { i.emptied with act := none }).placeHeld).record 0x0D05 a.done.length 0).commitEnds a.cmd 5).failWith
      a.cmd St.invalidImage).reportVersion) :=
  if_neg (by simpa using h)

end

/-! ## STAGING_IDLE_TIMEOUT (13 R575) -/

section
variable {s : State} {at_ : Nat} {m : Mach} (hm : s.m.advance at_ = m)
include hm

theorem stagingIdleTimeout_empties (hstage : m.img.stage = 1) (hdue : m.img.lastAt + 600 * Config.edgesPerSec ≤ m.clk.now) :
    exec (.stagingIdleTimeout at_) s = .next (s.withM ((m.onImg Img.emptied).record 0x0D01 (m.img.body / 1024) 0)) := by
  subst hm
  exact State.next_on (if_neg (not_or.mpr ⟨not_not.mpr hstage, hdue.not_gt⟩))

theorem stagingIdleTimeout_waits (h : m.img.stage ≠ 1 ∨ m.clk.now < m.img.lastAt + 600 * Config.edgesPerSec) :
    exec (.stagingIdleTimeout at_) s = .next (s.withM m) := by
  subst hm
  exact State.next_on (if_pos h)

end

/-- Settles O30: a download and a commit are front-end tasks with the effects `Mach.downloadTask` and `Mach.commitTask`; slot writes and the steps
of an activation have one lemma for each way in which they act. -/
theorem imageCommandsComplete : Obligations.ImageCommandsComplete := by
  refine ⟨?download, ?body, ?commit, fun s ok => slotWriteDone_idle, ?slotWrite, ?switches, ?reverse, ?idle⟩
  case download =>
    intro s stamp at_ c hcmd hturn hopc m d off len h e acts ends
    have hacts : (s.m.advance at_).AdminActs stamp 0x11 c := ⟨hcmd, hturn, congrArg BitVec.toNat hopc⟩
    refine ⟨hacts.badBuffer0 (exec_firmwareImageDownload_eq ..) rfl, fun hbuf => ?_⟩
    have effect {x : Mach} (hplot : c.plot = 0) (hx : m.downloadTask stamp c = x) : exec (.firmwareImageDownload stamp at_) s = acts x :=
      hacts.effect0 (exec_firmwareImageDownload_eq ..) (.inr hbuf) hplot hx
    refine ⟨hacts.otherPlot0 (exec_firmwareImageDownload_eq ..) (.inr hbuf), fun hplot hbusy => effect hplot (Mach.downloadTask_busy hbusy),
      fun hplot hfree hoff => ?first, fun hplot hfree hoff hstray => effect hplot (Mach.downloadTask_stray hfree hoff hstray),
      fun g hplot hfree hoff hnext hhdr => ?next⟩
    case first =>
      have first {x : Mach} (hx : e.firstPiece stamp c.sqe = x) := effect hplot ((Mach.downloadTask_first hfree hoff).trans hx)
      exact ⟨fun hlen => first (Mach.firstPiece_short hlen), fun hlen hk => first (Mach.firstPiece_refused hlen hk),
        fun hlen hk hlong => first (Mach.firstPiece_long hlen hk hlong), fun hlen hk hpart hrag => first (Mach.firstPiece_ragged hlen hk hpart hrag),
        fun hk hfits hlen => first ((Mach.firstPiece_stages hlen.ge hk hfits (by omega)).trans (by rw [if_pos hlen]; rfl)),
        fun hk hfits hlen hwhole => first ((Mach.firstPiece_stages hlen.le hk hfits hwhole).trans (by rw [if_neg hlen.ne']; rfl))⟩
    case next =>
      have next {x : Mach} (hx : m.nextPiece stamp c.sqe g = x) := effect hplot ((Mach.downloadTask_next hfree hoff hnext hhdr).trans hx)
      exact ⟨fun hlong => next (Mach.nextPiece_long hlong), fun hpart hrag => next (Mach.nextPiece_ragged hpart hrag),
        fun hfits hwhole => next (Mach.nextPiece_stages hfits hwhole)⟩
  case body =>
    intro m h bytes hhdr n
    have hstage := Mach.stageBody_header (bytes := bytes) hhdr
    exact ⟨fun hpart => hstage.trans (if_pos hpart), fun hwhole hdigest => hstage.trans ((if_neg hwhole.not_gt).trans (if_pos hdigest)),
      fun hwhole hdigest => hstage.trans ((if_neg hwhole.not_gt).trans (if_neg hdigest))⟩
  case commit =>
    intro s stamp c hcmd hturn hopc m a slotOf acts all
    have h : s.m.AdminActs stamp 0x10 c := ⟨hcmd, hturn, congrArg BitVec.toNat hopc⟩
    refine ⟨fun hplot => h.commitRows fun _ => Mach.commitTask_otherPlot hplot,
      fun hplot hbusy => h.commitRows fun _ => Mach.commitTask_busy hplot hbusy, fun hplot hfree => ⟨fun ha => ?unsupported,
        fun ha hslot => h.commitRows fun _ => Mach.commitTask_noSlot hplot hfree ha hslot, fun slot hslot => ?slot⟩⟩
    case unsupported => exact h.commitEffect rfl (by simpa using .inr ha) (Mach.commitTask_unsupported hplot hfree ha)
    case slot =>
      have acts_on {i : Instr} {ok : Nat → Bool} {f : Nat → Mach → Mach} {action : Nat} {x : Mach}
          (hrow : exec i s = .next (s.withM (s.m.commit stamp ok f))) (hok : ok action = true) (ha : fwAction c.sqe = action) (hlt : action < 4)
          (hx : f slot m = x) : exec i s = acts x :=
        h.commitEffect hrow (ha ▸ hok) ((Mach.commitTask_slot hplot hfree (ha ▸ hlt) hslot).trans hx)
      have replace {x : Mach} (ha : a = 0) (hx : m.commitWrite stamp slot 0 = x) := acts_on (i := .fwCommitReplace stamp) rfl rfl ha (by decide) hx
      have replaceUse {x : Mach} (ha : a = 1) (hx : m.commitWrite stamp slot 1 = x) :=
        acts_on (i := .fwCommitReplaceUse stamp) rfl rfl ha (by decide) hx
      refine ⟨fun hno => ⟨fun ha => replace ha (Mach.commitWrite_noImage hno), fun ha => replaceUse ha (Mach.commitWrite_noImage hno)⟩,
        fun g hhdr hstage => ⟨fun ha => replace ha (Mach.commitWrite_starts hhdr hstage nofun),
          fun ha hold => replaceUse ha (Mach.commitWrite_older hhdr hstage rfl hold),
          fun ha hnew => replaceUse ha (Mach.commitWrite_starts hhdr hstage fun _ => hnew)⟩,
        fun st hst => ?unusable, fun hst => ?usable⟩
      case unusable =>
        exact ⟨fun ha => acts_on rfl rfl ha (by decide) (by simp only [hst]), fun ha => acts_on rfl rfl ha (by decide) (by simp only [hst])⟩
      case usable =>
        have activate {x : Mach} (ha : a = 3)
            (hx : m.activateSlot slot stamp (fun m => m.succeed stamp) (fun m => m.failWith stamp St.fwNeedsReset) = x) :
            exec (.fwCommitActivate stamp) s = acts x := acts_on rfl rfl ha (by decide) (by simp only [hst]; exact hx)
        exact ⟨fun ha => acts_on rfl rfl ha (by decide) (by simp only [hst]), fun ha hsame => activate ha (Mach.activateSlot_same hsame),
          fun ha hother hfits => activate ha (Mach.activateSlot_starts hother hfits),
          fun r ha hother hblock => activate ha (Mach.activateSlot_blocked hother hblock)⟩
  case slotWrite =>
    intro s slot cmd use h hwriting hhdr m done t
    refine ⟨fun hk => ?_, fun hk => ?_, ?_⟩
    · exact slotWriteDone_good hwriting hhdr (by simp [hk])
    · exact slotWriteDone_bad hwriting hhdr (by simp [hk])
    · exact slotWriteDone_bad hwriting hhdr rfl
  case switches =>
    intro s ok
    refine ⟨fun hact => ⟨swathSwitch_idle hact, coreSwitch_idle hact⟩, fun a hact =>
      ⟨fun hwait => ⟨swathSwitch_waits hact hwait, coreSwitch_waits hact (.inl hwait)⟩, fun l hgoes hback => ?back, fun sw rest hgoes hback hleft => ?turn,
        fun hgoes hback hleft => ⟨swathSwitch_over hact hgoes hback hleft, coreSwitch_counts hact hgoes hback hleft, coreSwitch_noImage hact hgoes hback hleft,
          fun h hcores hhdr => coreSwitch_ends hact hgoes hback hleft hcores hhdr⟩⟩⟩
    case back =>
      refine ⟨coreSwitch_waits hact (.inr (.inl (by simp [hback]))), fun hleft => swathSwitch_reversed hact hgoes hback hleft, fun sw rest hleft => ?_⟩
      have hturn := swathSwitch_reverses (ok := ok) hact hgoes hback hleft
      exact ⟨fun hempty => by rw [hturn, if_pos hempty], fun hempty => by rw [hturn, if_neg (Bool.eq_false_iff.mp hempty)]; rfl⟩
    case turn =>
      intro m
      have hturn (ok : Bool) := swathSwitch_turn (ok := ok) hact hgoes hback hleft
      refine ⟨coreSwitch_waits hact (.inr (.inr (by simp [hleft]))), fun hempty => ?_, fun hempty => ⟨?_, ?_⟩⟩
      · rw [hturn, if_pos (by simpa using hempty)]
      · rw [hturn, if_neg (by simpa using hempty), if_pos rfl]
      · rw [hturn, if_neg (by simpa using hempty), if_neg nofun]
  case reverse => exact fun m a left => ⟨Mach.reverseGo_goes, Mach.reverseGo_ends⟩
  case idle => exact fun s at_ => ⟨stagingIdleTimeout_empties rfl, stagingIdleTimeout_waits rfl⟩

end Sys2Proof.Machine

/-! # Time-base entries, occurrences, persists and journal units of the Yield Book (14 R601 to R608) -/

namespace Sys2Proof.Machine

/-- Sixty powered seconds have passed since the last time-base entry. -/
def Mach.timeBaseDue (m : Mach) : Prop := m.awake = true ∧ m.clk.basesLoaded = true ∧ m.clk.lastEntryAt + 192000000000 ≤ m.clk.now

theorem Mach.timeBaseTest_iff {m : Mach} :
    (m.awake && m.clk.basesLoaded && decide (m.clk.lastEntryAt + 60 * Config.edgesPerSec ≤ m.clk.now)) = true ↔ m.timeBaseDue := by
  simp only [Bool.and_eq_true, decide_eq_true_eq, and_assoc]
  rfl

section
variable {s : State} {at_ : Nat} {m : Mach} (hm : s.m.advance at_ = m)
include hm

/-! ## TIME_BASE_WRITE (14 R601) -/

theorem timeBaseWrite_writes (h : m.timeBaseDue) : exec (.timeBaseWrite at_) s = .next (s.withM m.timeBase) := by
  subst hm
  exact State.next_on (if_pos (Mach.timeBaseTest_iff.mpr h))

theorem timeBaseWrite_early (h : ¬m.timeBaseDue) : exec (.timeBaseWrite at_) s = .next (s.withM m) := by
  subst hm
  exact State.next_on (if_neg (mt Mach.timeBaseTest_iff.mp h))

/-! ## OCCURRENCE_APPLY (14 R603 to R605) -/

theorem occurrenceApply_none (h : m.nextOcc = none) : exec (.occurrenceApply at_) s = .next (s.withM m) := by
  subst hm
  refine State.next_on ?_
  simp only [h]

/-- The occurrence is taken from the queue, on an edge of its own. -/
def Mach.takeOcc (o : Occ) (m : Mach) : Mach :=
  let k := m.advance (m.ybk.appliedAt + 1)
  k.onYbk fun y => { y with queue := y.queue.erase o, appliedAt := k.clk.now }

/-- It is applied to its record, which in service is written to the hub region (14 R595). -/
def Mach.bookOcc (o : Occ) (m : Mach) : Mach := if (m.applyOcc o).startBook then m.applyOcc o else (m.applyOcc o).bookWrite o.code

/-- Drops of an acre whose queue has room again are recorded. -/
def Mach.recordOwed (o : Occ) (m : Mach) : Mach :=
  let owed := Tbl.get 0 (o.src - 1) m.ybk.dropOwed
  if o.src ≠ 0 ∧ 0 < owed then (m.onYbk fun y => { y with dropOwed := Tbl.put 0 (o.src - 1) 0 y.dropOwed }).record 0x0E01 owed 0 else m

theorem occurrenceApply_applies {o : Occ} (h : m.nextOcc = some o) :
    exec (.occurrenceApply at_) s = .next (s.withM (((m.takeOcc o).bookOcc o).recordOwed o)) := by
  subst hm
  refine State.next_on ?_
  simp only [h]
  rfl

/-! ## PERSIST_INTERVAL_END (14 R606) -/

section
variable {code : Nat}

theorem persistIntervalEnd_persists (hpending : (m.ybkRec code).pending = true) (hmay : m.mayPersist code = true) :
    exec (.persistIntervalEnd code at_) s = .next (s.withM (m.persist code)) := by
  subst hm
  exact State.next_on (if_pos (by rw [hpending, hmay]; rfl))

theorem persistIntervalEnd_waits (h : (m.ybkRec code).pending = false ∨ m.mayPersist code = false) :
    exec (.persistIntervalEnd code at_) s = .next (s.withM m) := by
  subst hm
  exact State.next_on (if_neg (by simpa only [Bool.and_eq_true, not_and_or, Bool.not_eq_true] using h))

end
end

/-! ## JOURNAL_UNIT_PROGRAM (14 R608) -/

/-- 256 images have been gathered, or the first has waited for 1 s, and no unit is being programmed. -/
def Mach.journalDue (m : Mach) : Prop :=
  m.ybk.images ≠ [] ∧ m.ybk.copies = [] ∧ (256 ≤ m.ybk.images.length ∨ m.ybk.imagesAt + 1000 ≤ m.powMs)

theorem Mach.journalTest_iff {m : Mach} :
    (m.ybk.images.isEmpty || !m.ybk.copies.isEmpty || (decide (m.ybk.images.length < 256) && decide (m.powMs < m.ybk.imagesAt + 1000))) = true ↔
      ¬m.journalDue := by
  simp only [Mach.journalDue, Bool.or_eq_true, Bool.and_eq_true, Bool.not_eq_true', List.isEmpty_iff, List.isEmpty_eq_false_iff,
    decide_eq_true_eq, not_and_or, not_or, not_not, not_le, or_assoc, ne_eq]

/-- The images that the unit takes leave the list of those gathered. -/
def Mach.takeImages (m : Mach) : Mach := m.onYbk fun y => { y with images := y.images.drop 256, imagesAt := m.powMs }

/-- With no die that takes the unit its images go to the boot flash. -/
def Mach.journalToBoot (now : List (Nat × Rec)) (m : Mach) : Mach := now.foldl (fun m e => m.bootEntry (some (e.1, e.2, false))) m

/-- The unit is programmed on every journal die in service. -/
def Mach.journalProgram (now : List (Nat × Rec)) (m : Mach) : Mach :=
  m.journalDies.foldl (fun n d => n.headWrite d (journalBlock (m.ybk.unitsDone / m.journalBlockUnits)) .program true)
    (m.onYbk fun y => { y with unit := now, copies := m.journalDies, unitSafe := false })

section
variable {s : State} {at_ : Nat} {m : Mach} (hm : (s.m.advance at_).journalPrune = m)
include hm

theorem journalUnitProgram_waits (h : ¬m.journalDue) : exec (.journalUnitProgram at_) s = .next (s.withM m) := by
  subst hm
  exact State.next_on (if_pos (Mach.journalTest_iff.mpr h))

variable (h : m.journalDue)
include h

theorem journalUnitProgram_toBoot (hdies : m.takeImages.journalDies = []) :
    exec (.journalUnitProgram at_) s = .next (s.withM (m.takeImages.journalToBoot (m.ybk.images.take 256))) := by
  subst hm
  exact State.next_on ((if_neg (mt Mach.journalTest_iff.mp (not_not.mpr h))).trans (if_pos (List.isEmpty_iff.mpr hdies)))

theorem journalUnitProgram_programs (hdies : m.takeImages.journalDies ≠ []) :
    exec (.journalUnitProgram at_) s = .next (s.withM (m.takeImages.journalProgram (m.ybk.images.take 256))) := by
  subst hm
  exact State.next_on ((if_neg (mt Mach.journalTest_iff.mp (not_not.mpr h))).trans (if_neg (mt List.isEmpty_iff.mp hdies)))

end

/-! ## Records and owed drops -/

section
variable {m : Mach} {o : Occ}

theorem Mach.recordOwed_none (h : o.src = 0 ∨ Tbl.get 0 (o.src - 1) m.ybk.dropOwed = 0) : m.recordOwed o = m := if_neg (by omega)

theorem Mach.recordOwed_some (hsrc : o.src ≠ 0) (howed : 0 < Tbl.get 0 (o.src - 1) m.ybk.dropOwed) : m.recordOwed o =
    (m.onYbk fun y => { y with dropOwed := Tbl.put 0 (o.src - 1) 0 y.dropOwed }).record 0x0E01 (Tbl.get 0 (o.src - 1) m.ybk.dropOwed) 0 :=
  if_pos ⟨hsrc, howed⟩

theorem Mach.applyOcc_slot (h : m.startBook = true ∨ m.ybk.slots.contains o.code = true) : m.applyOcc o = m.countCode o.code o.mag :=
  if_pos (Bool.or_eq_true_iff.mpr h)

section
variable (hbook : m.startBook = false) (hslot : m.ybk.slots.contains o.code = false)
include hbook hslot

theorem Mach.applyOcc_uncounted (h : m.ybk.slots.contains 0x0E00 = true) : m.applyOcc o = m.countCode 0x0E00 o.code :=
  (if_neg (by rw [hbook, hslot]; decide)).trans (if_pos h)

theorem Mach.applyOcc_lost (h : m.ybk.slots.contains 0x0E00 = false) : m.applyOcc o = m :=
  (if_neg (by rw [hbook, hslot]; decide)).trans (if_neg (Bool.eq_false_iff.mp h))

end
end

/-- Settles O45: one lemma for each way in which these rows act or wait. -/
theorem yieldBookCommandsComplete : Obligations.YieldBookCommandsComplete := by
  refine ⟨fun s at_ => ⟨timeBaseWrite_writes rfl, timeBaseWrite_early rfl⟩, fun s at_ => ⟨occurrenceApply_none rfl, fun o ho => ?apply⟩,
    fun s code at_ => ⟨persistIntervalEnd_persists rfl, persistIntervalEnd_waits rfl⟩,
    fun s at_ => ⟨journalUnitProgram_waits rfl, journalUnitProgram_toBoot rfl, journalUnitProgram_programs rfl⟩⟩
  case apply =>
    intro k n a owed
    have happlies : exec (.occurrenceApply at_) s = .next (s.withM (a.recordOwed o)) := occurrenceApply_applies rfl ho
    exact ⟨fun h => happlies.trans (by rw [Mach.recordOwed_none h]), fun hsrc howed => happlies.trans (by rw [Mach.recordOwed_some hsrc howed]),
      Mach.applyOcc_slot, Mach.applyOcc_uncounted, Mach.applyOcc_lost⟩

end Sys2Proof.Machine

/-! # What the service port's reads, the sensor commands and the Yield Book commands leave unchanged (13 R580; 11 R508 to R516; 14 R601 to R608) -/

namespace Sys2Proof.Machine

/-- A row that leaves the parts of `m` that `part` does not take from elsewhere ends in `m` with the row's own parts: `part m d` is `m` with some
parts of `d`. -/
theorem State.next_on_frame {s t : State} {f : Cfg → Mach → Mach} {m : Mach} {part : Mach → Mach → Mach}
    (h : .next (s.on f) = (.next t : Host.Outcome State Fault Refusal)) (hself : ∀ d : Mach, part d d = d)
    (hf : part (f s.cfg s.m) = part m) : t = s.withM (part m t.m) := by
  obtain rfl := Host.Outcome.next.inj h
  exact congrArg s.withM ((hself _).symm.trans (congrFun hf _))

/-! ## Requests of the service port (13 R580 to R583) -/

/-- `m` with the service port of `d`. -/
def Mach.withPortOf (m d : Mach) : Mach := { m with polez := d.polez }
/-- `m` with the service port and the Yield Book of `d`. -/
def Mach.withPortAndBookOf (m d : Mach) : Mach := { m with polez := d.polez, ybk := d.ybk }

section
variable {m : Mach} {q op : Nat} {image ok : Bool} {f : Mach → Mach}

@[simp] theorem Mach.onPolez_withPortOf (g : Polez → Polez) : (m.onPolez g).withPortOf = m.withPortOf := rfl
@[simp] theorem Mach.respond_withPortOf (st : Nat) (bs : List Byte) : (m.respond q op st bs).withPortOf = m.withPortOf := rfl

/-- A request is answered in one of two ways. -/
theorem Mach.answer_withPortOf {c : Prop} [Decidable c] {st st' : Nat} {bs bs' : List Byte} :
    (if c then m.respond q op st bs else m.respond q op st' bs').withPortOf = m.withPortOf := by
  split <;> rfl

variable (hf : (f m).withPortOf = m.withPortOf)
include hf

theorem Mach.polezReq_withPortOf : (m.polezReq q op image f).withPortOf = m.withPortOf := by
  unfold Mach.polezReq
  split_ifs
  · rfl
  · rfl
  · exact hf
  · rfl

theorem Mach.polezSized_withPortOf : (m.polezSized q op image ok f).withPortOf = m.withPortOf := by
  refine Mach.polezReq_withPortOf ?_
  cases ok with
  | false => rfl
  | true => exact hf

end

section
variable {s t : State} {q : Nat} {bs : List Byte}

theorem polezIdentify_frame (h : exec (.polezIdentify q) s = .next t) : t = s.withM (s.m.withPortOf t.m) := by
  refine State.next_on_frame h (fun _ => rfl) ?_
  split_ifs <;> rfl

theorem polezReadSensors_frame (h : exec (.polezReadSensors q) s = .next t) : t = s.withM (s.m.withPortOf t.m) :=
  State.next_on_frame h (fun _ => rfl) (Mach.polezReq_withPortOf rfl)

theorem polezReadYieldBook_frame (h : exec (.polezReadYieldBook q bs) s = .next t) : t = s.withM (s.m.withPortOf t.m) :=
  State.next_on_frame h (fun _ => rfl) (Mach.polezSized_withPortOf Mach.answer_withPortOf)

theorem polezReadTally_frame (h : exec (.polezReadTally q bs) s = .next t) : t = s.withM (s.m.withPortOf t.m) :=
  State.next_on_frame h (fun _ => rfl) (Mach.polezSized_withPortOf Mach.answer_withPortOf)

theorem polezPlotState_frame (h : exec (.polezPlotState q bs) s = .next t) : t = s.withM (s.m.withPortOf t.m) :=
  State.next_on_frame h (fun _ => rfl) (Mach.polezSized_withPortOf Mach.answer_withPortOf)

theorem polezOpcodeNotSupported_frame {op : Nat} (h : exec (.polezOpcodeNotSupported q op) s = .next t) : t = s.withM (s.m.withPortOf t.m) := by
  refine State.next_on_frame h (fun _ => rfl) ?_
  split_ifs
  · rfl
  · exact Mach.polezReq_withPortOf rfl

theorem polezFramingError_frame {n : Nat} (h : exec (.polezFramingError n) s = .next t) : t = s.withM (s.m.withPortAndBookOf t.m) := by
  refine State.next_on_frame h (fun _ => rfl) ?_
  split_ifs <;> rfl

end

/-! ## The throttle, the current-sense inputs and the diodes (11 R508 to R516) -/

/-- `m` with the thermal state, the Yield Book and the interrupt bits of `d`. -/
def Mach.withHeatOf (m d : Mach) : Mach := { m with heat := d.heat, ybk := d.ybk, hub := { m.hub with intSts := d.hub.intSts } }

section
variable {m : Mach}

@[simp] theorem Mach.onHeat_withHeatOf (g : Heat → Heat) : (m.onHeat g).withHeatOf = m.withHeatOf := rfl
@[simp] theorem Mach.hubInt_withHeatOf (b : Nat) : (m.hubInt b).withHeatOf = m.withHeatOf := rfl
@[simp] theorem Mach.record_withHeatOf (code mag src : Nat) : (m.record code mag src).withHeatOf = m.withHeatOf := by
  rw [Mach.record_only]
  rfl
@[simp] theorem Mach.updSense_withHeatOf (g : Nat) (f : Sense → Sense) : (m.updSense g f).withHeatOf = m.withHeatOf := rfl
@[simp] theorem Mach.updDiode_withHeatOf (d : Nat) (f : Diode → Diode) : (m.updDiode d f).withHeatOf = m.withHeatOf := rfl
@[simp] theorem Mach.noteFailed_withHeatOf : m.noteFailed.withHeatOf = m.withHeatOf := rfl

@[simp] theorem Mach.raiseStep_withHeatOf (n src : Nat) : (m.raiseStep n src).withHeatOf = m.withHeatOf := by
  unfold Mach.raiseStep
  split <;> simp

@[simp] theorem Mach.evalStep_withHeatOf : m.evalStep.withHeatOf = m.withHeatOf := by
  simp only [Mach.evalStep]
  split_ifs <;> simp

/-- An event is recorded and its interrupt bit set, or neither. -/
theorem Mach.report_withHeatOf {c : Prop} [Decidable c] {code mag src b : Nat} :
    (if c then (m.record code mag src).hubInt b else m).withHeatOf = m.withHeatOf := by
  split <;> simp

@[simp] theorem Mach.sample_withHeatOf (g v : Nat) : (m.sample g v).withHeatOf = m.withHeatOf :=
  Mach.report_withHeatOf.trans (Mach.updSense_withHeatOf g _)

@[simp] theorem Mach.diodeFails_withHeatOf (d kind : Nat) : (m.diodeFails d kind).withHeatOf = m.withHeatOf := by
  simp [Mach.diodeFails]

end

section
variable {s t : State}

theorem throttleEval_frame (h : exec .throttleEval s = .next t) : t = s.withM (s.m.withHeatOf t.m) := by
  refine State.next_on_frame h (fun _ => rfl) ?_
  split_ifs
  · rfl
  · exact Mach.evalStep_withHeatOf

theorem isnsSample_frame {v : List Nat} (h : exec (.isnsSample v) s = .next t) : t = s.withM (s.m.withHeatOf t.m) := by
  refine State.next_on_frame h (fun _ => rfl) ?_
  split_ifs
  · rfl
  · exact foldl_keeps Mach.withHeatOf _ (fun _ _ => Mach.sample_withHeatOf ..) _ _

theorem diodeSelfCheck_frame {d a b : Nat} {r : Int} (h : exec (.diodeSelfCheck d a b r) s = .next t) : t = s.withM (s.m.withHeatOf t.m) := by
  refine State.next_on_frame h (fun _ => rfl) ?_
  dsimp only
  split_ifs <;> simp

end

/-! ## Time-base entries and persists of the Yield Book (14 R601, R606) -/

/-- `m` with the clock and the Yield Book of `d`. -/
def Mach.withClockOf (m d : Mach) : Mach := { m with clk := d.clk, ybk := d.ybk }

section
variable {m : Mach}

theorem Mach.bootEntry_only (e : Option (Nat × Rec × Bool)) : m.bootEntry e = { m with ybk := (m.bootEntry e).ybk } := by
  simp only [Mach.bootEntry]
  split <;> rfl

theorem Mach.queueImage_only (code : Nat) (r : Rec) : m.queueImage code r = { m with ybk := (m.queueImage code r).ybk } := by
  unfold Mach.queueImage
  split_ifs
  · exact Mach.bootEntry_only _
  · rfl
  · exact Mach.bootEntry_only _

theorem Mach.setRec_only (code : Nat) (r : Rec) : m.setRec code r = { m with ybk := (m.setRec code r).ybk } := by
  unfold Mach.setRec
  split <;> rfl

@[simp] theorem Mach.persist_withClockOf (code : Nat) : (m.persist code).withClockOf = m.withClockOf := by
  rw [Mach.persist, Mach.queueImage_only, Mach.setRec_only]
  rfl

@[simp] theorem Mach.timeBase_withClockOf : m.timeBase.withClockOf = m.withClockOf := by
  rw [Mach.timeBase, Mach.bootEntry_only]
  rfl

end

section
variable {s t : State} {at_ : Nat}

theorem timeBaseWrite_frame (h : exec (.timeBaseWrite at_) s = .next t) : t = s.withM ((s.m.advance at_).withClockOf t.m) := by
  refine State.next_on_frame h (fun _ => rfl) ?_
  dsimp only
  split_ifs
  · exact Mach.timeBase_withClockOf
  · rfl

theorem persistIntervalEnd_frame {code : Nat} (h : exec (.persistIntervalEnd code at_) s = .next t) :
    t = s.withM ((s.m.advance at_).withClockOf t.m) := by
  refine State.next_on_frame h (fun _ => rfl) ?_
  dsimp only
  split_ifs
  · exact Mach.persist_withClockOf code
  · rfl

end

/-! ## Journal units (14 R608) -/

/-- `m` with the Yield Book of `d`, its windows of the Media Guard, what its media want, and where its tasks wait. -/
def Mach.withJournalOf (m d : Mach) : Mach :=
  { m with ybk := d.ybk, tines := d.tines, disp := d.disp, retry := d.retry, img := { m.img with hold := d.img.hold },
           med := { m.med with windows := d.med.windows, wp := d.med.wp, wants := d.med.wants, nextId := d.med.nextId } }

section
variable {m : Mach}

@[simp] theorem Mach.onYbk_withJournalOf (g : Ybk → Ybk) : (m.onYbk g).withJournalOf = m.withJournalOf := rfl
@[simp] theorem Mach.record_withJournalOf (code mag : Nat) : (m.record code mag 0).withJournalOf = m.withJournalOf := rfl
@[simp] theorem Mach.bootEntry_withJournalOf (e : Option (Nat × Rec × Bool)) : (m.bootEntry e).withJournalOf = m.withJournalOf := by
  rw [Mach.bootEntry_only]
  rfl
@[simp] theorem Mach.place_withJournalOf (k : Task) : (m.place k).withJournalOf = m.withJournalOf := by
  rw [Mach.place_only]
  rfl
@[simp] theorem Mach.openWindow_withJournalOf (sector ops : Nat) : (m.openWindow false sector ops).withJournalOf = m.withJournalOf := rfl
@[simp] theorem Mach.wantAny_withJournalOf (r : SlotReq) : (m.wantAny r).withJournalOf = m.withJournalOf := Mach.place_withJournalOf _

@[simp] theorem Mach.want_withJournalOf (r : SlotReq) : (m.want r).withJournalOf = m.withJournalOf := by
  unfold Mach.want
  split
  · rfl
  · exact Mach.wantAny_withJournalOf r

@[simp] theorem Mach.headWrite_withJournalOf (die block : Nat) (op : DieOp) (unit : Bool) :
    (m.headWrite die block op unit).withJournalOf = m.withJournalOf := Mach.want_withJournalOf _

@[simp] theorem Mach.journalUnit_withJournalOf (l : List (Nat × Rec)) : (m.journalUnit l).withJournalOf = m.withJournalOf := rfl

/-- Operations asked for one after another keep what asking for one keeps. -/
theorem Mach.foldl_withJournalOf {α : Type} {f : Mach → α → Mach} (hf : ∀ m x, (f m x).withJournalOf = m.withJournalOf)
    (l : List α) (m : Mach) : (l.foldl f m).withJournalOf = m.withJournalOf := foldl_keeps Mach.withJournalOf f hf l m

@[simp] theorem Mach.compact_withJournalOf : m.compact.withJournalOf = m.withJournalOf := by
  unfold Mach.compact
  split_ifs
  · rfl
  · refine (Mach.record_withJournalOf ..).trans ((Mach.onYbk_withJournalOf _).trans ?_)
    rw [Mach.foldl_withJournalOf fun _ _ => Mach.headWrite_withJournalOf .., Mach.foldl_withJournalOf fun _ _ =>
      Mach.foldl_withJournalOf (fun _ _ => Mach.headWrite_withJournalOf ..) _ _]

@[simp] theorem Mach.journalPrune_withJournalOf : m.journalPrune.withJournalOf = m.withJournalOf := by
  simp only [Mach.journalPrune]
  split_ifs <;> simp

end

section
variable {s t : State} {at_ : Nat}

theorem Mach.journalToBoot_withJournalOf (l : List (Nat × Rec)) (m : Mach) : (m.journalToBoot l).withJournalOf = m.withJournalOf :=
  Mach.foldl_withJournalOf (fun _ _ => Mach.bootEntry_withJournalOf _) _ _

theorem Mach.journalProgram_withJournalOf (l : List (Nat × Rec)) (m : Mach) : (m.journalProgram l).withJournalOf = m.withJournalOf :=
  Mach.foldl_withJournalOf (fun _ _ => Mach.headWrite_withJournalOf ..) _ _

theorem journalUnitProgram_frame (h : exec (.journalUnitProgram at_) s = .next t) : t = s.withM ((s.m.advance at_).withJournalOf t.m) := by
  refine State.next_on_frame h (fun _ => rfl) (Eq.trans ?_ Mach.journalPrune_withJournalOf)
  dsimp only
  split_ifs
  · rfl
  · exact Mach.journalToBoot_withJournalOf _ _
  · exact Mach.journalProgram_withJournalOf _ _

end

/-- Settles O58: one frame for each row. -/
theorem framesOfServiceAndSensorCommands : Obligations.FramesOfServiceAndSensorCommands := by
  refine ⟨?port, fun _ _ _ => polezFramingError_frame, ?heat, ?book, fun _ _ _ => journalUnitProgram_frame⟩
  case port =>
    rintro s t q (h | h | ⟨_, h⟩ | ⟨_, h⟩ | ⟨_, h⟩ | ⟨_, h⟩)
    · exact polezIdentify_frame h
    · exact polezReadSensors_frame h
    · exact polezReadYieldBook_frame h
    · exact polezReadTally_frame h
    · exact polezPlotState_frame h
    · exact polezOpcodeNotSupported_frame h
  case heat =>
    rintro s t (h | ⟨_, h⟩ | ⟨_, _, _, _, h⟩)
    · exact throttleEval_frame h
    · exact isnsSample_frame h
    · exact diodeSelfCheck_frame h
  case book =>
    rintro s t at_ (h | ⟨_, h⟩)
    · exact timeBaseWrite_frame h
    · exact persistIntervalEnd_frame h

end Sys2Proof.Machine
